-- ==== Sys2Proof/Word.lean ====
section
/-! DEFINITION. Sys2Proof/Word.lean: the widths the manual uses (10_record_and_register_formats.md) and the ranges
of its numbered things: sources, lines, bundles, targets (R1, R51, R112). -/
namespace Sys2Proof

/-- A 1-byte field of a record. -/
abbrev Byte := BitVec 8
/-- A 2-byte field: tags, tokens, filters, details. -/
abbrev Half := BitVec 16
/-- A 32-bit register, ring index, tally or interval. -/
abbrev Word := BitVec 32
/-- A 64-bit byte address in host memory (00, Addresses). -/
abbrev Addr := BitVec 64
/-- A timebase value: a 48-bit count of µs (R16). -/
abbrev Time := BitVec 48

/-- Sources 0 to 215 (R1). -/
abbrev SourceId := Fin 216
/-- Field lines 0 to 191 (R1). -/
abbrev LineId := Fin 192
/-- Bundles 0 to 47 (R51). -/
abbrev BundleId := Fin 48
/-- Targets 0 to 5 (R112). -/
abbrev TargetId := Fin 6

end Sys2Proof
end

