-- ==== Sys2Proof/Machine/Bytes.lean ====
section
/-! DEFINITION. Sys2Proof/Machine/Bytes.lean: little-endian fields (10_record_and_register_formats.md, opening
paragraph): a wide field holds its low 8 bits at the lower address. -/
namespace Sys2Proof.Machine

/-- The `k` bytes of a field that holds `x`, lowest address first. -/
def leBytes : Nat → Nat → List Byte
  | 0, _ => []
  | k + 1, x => BitVec.ofNat 8 x :: leBytes k (x / 256)

/-- The value of a field, from its bytes, lowest address first. -/
def leNat : List Byte → Nat
  | [] => 0
  | b :: bs => b.toNat + 256 * leNat bs

/-- The value of the field of `size` bytes at byte offset `off` of a record. -/
def field (record : List Byte) (off size : Nat) : Nat :=
  leNat ((record.drop off).take size)

/-- `k` zero bytes: what the part writes where a table marks "zero" (R164). -/
def zeros (k : Nat) : List Byte := List.replicate k 0#8

/-- A record made `size` bytes long with zero bytes at its end. -/
def padTo (size : Nat) (record : List Byte) : List Byte :=
  record ++ zeros (size - record.length)

/-- One bit of a flags byte, at its place. -/
def bit (b : Bool) (place : Nat) : Nat := if b then 2 ^ place else 0

end Sys2Proof.Machine
end

