-- ==== Sys2Proof/Syntax.lean ====
section
/-! DEFINITION. Sys2Proof/Syntax.lean: the commands of the block, one constructor per row of spec/opcode_table.json,
with the field values that the row's record or register write brings. Codes are kept as read, out-of-range ones
included, because the rules judge them (R164). -/
namespace Sys2Proof

/-- What the DONE answer of a command read brings beside the kind and its arguments (R137, command slot table):
the number of the answered request, the slot's tag, and its SIGNAL flag. -/
structure SlotRead where
  req    : Nat
  tag    : Half
  signal : Bool
  deriving DecidableEq, Repr

/-- The answer to a WRITE request (R151). -/
inductive WriteAnswer where
  | done
  | refused
  deriving DecidableEq, Repr

/-- The answer to a 4-byte READ request (R151): a consumer word, or refused. -/
inductive ReadAnswer where
  | done (value : Word)
  | refused
  deriving DecidableEq, Repr

/-- The fields of the setup block that the part looks at (R133). -/
structure SetupBlock where
  cmdRing      : Addr
  cplRing      : Addr
  cplConsumer  : Addr
  cplSignal    : Addr
  signalData   : Word
  cmdSize      : Half
  cplSize      : Half
  deriving DecidableEq, Repr

/-- The answer to the setup read (R133). -/
inductive SetupAnswer where
  | done (block : SetupBlock)
  | refused
  deriving DecidableEq, Repr

/-- The rows of spec/opcode_table.json. A row that is the answer to a request names the request by its number (`req`);
the twenty command kinds and BAD_KIND are DONE answers of a command read (R137; log 16). -/
inductive Instr where
  -- line front end and timebase (01)
  | sampledLevelChange (line : LineId)
  | qualificationExpiry (line : LineId)
  | timebaseWrap
  -- commands of the command ring (08, command slot table of 10)
  | nop (r : SlotRead)
  | badKind (r : SlotRead) (kind : Byte)
  | raise (r : SlotRead) (source : Half) (count : Byte) (hasArgument : Bool) (argument : Half)
  | timeSet (r : SlotRead) (value : BitVec 64)
  | timeRead (r : SlotRead)
  | routeSet (r : SlotRead) (source : Half) (enabled trigger : Byte) (filter : Half) (bundle rank : Byte) (discard : Bool)
  | routeRead (r : SlotRead) (source : Half) (reply : Addr)
  | sourceClear (r : SlotRead) (source : Half)
  | tallyReset (r : SlotRead) (source : Half)
  | bundleSet (r : SlotRead) (bundle enabled target mode sweepLimit urgent hold reminderLimit : Byte) (holdTimeout : Half)
  | bundleRead (r : SlotRead) (bundle : Byte) (capacity : Half) (reply : Addr)
  | bundleFlush (r : SlotRead) (bundle : Byte)
  | ack (r : SlotRead) (bundle : Byte) (token : Half)
  | targetAttach (r : SlotRead) (pollInterval holdoff : Half) (descriptor : BitVec 64) (offset signalData : Word) (signalAddress : Addr)
  | targetDetach (r : SlotRead) (target : Byte)
  | targetQuiesce (r : SlotRead) (target : Byte)
  | targetResume (r : SlotRead) (target : Byte)
  | targetRead (r : SlotRead) (target : Byte) (reply : Addr)
  | drain (r : SlotRead) (target : Byte) (timeout : Half)
  | fence (r : SlotRead)
  | abort (r : SlotRead) (tag : Half)
  -- command path (08)
  | commandTake
  | commandReadRefused (req : Nat)
  | replyWriteAnswer (req : Nat) (answer : WriteAnswer)
  | targetAttachReadAnswer (req : Nat) (answer : ReadAnswer)
  | drainTimerExpiry (entry : Fin 4)
  | completionWriteAnswer (req : Nat) (answer : WriteAnswer)
  | completionSignalAnswer (req : Nat) (answer : WriteAnswer)
  | completionConsumerReadAnswer (req : Nat) (answer : ReadAnswer)
  | setupReadAnswer (req : Nat) (answer : SetupAnswer)
  -- register window (09)
  | enable (value : Bool)
  | deviceReset
  | cmdRestart
  | restartDrainComplete
  | clearCounts
  | cmdProducer (value : Word)
  | attentionRefresh (target : BitVec 4)
  | attentionRearm (target : BitVec 4) (refresh : Bool)
  | cplRefresh
  | ackPort (bundle : Byte) (token : Half)
  | registerWrite (offset : Nat) (bits : Nat) (value : Word)
  -- resets and requests (09)
  | linkLoss
  | powerOn
  | resetEnd
  | drainedAnswerDiscard (req : Nat)
  | hostRequestTimeout (req : Nat)
  | lateAnswerDiscard (req : Nat)
  -- assembler (05)
  | eventAssemblyStart
  | reminderAssemblyStart
  | firstWriteIssue
  | entryWriteDone (req : Nat)
  | commit (req : Nat)
  | assemblyAbort (req : Nat)
  -- bundle controller and target unit (06, 07)
  | holdTimerExpiry (bundle : BundleId)
  | consumerWordReadAnswer (req : Nat) (answer : ReadAnswer)
  | pollTimerExpiry (target : TargetId)
  | holdoffTimerExpiry (target : TargetId)
  | signalWriteAnswer (req : Nat) (answer : WriteAnswer)
  deriving DecidableEq, Repr

end Sys2Proof
end

