-- ==== Sys2Proof/WellFormed.lean ====
section
/-! DEFINITION. Sys2Proof/WellFormed.lean: which commands can occur. Nearly every bound is in the type of the operand;
out-of-range codes of a command slot are legal commands, which the part rejects by BAD_ARGUMENT (R139). -/
namespace Sys2Proof

/-- The kind codes that name a command (command slot table of 10). -/
def kindCodes : List Byte :=
  [0x00, 0x01, 0x02, 0x03, 0x10, 0x11, 0x12, 0x13, 0x20, 0x21, 0x22, 0x23,
   0x30, 0x31, 0x32, 0x33, 0x34, 0x35, 0x40, 0x41]

/-- BAD_KIND is a slot whose kind code names no command (R139); a register access has a width in bits. -/
def Instr.wellFormed : Instr → Bool
  | .badKind _ kind => !kindCodes.contains kind
  | .registerWrite _ bits _ => bits != 0
  | _ => true

end Sys2Proof
end

