-- ==== Sys2Proof/Decode.lean ====
section
/-! DEFINITION. Sys2Proof/Decode.lean: decodeTableWord (no row of spec/opcode_table.json gives bits, so it answers none),
and the command slot: the 32 bytes that a command read brings, as a command and back (R164, command slot table). -/
namespace Sys2Proof

/-- The rows of the table give no bits: no word spells a command. -/
def decodeTableWord (_nbits _w : Nat) : Option Instr := none

open Sys2Proof.Machine (leBytes leNat field padTo bit)

/-- A field of a slot as a bit vector of its size. -/
def slotField (w : Nat) (slot : List Byte) (off : Nat) : BitVec w := BitVec.ofNat w (field slot off (w / 8))

/-- The command that the 32 bytes of a command slot hold, as the DONE answer to request `req`. Bytes that a kind does not
use, and bits 1 to 7 of the flags byte, are ignored (R139, R164). -/
def decodeSlot (req : Nat) (slot : List Byte) : Option Instr :=
  if slot.length ≠ 32 then none else
  let h (off : Nat) : Half := slotField 16 slot off
  let b (off : Nat) : Byte := slotField 8 slot off
  let w (off : Nat) : Word := slotField 32 slot off
  let q (off : Nat) : BitVec 64 := slotField 64 slot off
  let r : SlotRead := ⟨req, h 2, (b 1).getLsbD 0⟩
  some <|
    if b 0 = 0x00#8 then .nop r
    else if b 0 = 0x01#8 then .raise r (h 4) (b 6) ((b 7).getLsbD 0) (h 8)
    else if b 0 = 0x02#8 then .timeSet r (q 8)
    else if b 0 = 0x03#8 then .timeRead r
    else if b 0 = 0x10#8 then .routeSet r (h 4) (b 6) (b 7) (h 8) (b 10) (b 11) ((b 12).getLsbD 0)
    else if b 0 = 0x11#8 then .routeRead r (h 4) (q 8)
    else if b 0 = 0x12#8 then .sourceClear r (h 4)
    else if b 0 = 0x13#8 then .tallyReset r (h 4)
    else if b 0 = 0x20#8 then .bundleSet r (b 4) (b 5) (b 6) (b 7) (b 8) (b 9) (b 10) (b 11) (h 12)
    else if b 0 = 0x21#8 then .bundleRead r (b 4) (h 6) (q 8)
    else if b 0 = 0x22#8 then .bundleFlush r (b 4)
    else if b 0 = 0x23#8 then .ack r (b 4) (h 6)
    else if b 0 = 0x30#8 then .targetAttach r (h 4) (h 6) (q 8) (w 16) (w 20) (q 24)
    else if b 0 = 0x31#8 then .targetDetach r (b 4)
    else if b 0 = 0x32#8 then .targetQuiesce r (b 4)
    else if b 0 = 0x33#8 then .targetResume r (b 4)
    else if b 0 = 0x34#8 then .targetRead r (b 4) (q 8)
    else if b 0 = 0x35#8 then .drain r (b 4) (h 6)
    else if b 0 = 0x40#8 then .fence r
    else if b 0 = 0x41#8 then .abort r (h 4)
    else .badKind r (b 0)

/-- A slot from its kind code, its SlotRead and its argument bytes from offset 4 on; unused bytes are 0. -/
def slotBytes (kind : Byte) (r : SlotRead) (args : List Byte) : List Byte :=
  padTo 32 (kind :: BitVec.ofNat 8 (bit r.signal 0) :: (leBytes 2 r.tag.toNat ++ args))

/-- The command slot that a command is read from, and the number of the answered request; none for the rows that are not
commands of the command ring. -/
def encodeSlot : Instr → Option (Nat × List Byte)
  | .nop r => some (r.req, slotBytes 0x00 r [])
  | .raise r source count has arg => some (r.req, slotBytes 0x01 r
      (leBytes 2 source.toNat ++ [count, BitVec.ofNat 8 (bit has 0)] ++ leBytes 2 arg.toNat))
  | .timeSet r value => some (r.req, slotBytes 0x02 r ([0, 0, 0, 0] ++ leBytes 8 value.toNat))
  | .timeRead r => some (r.req, slotBytes 0x03 r [])
  | .routeSet r source en trig filter bun rank disc => some (r.req, slotBytes 0x10 r
      (leBytes 2 source.toNat ++ [en, trig] ++ leBytes 2 filter.toNat ++ [bun, rank, BitVec.ofNat 8 (bit disc 0)]))
  | .routeRead r source reply => some (r.req, slotBytes 0x11 r (leBytes 2 source.toNat ++ [0, 0] ++ leBytes 8 reply.toNat))
  | .sourceClear r source => some (r.req, slotBytes 0x12 r (leBytes 2 source.toNat))
  | .tallyReset r source => some (r.req, slotBytes 0x13 r (leBytes 2 source.toNat))
  | .bundleSet r bun en tgt mode sweep urg hold lim tmo => some (r.req, slotBytes 0x20 r
      ([bun, en, tgt, mode, sweep, urg, hold, lim] ++ leBytes 2 tmo.toNat))
  | .bundleRead r bun cap reply => some (r.req, slotBytes 0x21 r ([bun, 0] ++ leBytes 2 cap.toNat ++ leBytes 8 reply.toNat))
  | .bundleFlush r bun => some (r.req, slotBytes 0x22 r [bun])
  | .ack r bun token => some (r.req, slotBytes 0x23 r ([bun, 0] ++ leBytes 2 token.toNat))
  | .targetAttach r poll holdoff desc off data addr => some (r.req, slotBytes 0x30 r
      (leBytes 2 poll.toNat ++ leBytes 2 holdoff.toNat ++ leBytes 8 desc.toNat ++ leBytes 4 off.toNat ++
        leBytes 4 data.toNat ++ leBytes 8 addr.toNat))
  | .targetDetach r tgt => some (r.req, slotBytes 0x31 r [tgt])
  | .targetQuiesce r tgt => some (r.req, slotBytes 0x32 r [tgt])
  | .targetResume r tgt => some (r.req, slotBytes 0x33 r [tgt])
  | .targetRead r tgt reply => some (r.req, slotBytes 0x34 r ([tgt, 0, 0, 0] ++ leBytes 8 reply.toNat))
  | .drain r tgt tmo => some (r.req, slotBytes 0x35 r ([tgt, 0] ++ leBytes 2 tmo.toNat))
  | .fence r => some (r.req, slotBytes 0x40 r [])
  | .abort r tag => some (r.req, slotBytes 0x41 r (leBytes 2 tag.toNat))
  | .badKind r kind => some (r.req, slotBytes kind r [])
  | .sampledLevelChange _ | .qualificationExpiry _ | .timebaseWrap | .commandTake | .commandReadRefused _
  | .replyWriteAnswer _ _ | .targetAttachReadAnswer _ _ | .drainTimerExpiry _ | .completionWriteAnswer _ _
  | .completionSignalAnswer _ _ | .completionConsumerReadAnswer _ _ | .setupReadAnswer _ _ | .enable _ | .deviceReset
  | .cmdRestart | .restartDrainComplete | .clearCounts | .cmdProducer _ | .attentionRefresh _ | .attentionRearm _ _
  | .cplRefresh | .ackPort _ _ | .registerWrite _ _ _ | .linkLoss | .powerOn | .resetEnd | .drainedAnswerDiscard _
  | .hostRequestTimeout _ | .lateAnswerDiscard _ | .eventAssemblyStart | .reminderAssemblyStart | .firstWriteIssue
  | .entryWriteDone _ | .commit _ | .assemblyAbort _ | .holdTimerExpiry _ | .consumerWordReadAnswer _ _
  | .pollTimerExpiry _ | .holdoffTimerExpiry _ | .signalWriteAnswer _ _ => none

/-- The setup block that 48 bytes hold (setup block table of 10). Bytes 40 to 47 are ignored. -/
def decodeSetup (record : List Byte) : SetupBlock where
  cmdRing     := slotField 64 record 0
  cplRing     := slotField 64 record 8
  cplConsumer := slotField 64 record 16
  cplSignal   := slotField 64 record 24
  signalData  := slotField 32 record 32
  cmdSize     := slotField 16 record 36
  cplSize     := slotField 16 record 38

end Sys2Proof
end

