-- ==== Sys2Proof/Config.lean ====
section
/-! DEFINITION. Sys2Proof/Config.lean: what is fixed for every EC36, and the one free value of the model. -/
namespace Sys2Proof.Config

/-- IDENT: part code 0xEC36 in bits 31 to 16, revision 0x0001 in bits 15 to 0 (R153, register window table). -/
def ident : Word := 0xEC360001#32

/-- The host link request timeout, 2 ms, in µs (R151). -/
def requestTimeout : Nat := 2000

/-- µs in a ms: hold and drain timeouts are given in ms (00, Time). -/
def microsecondsPerMs : Nat := 1000

/-- The greatest count a pending record holds (R35). -/
def countLimit : Nat := 65535

/-- The greatest timebase value (R16). -/
def timebaseMax : Nat := 281474976710655

/-- The interval counter's reset value and ceiling, "no previous event" (R14). -/
def intervalMax : Word := 0xFFFFFFFF#32

/-- Entries of the deferred table (R144). -/
def deferredLimit : Nat := 4

/-- The greatest stale count (R97). -/
def staleLimit : Nat := 255

/-- The device-condition sources (R4). -/
def commandPath : SourceId := 208
def eventsLost : SourceId := 209
def holdLapsed : SourceId := 210
def targetFaulted : SourceId := 211
def staleAcknowledge : SourceId := 212
def ringPressure : SourceId := 213
def lineChatter : SourceId := 214
def timebaseSet : SourceId := 215

/-- FREE VALUE. The manual takes steps that come up together "in either order" (R11, R31, R42, R75, R108, R111, R131,
R150) and fixes none; where the part's own work comes up together, this gives each piece its sort key. No body:
nothing in Lean can evaluate it (log 3). -/
opaque freeOrder : Nat → Nat

end Sys2Proof.Config
end

