-- ==== Sys2Proof/Machine/State.lean ====
section
/-! DEFINITION. Sys2Proof/Machine/State.lean: everything the manual gives the part, as plain data, and its reset values.
What the manual names twice is stored once: the pending lists (R38) are computed from records and route entries (log 6),
and each "in flight" or "outstanding" item is the request record itself (R151; log 7). -/
namespace Sys2Proof.Machine

/-! ### Line front end (R6) -/

/-- A line's level: with no current flowing an input is LOW (09, electrical summary). -/
inductive Level where
  | low
  | high
  deriving DecidableEq, Repr

/-- A line's qualification (R6). The remaining time is in µs; 0 means that the full period has run and the expiry
has not been taken yet (log 4). -/
inductive Qualification where
  | stable
  | qualifying (remaining : Nat)
  deriving DecidableEq, Repr

/-- What each field line holds (R6). -/
structure Line where
  sampled       : Level
  qualified     : Level
  qualification : Qualification
  deriving DecidableEq, Repr

/-! ### Route table (R21) -/

inductive Trigger where
  | rise
  | fall
  | both
  | high
  | low
  deriving DecidableEq, Repr

/-- A route entry; `bundle = none` is NONE (R21). -/
structure RouteEntry where
  enabled : Bool
  trigger : Trigger
  filter  : Half
  bundle  : Option BundleId
  rank    : Fin 16
  deriving DecidableEq, Repr

/-! ### Accounting unit (R35, R45) -/

/-- A pending record. The detail is `none` where its present flag is clear; the loss flag is computed (R36; log 7). -/
structure PendingRecord where
  count     : Nat
  firstTime : Time
  lastTime  : Time
  interval  : Word
  detail    : Option Half
  deriving DecidableEq, Repr

/-- The four tallies of a source (R45) and its reported-loss mark (R36). -/
structure Tallies where
  accepted : Word
  reported : Word
  cleared  : Word
  lost     : Word
  lossMark : Word
  deriving DecidableEq, Repr

/-! ### Bundle controller (R51, R52) -/

inductive Mode where
  | single
  | sweep
  deriving DecidableEq, Repr

inductive HoldMode where
  | hold
  | nohold
  deriving DecidableEq, Repr

/-- The configuration half of a bundle context (R51); the hold timeout is in ms. -/
structure BundleConfig where
  enabled       : Bool
  target        : Option TargetId
  mode          : Mode
  sweepLimit    : Nat
  urgent        : Bool
  hold          : HoldMode
  holdTimeout   : Half
  reminderLimit : Nat
  deriving DecidableEq, Repr

inductive BundleState where
  | off
  | idle
  | ready
  | assembling
  | held
  deriving DecidableEq, Repr

/-- The hold timer (R52, R102); its remaining time is kept in µs (log 21), 0 meaning due (log 4). -/
inductive HoldTimer where
  | stopped
  | running (remaining : Nat)
  | paused (remaining : Nat)
  deriving DecidableEq, Repr

/-- The run-time half of a bundle context (R52). -/
structure BundleRun where
  state           : BundleState
  token           : Half
  heldSet         : List SourceId
  remindersPosted : Nat
  reminderDue     : Bool
  holdTimer       : HoldTimer
  deriving DecidableEq, Repr

/-! ### Assembler (R73) -/

inductive CopyState where
  | unwritten
  | written
  | void
  deriving DecidableEq, Repr

/-- An in-flight copy (R43, R84). -/
structure Copy where
  source    : SourceId
  count     : Nat
  firstTime : Time
  lastTime  : Time
  interval  : Word
  detail    : Option Half
  lossFlag  : Bool
  takenLoss : Word
  state     : CopyState
  deriving DecidableEq, Repr

inductive AssemblyKind where
  | event
  | reminder
  deriving DecidableEq, Repr

/-- The next slot to write: entry k, counted from 1, or the header (R73). While its write is outstanding it stays here. -/
inductive WritePosition where
  | entry (k : Nat)
  | header
  deriving DecidableEq, Repr

/-- The bundle's values captured at the start of an assembly (R56, R73). -/
structure Captured where
  mode       : Mode
  sweepLimit : Nat
  hold       : HoldMode
  urgent     : Bool
  deriving DecidableEq, Repr

/-- The assembly record (R73). Its entry count is the number of copies; its outstanding write is a request record. -/
structure Assembly where
  kind           : AssemblyKind
  bundle         : BundleId
  target         : TargetId
  base           : Word
  copies         : List Copy
  token          : Half
  reminderNumber : Nat
  flagUrgent     : Bool
  flagMore       : Bool
  flagPartial    : Bool
  captured       : Captured
  position       : WritePosition
  deriving DecidableEq, Repr

/-! ### Target unit (R112) -/

inductive TargetState where
  | detached
  | active
  | quiesced
  | faulted
  deriving DecidableEq, Repr

inductive FaultReason where
  | none
  | ringWrite
  | consumerRead
  | badConsumer
  | signalWrite
  deriving DecidableEq, Repr

/-- A poll, holdoff or drain timer, its remaining time in µs; 0 means due (log 4). -/
inductive Timer where
  | stopped
  | running (remaining : Nat)
  deriving DecidableEq, Repr

/-- A target context (R112), less "consumer read in flight" and "signal writes outstanding", which are the request
records themselves. -/
structure Target where
  state              : TargetState
  ringAddress        : Addr
  ringSize           : Nat
  consumerAddress    : Addr
  produced           : Word
  consumed           : Word
  pollInterval       : Half
  spaceWanted        : Bool
  pollTimer          : Timer
  signalAddress      : Addr
  signalData         : Word
  armed              : Bool
  holdoff            : Half
  holdoffTimer       : Timer
  signalOwed         : Bool
  rearmCheckPending  : Bool
  detachPending      : Bool
  faultReason        : FaultReason
  deriving DecidableEq, Repr

/-! ### Command processor (R134) -/

inductive Status where
  | ok
  | badKind
  | badArgument
  | badState
  | staleToken
  | notHeld
  | timedOut
  | aborted
  | notFound
  | busError
  | replyFailed
  deriving DecidableEq, Repr

inductive HaltReason where
  | setupRead
  | badSetup
  | badProducer
  | badCplConsumer
  | cmdRead
  | cplWrite
  deriving DecidableEq, Repr

inductive WaitCause where
  | completionSpace
  | tableEntry
  | assembly
  deriving DecidableEq, Repr

/-- Processor state with the waiting cause, present in WAITING only, and the halt reason, none outside HALTED (R134, R155). -/
inductive ProcState where
  | stopped
  | running
  | waiting (cause : WaitCause)
  | halted (reason : HaltReason)
  deriving DecidableEq, Repr

/-- What a completion needs of its command: kind code as read, tag, SIGNAL flag (R141, R144). -/
structure CmdId where
  kind   : Byte
  tag    : Half
  signal : Bool
  deriving DecidableEq, Repr

/-- A completion decided and not yet answered (R134, R141). -/
structure Completion where
  cmd    : CmdId
  status : Status
  result : BitVec 64
  deriving DecidableEq, Repr

/-- A command that can defer, with its arguments (R144). -/
inductive DeferKind where
  | detach (target : TargetId)
  | drain (target : TargetId) (timeout : Half)
  | fence
  deriving DecidableEq, Repr

/-- An entry of the deferred table (R144); the timer is a DRAIN's drain timer. -/
structure Deferred where
  cmd   : CmdId
  what  : DeferKind
  timer : Timer
  deriving DecidableEq, Repr

/-- The arguments of TARGET_ATTACH, formed as R165 gives it. -/
structure AttachArgs where
  target          : TargetId
  ringAddress     : Addr
  ringSize        : Nat
  consumerAddress : Addr
  pollInterval    : Half
  signalAddress   : Addr
  signalData      : Word
  holdoff         : Half
  deriving DecidableEq, Repr

/-- The command in hand, by what it waits for: its reply write (R140), its consumer-word read (R123), an entry of the
deferred table (R144), or the end of a bundle's assembly (R67). -/
inductive Hand where
  | reply (cmd : CmdId) (result : BitVec 64)
  | attach (cmd : CmdId) (args : AttachArgs)
  | tableEntry (cmd : CmdId) (what : DeferKind)
  | assembly (cmd : CmdId) (bundle : BundleId) (config : BundleConfig)
  deriving DecidableEq, Repr

/-- The command processor (R134); `restarting` is a restart in its steps 1 to 3 (R148, R149). -/
structure Processor where
  state       : ProcState
  setup       : Option SetupBlock
  producer    : Word
  taken       : Word
  hand        : Option Hand
  deferred    : List Deferred
  completions : List Completion
  cplProduced : Word
  cplConsumed : Word
  restarting  : Bool
  deriving DecidableEq, Repr

/-! ### Host link interface (R151) -/

/-- The block that issued a request, and the work within it (R151). -/
inductive Issuer where
  | assembly
  | consumerRead (target : TargetId)
  | signal (target : TargetId)
  | commandRead
  | replyWrite
  | attachRead
  | completionWrite
  | completionSignal
  | completionConsumerRead
  | setupRead
  deriving DecidableEq, Repr

/-- Kind, length and data of a request (R151): a WRITE's length is that of its bytes. -/
inductive Access where
  | read (length : Nat)
  | write (data : List Byte)
  deriving DecidableEq, Repr

/-- An outstanding request (R151). `id` is the number by which an answer is matched to it (log 8); `timeout` is what is
left of the 2 ms, in µs. -/
structure Request where
  id      : Nat
  issuer  : Issuer
  address : Addr
  access  : Access
  timeout : Nat
  deriving DecidableEq, Repr

/-! ### The machine -/

/-- The state of the part. `pending` is the queue of commands that wait, `choices` counts the free choices used up
(log 3), `nextRequest` numbers the requests (log 8): these three are the model's own. -/
structure State where
  pending      : List Instr
  timebase     : Time
  lines        : Vector Line 192
  routes       : Vector RouteEntry 216
  intervals    : Vector Word 216
  records      : Vector (Option PendingRecord) 216
  tallies      : Vector Tallies 216
  bundleConfig : Vector BundleConfig 48
  bundleRun    : Vector BundleRun 48
  assembly     : Option Assembly
  roundRobin   : BundleId
  targets      : Vector Target 6
  proc         : Processor
  enable       : Bool
  setupAddrLo  : Word
  setupAddrHi  : Word
  staleCount   : Nat
  resetting    : Bool
  requests     : List Request
  nextRequest  : Nat
  choices      : Nat
  deriving DecidableEq, Repr

/-- The reasons for which a step could stop with a fault: none. What the manual calls a fault or a halt is a state of the
part (R118, R147), so this type has no constructor; that is safe. -/
inductive Fault where
  deriving DecidableEq, Repr

/-- The reasons for which a step could be refused. -/
inductive Refusal where
  /-- Raised by an arm of exec for a row that has no meaning yet; safe. No arm of this model raises it. -/
  | notModelled (mnemonic : String)
  deriving DecidableEq, Repr

/-! ### Reset values -/

def RouteEntry.reset : RouteEntry := ⟨false, .rise, 0, none, 15⟩
def Tallies.reset : Tallies := ⟨0, 0, 0, 0, 0⟩
def BundleConfig.reset : BundleConfig := ⟨false, none, .single, 8, false, .hold, 0, 0⟩
def BundleRun.reset : BundleRun := ⟨.off, 0, [], 0, false, .stopped⟩
def Target.reset : Target :=
  ⟨.detached, 0, 16, 0, 0, 0, 0, false, .stopped, 0, 0, false, 0, .stopped, false, false, false, .none⟩
def Processor.reset : Processor := ⟨.stopped, none, 0, 0, none, [], [], 0, 0, false⟩

/-- The part right after power-on (R163): every block at the values of R160, timebase 0, RESETTING no. The manual gives
no levels for the pins: every line is LOW here (log 9). -/
def State.reset : State where
  pending      := []
  timebase     := 0
  lines        := Vector.replicate 192 ⟨.low, .low, .stable⟩
  routes       := Vector.replicate 216 .reset
  intervals    := Vector.replicate 216 Config.intervalMax
  records      := Vector.replicate 216 none
  tallies      := Vector.replicate 216 .reset
  bundleConfig := Vector.replicate 48 .reset
  bundleRun    := Vector.replicate 48 .reset
  assembly     := none
  roundRobin   := 47
  targets      := Vector.replicate 6 .reset
  proc         := .reset
  enable       := false
  setupAddrLo  := 0
  setupAddrHi  := 0
  staleCount   := 0
  resetting    := false
  requests     := []
  nextRequest  := 0
  choices      := 0

end Sys2Proof.Machine
end

