-- ==== Sys2Proof/Machine/Access.lean ====
section
/-! DEFINITION. Sys2Proof/Machine/Access.lean: one reader and one writer for each array of State, the request records, and the
items of R73, R112 and R134 that are views of them. Everything else reads and writes State through these. -/
namespace Sys2Proof.Machine

namespace State

/-! ### Readers -/

def line (s : State) (l : LineId) : Line := s.lines[l]
def route (s : State) (n : SourceId) : RouteEntry := s.routes[n]
def interval (s : State) (n : SourceId) : Word := s.intervals[n]
def record (s : State) (n : SourceId) : Option PendingRecord := s.records[n]
def tally (s : State) (n : SourceId) : Tallies := s.tallies[n]
def config (s : State) (b : BundleId) : BundleConfig := s.bundleConfig[b]
def run (s : State) (b : BundleId) : BundleRun := s.bundleRun[b]
def target (s : State) (t : TargetId) : Target := s.targets[t]

/-! ### Writers -/

def setLine (l : LineId) (x : Line) (s : State) : State := { s with lines := s.lines.set l x }
def setRoute (n : SourceId) (e : RouteEntry) (s : State) : State := { s with routes := s.routes.set n e }
def setInterval (n : SourceId) (x : Word) (s : State) : State := { s with intervals := s.intervals.set n x }
def setRecord (n : SourceId) (r : Option PendingRecord) (s : State) : State := { s with records := s.records.set n r }
def updTally (n : SourceId) (f : Tallies → Tallies) (s : State) : State :=
  { s with tallies := s.tallies.set n (f (s.tally n)) }
def setConfig (b : BundleId) (c : BundleConfig) (s : State) : State := { s with bundleConfig := s.bundleConfig.set b c }
def updRun (b : BundleId) (f : BundleRun → BundleRun) (s : State) : State :=
  { s with bundleRun := s.bundleRun.set b (f (s.run b)) }
def updTarget (t : TargetId) (f : Target → Target) (s : State) : State :=
  { s with targets := s.targets.set t (f (s.target t)) }
def updProc (f : Processor → Processor) (s : State) : State := { s with proc := f s.proc }
def setAssembly (a : Option Assembly) (s : State) : State := { s with assembly := a }
def setTurn (b : BundleId) (s : State) : State := { s with roundRobin := b }
def setTimebase (v : Time) (s : State) : State := { s with timebase := v }
def storeEnable (v : Bool) (s : State) : State := { s with enable := v }
def setStale (k : Nat) (s : State) : State := { s with staleCount := k }

end State

/-- All bundles, lowest number first. -/
def allBundles : List BundleId := List.finRange 48
/-- All targets, lowest number first. -/
def allTargets : List TargetId := List.finRange 6
/-- All sources, lowest number first. -/
def allSources : List SourceId := List.finRange 216
/-- All field lines, lowest number first. -/
def allLines : List LineId := List.finRange 192

/-- The field line of a source, for sources 0 to 191 (R1). -/
def lineOf (n : SourceId) : Option LineId := if h : n.val < 192 then some ⟨n.val, h⟩ else none

/-- The source of a field line: source n is input line n (R1). -/
def sourceOfLine (l : LineId) : SourceId := ⟨l.val, Nat.lt_trans l.isLt (by decide)⟩

/-- The requests that a command-path restart waits for (R149, step 3). -/
def Issuer.commandPath : Issuer → Bool
  | .commandRead | .replyWrite | .attachRead | .completionWrite | .completionSignal | .completionConsumerRead
  | .setupRead => true
  | .assembly | .consumerRead _ | .signal _ => false

namespace State

/-- Issues a request: a record from its issue until it ends, with the full timeout (R151). -/
def issueRequest (who : Issuer) (address : Addr) (access : Access) (s : State) : State :=
  { s with
    requests := s.requests ++ [⟨s.nextRequest, who, address, access, Config.requestTimeout⟩]
    nextRequest := s.nextRequest + 1 }

/-- Removes the record of a request that has ended (R151). -/
def endRequest (id : Nat) (s : State) : State :=
  { s with requests := s.requests.filter fun r => r.id != id }

/-- The record that an answer named `id` matches, if it is outstanding (R151, R152). -/
def requestOf (s : State) (id : Nat) : Option Request := s.requests.find? fun r => r.id == id

/-- How many requests of an issuer are outstanding. -/
def outstanding (s : State) (who : Issuer) : Nat := s.requests.countP fun r => r.issuer == who

/-- "In flight" or "write outstanding" of an issuer (R73, R112, R134). -/
def inFlight (s : State) (who : Issuer) : Bool := s.requests.any fun r => r.issuer == who

/-- R112, consumer read in flight. -/
def consumerReadInFlight (s : State) (t : TargetId) : Bool := s.inFlight (.consumerRead t)

/-- R112, signal writes outstanding. -/
def signalWritesOutstanding (s : State) (t : TargetId) : Nat := s.outstanding (.signal t)

/-- A request of the command path is outstanding (R149, step 3). -/
def commandPathBusy (s : State) : Bool := s.requests.any fun r => r.issuer.commandPath

end State

end Sys2Proof.Machine
end

