-- ==== Sys2Proof/Machine/Flags.lean ====
section
/-! DEFINITION. Sys2Proof/Machine/Flags.lean: everything the manual works out from state and does not store: list order (R38),
the loss flag (R36), phases (R114, R141), free slots (R114), waiting reasons (R63), eligibility and choice (R74, R76), the drain
condition (R128), completion slots (R137). -/
namespace Sys2Proof.Machine

/-! ### Triggers -/

/-- The active level of a trigger; RISE, FALL and BOTH have none (R11). -/
def Trigger.activeLevel : Trigger → Option Level
  | .high => some .high
  | .low => some .low
  | .rise | .fall | .both => none

/-- Whether a trigger counts a change of the qualified level to `new` (R11). -/
def Trigger.counts : Trigger → Level → Bool
  | .rise, new | .high, new => new == .high
  | .fall, new | .low, new => new == .low
  | .both, _ => true

/-- The detail of a field line's event: 0 for low, 1 for high (R1). -/
def Level.detail : Level → Half
  | .low => 0
  | .high => 1

def Level.other : Level → Level
  | .low => .high
  | .high => .low

namespace State

/-! ### Pending lists (R37, R38) -/

/-- The sources that have a pending record, in source order. -/
def recorded (s : State) : List SourceId :=
  (allSources.zip s.records.toList).filterMap fun p => if p.2.isSome then some p.1 else none

/-- The place of a record in its list, as one number: rank, then first_time, then source number (R38). -/
def listKey (s : State) (n : SourceId) : Nat :=
  match s.record n with
  | some r => ((s.route n).rank.val * 2 ^ 48 + r.firstTime.toNat) * 216 + n.val
  | none => n.val

/-- A bundle's pending list, in list order: the recorded sources whose route entry names the bundle (R23, R37, R38). -/
def pendingList (s : State) (b : BundleId) : List SourceId :=
  (s.recorded.filter fun n => (s.route n).bundle == some b).insertionSort fun m n => s.listKey m ≤ s.listKey n

/-- The unrouted set: the recorded sources routed to no bundle (R37). -/
def unroutedSet (s : State) : List SourceId := s.recorded.filter fun n => (s.route n).bundle.isNone

/-- The loss flag of a source's record: its lost tally differs from its reported-loss mark (R36). -/
def lossFlag (s : State) (n : SourceId) : Bool := (s.tally n).lost != (s.tally n).lossMark

/-- The count of a source's pending record, 0 where it has none (R46). -/
def pendingCount (s : State) (n : SourceId) : Nat :=
  match s.record n with
  | some r => r.count
  | none => 0

end State

/-- What a copy adds to its source's in-flight count: its count, and 0 once VOID (R43). -/
def Copy.inFlightCount (c : Copy) : Nat := if c.state = .void then 0 else c.count

/-- The in-flight count of source `n` among the copies of an assembly (R43). -/
def inFlightCountIn (n : SourceId) : List Copy → Nat
  | [] => 0
  | c :: cs => (if c.source = n then c.inFlightCount else 0) + inFlightCountIn n cs

namespace State

/-- The copies in flight. -/
def copies (s : State) : List Copy :=
  match s.assembly with
  | some a => a.copies
  | none => []

/-- The in-flight count of a source (R43, R46). -/
def inFlightCount (s : State) (n : SourceId) : Nat := inFlightCountIn n s.copies

end State

/-! ### Rings (R114) -/

/-- Free slots: the ring size less (produced less cached consumed, modulo 2^32) (R74, R114). -/
def Target.freeSlots (x : Target) : Nat := x.ringSize - (x.produced - x.consumed).toNat

/-- The phase of index `i` in a ring of `size` slots: 1 when i divided by the size, rounded down, is even (R114, R141). -/
def phase (size : Nat) (i : Word) : Bool := i.toNat / size % 2 == 0

/-- The address of index `i`'s slot in a ring (R81, R114, R137, R141). -/
def slotAddress (ring : Addr) (size slotBytes : Nat) (i : Word) : Addr :=
  ring + BitVec.ofNat 64 (i.toNat % size * slotBytes)

/-- The state that counts for eligibility and waiting reasons: DETACHED while detach pending is yes (R113). -/
def Target.countedState (x : Target) : TargetState := if x.detachPending then .detached else x.state

/-- ACTIVE or QUIESCED: reads are made and signals issued (R113). -/
def Target.inService (x : Target) : Bool := x.state == .active || x.state == .quiesced

/-! ### Waiting reasons and choice (R63, R74, R76) -/

inductive WaitingReason where
  | none
  | targetAbsent
  | targetQuiesced
  | targetFaulted
  | ringFull
  | assemblerBusy
  deriving DecidableEq, Repr

namespace State

/-- The slot threshold of a bundle that waits: 2 for READY, 1 for HELD with reminder due, none otherwise (R63). -/
def slotThreshold (s : State) (b : BundleId) : Option Nat :=
  match (s.run b).state with
  | .ready => some 2
  | .held => if (s.run b).reminderDue then some 1 else none
  | .off | .idle | .assembling => none

/-- The waiting reason of a bundle (R63): the first condition of the table that holds. -/
def waitingReason (s : State) (b : BundleId) : WaitingReason :=
  match s.slotThreshold b with
  | none => .none
  | some threshold =>
    match (s.config b).target with
    | none => .targetAbsent
    | some t =>
      if (s.target t).countedState = .detached then .targetAbsent
      else if (s.target t).countedState = .faulted then .targetFaulted
      else if (s.target t).countedState = .quiesced ∧ ¬ (s.config b).urgent then .targetQuiesced
      else if (s.target t).freeSlots < threshold then .ringFull
      else .assemblerBusy

/-- A target is short of space when a bundle of it has waiting reason RING_FULL (R115). -/
def shortOfSpace (s : State) (t : TargetId) : Bool :=
  allBundles.any fun b => (s.config b).target == some t && s.waitingReason b == .ringFull

/-- Eligible for an assembly (R74). -/
def eligible (s : State) (b : BundleId) : Bool :=
  (s.config b).enabled &&
  match (s.config b).target, s.slotThreshold b with
  | some t, some threshold =>
    ((s.target t).countedState == .active || ((s.target t).countedState == .quiesced && (s.config b).urgent)) &&
      decide (threshold ≤ (s.target t).freeSlots)
  | _, _ => false

/-- The order of the non-urgent search: round-robin position plus one, plus two, and so on, wrapping (R76). -/
def searchOrder (s : State) : List BundleId := allBundles.map fun k => s.roundRobin + 1 + k

/-- The bundle the assembler chooses: the lowest eligible urgent one, else the first eligible one of the search (R76). -/
def choice (s : State) : Option BundleId :=
  match allBundles.find? fun b => s.eligible b && (s.config b).urgent with
  | some b => some b
  | none => s.searchOrder.find? s.eligible

/-- The assembler chooses only while it is free (R75). -/
def chosen (s : State) : Option BundleId := if s.assembly.isNone then s.choice else none

/-! ### Drain and detach (R126, R128) -/

/-- The drain condition: every enabled bundle of the target is IDLE (R128). -/
def drained (s : State) (t : TargetId) : Bool :=
  allBundles.all fun b => !((s.config b).target == some t && (s.config b).enabled) || (s.run b).state == .idle

/-- The number of enabled bundles of the target that are not IDLE (R128). -/
def notIdle (s : State) (t : TargetId) : Nat :=
  allBundles.countP fun b => (s.config b).target == some t && (s.config b).enabled && (s.run b).state != .idle

/-- The number of bundles of the target in a state (R130). -/
def bundlesIn (s : State) (t : TargetId) (st : BundleState) : Nat :=
  allBundles.countP fun b => (s.config b).target == some t && (s.run b).state == st

/-- An assembly for the target is in flight. -/
def assemblyFor (s : State) (t : TargetId) : Bool :=
  match s.assembly with
  | some a => a.target == t
  | none => false

/-- Something is outstanding for a target: an assembly, a consumer-word read or a signal write (R126). -/
def targetBusy (s : State) (t : TargetId) : Bool :=
  s.assemblyFor t || s.consumerReadInFlight t || s.inFlight (.signal t)

/-! ### Completion slots (R137) -/

/-- Completion free slots (R137); 0 while no setup is held. -/
def cplFree (s : State) : Nat :=
  match s.proc.setup with
  | some su => su.cplSize.toNat - (s.proc.cplProduced - s.proc.cplConsumed).toNat
  | none => 0

/-- A completion slot can be reserved: the free slots exceed the reservations held (R137). -/
def canReserve (s : State) : Bool := s.proc.deferred.length + s.proc.completions.length < s.cplFree

/-- Commands are available and the processor may take one (R137), completion slot aside. -/
def wantsCommand (s : State) : Bool :=
  s.proc.state == .running && s.proc.hand.isNone && s.proc.setup.isSome && !s.inFlight .commandRead &&
    s.proc.producer != s.proc.taken

/-- The 64-bit setup address, from both registers as they stand (R157). -/
def setupAddress (s : State) : Addr := s.setupAddrHi ++ s.setupAddrLo

end State

/-! ### Hold timers (R103) -/

/-- A hold timer that is not STOPPED is PAUSED while its bundle is non-urgent and its target QUIESCED, else RUNNING. -/
def HoldTimer.judged (pause : Bool) : HoldTimer → HoldTimer
  | .stopped => .stopped
  | .running r | .paused r => if pause then .paused r else .running r

/-- The bundle is non-urgent and its target is QUIESCED (R102, R103). -/
def State.pausesHold (s : State) (b : BundleId) : Bool :=
  !(s.config b).urgent &&
  match (s.config b).target with
  | some t => (s.target t).state == .quiesced
  | none => false

/-- The remaining time of a timer in µs, 0 when STOPPED (R69, R130). -/
def Timer.remaining : Timer → Nat
  | .stopped => 0
  | .running r => r

def HoldTimer.remaining : HoldTimer → Nat
  | .stopped => 0
  | .running r | .paused r => r

/-- A timer that starts with a period; a period of 0 means that it is not used (00, Time). -/
def Timer.start (period : Nat) : Timer := if period = 0 then .stopped else .running period

/-- The drain timer of an entry: RUNNING with a DRAIN's non-zero timeout, given in ms (R128). -/
def DeferKind.timer : DeferKind → Timer
  | .drain _ timeout => .start (timeout.toNat * Config.microsecondsPerMs)
  | .detach _ | .fence => .stopped

/-- BAD_KIND, BAD_ARGUMENT and BAD_STATE are occurrences for source 208 (R139). -/
def Status.rejected : Status → Bool
  | .badKind | .badArgument | .badState => true
  | .ok | .staleToken | .notHeld | .timedOut | .aborted | .notFound | .busError | .replyFailed => false

/-! ### STATUS (R155) -/

/-- The halt reason code, also source 208's detail on a halt (codes table of 10). -/
def HaltReason.code : HaltReason → Nat
  | .setupRead => 1
  | .badSetup => 2
  | .badProducer => 3
  | .badCplConsumer => 4
  | .cmdRead => 5
  | .cplWrite => 6

def ProcState.code : ProcState → Nat
  | .stopped => 0
  | .running => 1
  | .waiting _ => 2
  | .halted _ => 3

/-- The halt reason STATUS shows: none outside HALTED (R155). -/
def ProcState.haltCode : ProcState → Nat
  | .halted r => r.code
  | .stopped | .running | .waiting _ => 0

/-- STATUS's faulted set: bit 8 + k for target k in FAULTED (register window table). -/
def State.faultedBits (s : State) : Nat :=
  (allTargets.map fun t => if (s.target t).state = .faulted then 2 ^ (8 + t.val) else 0).sum

/-- STATUS (R155, register window table). -/
def State.statusWord (s : State) : Word :=
  BitVec.ofNat 32 (s.proc.state.code + s.proc.state.haltCode * 2 ^ 4 + s.faultedBits + s.staleCount * 2 ^ 16 +
    (if s.resetting then 2 ^ 31 else 0))

end Sys2Proof.Machine
end

