-- ==== Sys2Proof/Machine/Operands.lean ====
section
/-! DEFINITION. Sys2Proof/Machine/Operands.lean: the argument checks of the commands (R24, R65, R123, R140, R165) and the typed
values they give; `none` is BAD_ARGUMENT. -/
namespace Sys2Proof.Machine

/-- A source number, at most 215. -/
def sourceArg (x : Half) : Option SourceId := if h : x.toNat < 216 then some ⟨x.toNat, h⟩ else none

/-- A virtual source, 192 to 207 (R18). -/
def virtualArg (x : Half) : Option SourceId := if 192 ≤ x.toNat ∧ x.toNat ≤ 207 then sourceArg x else none

/-- A bundle number, at most 47. -/
def bundleArg (x : Byte) : Option BundleId := if h : x.toNat < 48 then some ⟨x.toNat, h⟩ else none

/-- A target number, at most 5. -/
def targetArg (x : Byte) : Option TargetId := if h : x.toNat < 6 then some ⟨x.toNat, h⟩ else none

/-- A code of a field with two values, 0 and 1. -/
def twoArg {α : Type} (zero one : α) (x : Byte) : Option α :=
  if x = 0#8 then some zero else if x = 1#8 then some one else none

/-- A field that names something or holds the code 0xFF for NONE. -/
def orNone {α : Type} (f : Byte → Option α) (x : Byte) : Option (Option α) :=
  if x = 0xFF#8 then some none else (f x).map some

/-- A trigger code; checked for every source (R24; log 13). -/
def triggerArg (x : Byte) : Option Trigger :=
  if x = 0#8 then some .rise
  else if x = 1#8 then some .fall
  else if x = 2#8 then some .both
  else if x = 3#8 then some .high
  else if x = 4#8 then some .low
  else none

/-- A rank, at most 15. -/
def rankArg (x : Byte) : Option (Fin 16) := if h : x.toNat < 16 then some ⟨x.toNat, h⟩ else none

/-- The five fields of a ROUTE_SET (R24). -/
def routeArgs (enabled trigger : Byte) (filter : Half) (bundle rank : Byte) : Option RouteEntry :=
  match twoArg false true enabled, triggerArg trigger, orNone bundleArg bundle, rankArg rank with
  | some e, some t, some b, some r => some ⟨e, t, filter, b, r⟩
  | _, _, _, _ => none

/-- A field with values from `lo` to `hi`. -/
def rangeArg (lo hi : Nat) (x : Byte) : Option Nat := if lo ≤ x.toNat ∧ x.toNat ≤ hi then some x.toNat else none

/-- The eight fields of a BUNDLE_SET (R65). -/
def bundleArgs (enabled target mode sweepLimit urgent hold reminderLimit : Byte) (holdTimeout : Half) : Option BundleConfig :=
  match twoArg false true enabled, orNone targetArg target, twoArg Mode.single Mode.sweep mode, rangeArg 1 8 sweepLimit,
      twoArg false true urgent, twoArg HoldMode.hold HoldMode.nohold hold, rangeArg 0 7 reminderLimit with
  | some e, some t, some m, some w, some u, some h, some l => some ⟨e, t, m, w, u, h, holdTimeout, l⟩
  | _, _, _, _, _, _, _ => none

/-- A reply address: not 0 and 8-byte aligned (R140). -/
def replyArgOk (x : Addr) : Bool := x != 0 && x.toNat % 8 == 0

/-- A power of two from 16 to 4096 (R123, R133). -/
def ringSizeOk (n : Nat) : Bool := [16, 32, 64, 128, 256, 512, 1024, 2048, 4096].contains n

/-- An address aligned to `n` bytes. -/
def aligned (n : Nat) (x : Addr) : Bool := x.toNat % n == 0

/-! ### TARGET_ATTACH (R123, R165) -/

/-- The target field, bits 0 to 2 of the descriptor (R165). -/
def attachTarget (descriptor : BitVec 64) : Option TargetId :=
  if h : descriptor.toNat % 8 < 6 then some ⟨descriptor.toNat % 8, h⟩ else none

/-- The size code, bits 3 to 6 of the descriptor (R165). -/
def attachSizeCode (descriptor : BitVec 64) : Nat := descriptor.toNat / 8 % 16

/-- The ring address: the descriptor with bits 0 to 8 taken as 0 (R165). -/
def attachRing (descriptor : BitVec 64) : Addr := BitVec.ofNat 64 (descriptor.toNat / 512 * 512)

/-- The checks that follow TARGET_ATTACH's state check, and the values formed from its packed arguments (R123 step 3, R165). -/
def attachArgs (target : TargetId) (pollInterval holdoff : Half) (descriptor : BitVec 64) (offset signalData : Word)
    (signalAddress : Addr) : Option AttachArgs :=
  let size := 16 * 2 ^ attachSizeCode descriptor
  let ring := attachRing descriptor
  let consumer := ring + offset.signExtend 64
  if ringSizeOk size && aligned (size * 32) ring && aligned 4 consumer && aligned 4 signalAddress then
    some ⟨target, ring, size, consumer, pollInterval, signalAddress, signalData, holdoff⟩
  else none

/-- A setup block with every field valid (R133, setup block table). -/
def setupValid (b : SetupBlock) : Bool :=
  ringSizeOk b.cmdSize.toNat && ringSizeOk b.cplSize.toNat && aligned (b.cmdSize.toNat * 32) b.cmdRing &&
    aligned (b.cplSize.toNat * 16) b.cplRing && aligned 4 b.cplConsumer && aligned 4 b.cplSignal

/-- CMD_PRODUCER's check: the stored value less the taken index is not above the command ring size (R136). -/
def producerOk (b : SetupBlock) (producer taken : Word) : Bool := decide ((producer - taken).toNat ≤ b.cmdSize.toNat)

end Sys2Proof.Machine
end

