-- ==== Sys2Proof/Machine/Formats.lean ====
section
/-! DEFINITION. Sys2Proof/Machine/Formats.lean: the codes and the byte layouts of every record the part writes
(10_record_and_register_formats.md, R164), and the results of completions. -/
namespace Sys2Proof.Machine

/-! ### Codes -/

def boolCode (b : Bool) : Nat := if b then 1 else 0

def Trigger.code : Trigger → Nat
  | .rise => 0
  | .fall => 1
  | .both => 2
  | .high => 3
  | .low => 4

def Mode.code : Mode → Nat
  | .single => 0
  | .sweep => 1

def HoldMode.code : HoldMode → Nat
  | .hold => 0
  | .nohold => 1

def BundleState.code : BundleState → Nat
  | .off => 0
  | .idle => 1
  | .ready => 2
  | .assembling => 3
  | .held => 4

def WaitingReason.code : WaitingReason → Nat
  | .none => 0
  | .targetAbsent => 1
  | .targetQuiesced => 2
  | .targetFaulted => 3
  | .ringFull => 4
  | .assemblerBusy => 5

def HoldTimer.code : HoldTimer → Nat
  | .stopped => 0
  | .running _ => 1
  | .paused _ => 2

def AssemblyKind.code : AssemblyKind → Nat
  | .event => 1
  | .reminder => 2

def CopyState.code : CopyState → Nat
  | .unwritten => 1
  | .written => 2
  | .void => 3

def TargetState.code : TargetState → Nat
  | .detached => 0
  | .active => 1
  | .quiesced => 2
  | .faulted => 3

def FaultReason.code : FaultReason → Nat
  | .none => 0
  | .ringWrite => 1
  | .consumerRead => 2
  | .badConsumer => 3
  | .signalWrite => 4

def Status.code : Status → Nat
  | .ok => 0
  | .badKind => 1
  | .badArgument => 2
  | .badState => 3
  | .staleToken => 4
  | .notHeld => 5
  | .timedOut => 6
  | .aborted => 7
  | .notFound => 8
  | .busError => 9
  | .replyFailed => 10

/-- A bundle number, 0xFF for NONE. -/
def bundleCode : Option BundleId → Nat
  | some b => b.val
  | none => 0xFF

/-- A target number, 0xFF for NONE. -/
def targetCode : Option TargetId → Nat
  | some t => t.val
  | none => 0xFF

/-- The kind codes that a completion of a deferred command carries (command slot table). -/
def DeferKind.code : DeferKind → Byte
  | .detach _ => 0x31
  | .drain _ _ => 0x35
  | .fence => 0x40

/-! ### Results of completions (completion slot, result table) -/

/-- A result of one value in the lowest bytes. -/
def result1 (x : Nat) : BitVec 64 := BitVec.ofNat 64 x

/-- 8: discarded count (2); 10: voided count (2). -/
def resultCounts (discarded voided : Nat) : BitVec 64 := BitVec.ofNat 64 (discarded + voided * 2 ^ 16)

/-- 8: records discarded (2); 10: entries voided (2); 12: count cleared (4). -/
def resultFlush (records voided cleared : Nat) : BitVec 64 :=
  BitVec.ofNat 64 (records + voided * 2 ^ 16 + cleared * 2 ^ 32)

/-- 8: sources released; 9: re-assertion events. -/
def resultAck (released reasserted : Nat) : BitVec 64 := BitVec.ofNat 64 (released + reasserted * 2 ^ 8)

/-! ### Slots the part writes -/

/-- A completion slot, 16 bytes (R141). -/
def completionBytes (ph : Bool) (c : Completion) : List Byte :=
  [BitVec.ofNat 8 (bit ph 0), c.cmd.kind] ++ leBytes 2 c.cmd.tag.toNat ++ leBytes 1 c.status.code ++ zeros 3 ++
    leBytes 8 c.result.toNat

/-- An entry slot, 32 bytes: the copy's values, or VOID (R83). -/
def entryBytes (ph : Bool) (c : Copy) : List Byte :=
  if c.state = .void then
    leBytes 1 (bit ph 0) ++ zeros 1 ++ leBytes 2 0xFFFF ++ zeros 28
  else
    leBytes 1 (bit ph 0 + bit c.lossFlag 1 + bit c.detail.isSome 2) ++ zeros 1 ++ leBytes 2 c.source.val ++
      leBytes 2 c.count ++ leBytes 2 (c.detail.getD 0).toNat ++ leBytes 8 c.firstTime.toNat ++
      leBytes 8 c.lastTime.toNat ++ leBytes 4 c.interval.toNat ++ zeros 4

/-- The kind of a notification's header (R86). -/
inductive HeaderKind where
  | event
  | reminder
  | empty
  deriving DecidableEq, Repr

def HeaderKind.code : HeaderKind → Nat
  | .event => 0
  | .reminder => 1
  | .empty => 2

/-- EVENT if at least one copy is not VOID, EMPTY if every copy is; a REMINDER assembly's header is REMINDER (R86). -/
def Assembly.headerKind (a : Assembly) : HeaderKind :=
  match a.kind with
  | .reminder => .reminder
  | .event => if a.copies.all fun c => c.state == .void then .empty else .event

/-- A header slot, 32 bytes (R86). An EMPTY header carries token 0 (R87). -/
def headerBytes (ph : Bool) (postTime : Time) (a : Assembly) : List Byte :=
  leBytes 1 (bit ph 0 + a.headerKind.code * 2 + bit a.flagUrgent 3 + bit a.flagMore 4 + bit a.flagPartial 5) ++
    leBytes 1 a.bundle.val ++ leBytes 2 (if a.headerKind = .empty then 0 else a.token.toNat) ++
    leBytes 1 a.copies.length ++ leBytes 1 a.reminderNumber ++ zeros 2 ++ leBytes 8 postTime.toNat ++ zeros 16

/-! ### Reply records -/

/-- The in-flight copy of a source, if any: at most one exists (R37). -/
def State.copyOf (s : State) (n : SourceId) : Option Copy := s.copies.find? fun c => c.source == n

/-- ROUTE_READ's reply, 64 bytes: one snapshot of everything the part holds for a source (R33). -/
def routeReply (s : State) (n : SourceId) : List Byte :=
  let e := s.route n
  let r := s.record n
  let c := s.copyOf n
  let y := s.tally n
  let present (f : PendingRecord → Nat) : Nat := (r.map f).getD 0
  leBytes 1 (boolCode e.enabled) ++ leBytes 1 e.trigger.code ++ leBytes 2 e.filter.toNat ++ leBytes 1 (bundleCode e.bundle) ++
    leBytes 1 e.rank.val ++
    leBytes 1 (present fun x => bit true 0 + bit x.detail.isSome 1 + bit (s.lossFlag n) 2) ++
    leBytes 1 ((c.map fun x => x.state.code).getD 0) ++
    leBytes 2 (present fun x => x.count) ++ leBytes 2 (present fun x => (x.detail.getD 0).toNat) ++
    leBytes 2 (s.inFlightCount n) ++
    leBytes 1 (bundleCode (if c.isSome then s.assembly.map fun a => a.bundle else none)) ++ zeros 1 ++
    leBytes 8 (present fun x => x.firstTime.toNat) ++ leBytes 8 (present fun x => x.lastTime.toNat) ++
    leBytes 4 (present fun x => x.interval.toNat) ++
    leBytes 4 y.accepted.toNat ++ leBytes 4 y.reported.toNat ++ leBytes 4 y.cleared.toNat ++ leBytes 4 y.lost.toNat ++ zeros 12

/-- Source numbers one per byte, filled up to `size` bytes with 0xFF (R164). -/
def sourceBytes (size : Nat) (l : List SourceId) : List Byte :=
  let bs := (l.take size).map fun n => BitVec.ofNat 8 n.val
  bs ++ List.replicate (size - bs.length) 0xFF#8

/-- A period or remaining time of µs in whole ms, rounded up (R69). -/
def msRoundedUp (us : Nat) : Nat := (us + 999) / Config.microsecondsPerMs

/-- Bytes up to the next multiple of 8 (BUNDLE_READ reply). -/
def roundUp8 (n : Nat) : Nat := (n + 7) / 8 * 8

/-- The assembly in flight for a bundle, if any, whatever the bundle's state (R69). -/
def State.assemblyOf (s : State) (b : BundleId) : Option Assembly := s.assembly.filter fun a => a.bundle == b

/-- BUNDLE_READ's reply, 32 bytes plus the capacity rounded up to 8 (R69). -/
def bundleReply (s : State) (b : BundleId) (capacity : Nat) : List Byte :=
  let c := s.config b
  let x := s.run b
  let l := s.pendingList b
  let a := s.assemblyOf b
  leBytes 1 (boolCode c.enabled) ++ leBytes 1 (targetCode c.target) ++ leBytes 1 c.mode.code ++ leBytes 1 c.sweepLimit ++
    leBytes 1 (boolCode c.urgent) ++ leBytes 1 c.hold.code ++ leBytes 2 c.holdTimeout.toNat ++ leBytes 1 c.reminderLimit ++
    leBytes 1 x.state.code ++ leBytes 2 x.token.toNat ++ leBytes 1 x.heldSet.length ++ leBytes 1 x.remindersPosted ++
    leBytes 1 (bit x.reminderDue 0 + bit (decide (capacity < l.length)) 1) ++ leBytes 1 x.holdTimer.code ++
    leBytes 2 (msRoundedUp x.holdTimer.remaining) ++ leBytes 1 (s.waitingReason b).code ++
    leBytes 1 ((a.map fun y => y.kind.code).getD 0) ++ leBytes 1 ((a.map fun y => y.copies.length).getD 0) ++ zeros 1 ++
    leBytes 2 l.length ++ sourceBytes 8 x.heldSet ++
    (sourceBytes capacity l ++ zeros (roundUp8 capacity - capacity))

/-- TARGET_READ's reply, 64 bytes (R130). -/
def targetReply (s : State) (t : TargetId) : List Byte :=
  let x := s.target t
  leBytes 1 x.state.code ++ leBytes 1 x.faultReason.code ++
    leBytes 1 (bit x.spaceWanted 0 + bit (s.consumerReadInFlight t) 1 + bit x.armed 2 + bit x.signalOwed 3 +
      bit x.rearmCheckPending 4 + bit x.detachPending 5 + bit (s.assemblyFor t) 6) ++
    leBytes 1 (s.bundlesIn t .ready) ++ leBytes 1 (s.bundlesIn t .held) ++ zeros 1 ++ leBytes 2 x.ringSize ++
    leBytes 8 x.ringAddress.toNat ++ leBytes 8 x.consumerAddress.toNat ++ leBytes 8 x.signalAddress.toNat ++
    leBytes 4 x.signalData.toNat ++ leBytes 4 x.produced.toNat ++ leBytes 4 x.consumed.toNat ++
    leBytes 2 x.pollInterval.toNat ++ leBytes 2 x.holdoff.toNat ++ leBytes 4 x.pollTimer.remaining ++
    leBytes 4 x.holdoffTimer.remaining ++ leBytes 4 (s.signalWritesOutstanding t) ++ zeros 4

end Sys2Proof.Machine
end

