-- ==== Sys2Proof/Machine/Ops.lean ====
section
/-! DEFINITION. Sys2Proof/Machine/Ops.lean: the named operations that the rows share: consumer-word reads and space wanted (R115),
completions and the deferred table (R141, R144, R145), list changes (R55), accepting an event (R2, R39 to R41), discards (R28, R29),
release (R100), signals (R119), entering FAULTED (R118) and HALTED (R147), detach (R127), and handing an answer to its issuer
(R151, R159). -/
namespace Sys2Proof.Machine
namespace State

/-! ### Consumer-word reads and space wanted (R115) -/

/-- A consumer-word read of target `t`, unless one is in flight (R115). -/
def issueConsumerRead (t : TargetId) (s : State) : State :=
  if s.consumerReadInFlight t then s
  else s.issueRequest (.consumerRead t) (s.target t).consumerAddress (.read 4)

/-- Re-judges space wanted of target `t`: becoming yes issues a read and starts the poll timer, becoming no stops it (R115). -/
def rejudgeSpace (t : TargetId) (s : State) : State :=
  if s.shortOfSpace t && !(s.target t).spaceWanted then
    (s.updTarget t fun x => { x with spaceWanted := true, pollTimer := .start x.pollInterval.toNat }).issueConsumerRead t
  else if !s.shortOfSpace t && (s.target t).spaceWanted then
    s.updTarget t fun x => { x with spaceWanted := false, pollTimer := .stopped }
  else s

/-- Re-judges space wanted of a bundle's target. -/
def rejudgeSpaceOf (b : BundleId) (s : State) : State :=
  match (s.config b).target with
  | some t => s.rejudgeSpace t
  | none => s

/-- Moves a bundle to a state; the target unit re-judges space wanted (R115). -/
def setState (b : BundleId) (st : BundleState) (s : State) : State :=
  (s.updRun b fun x => { x with state := st }).rejudgeSpaceOf b

/-! ### Completions (R141) -/

/-- Issues the write of the completion at the front of the queue, unless a completion write is outstanding (R141). -/
def issueCompletion (s : State) : State :=
  match s.proc.completions, s.proc.setup with
  | c :: _, some su =>
    if s.inFlight .completionWrite then s
    else s.issueRequest .completionWrite (slotAddress su.cplRing su.cplSize.toNat 16 s.proc.cplProduced)
      (.write (completionBytes (phase su.cplSize.toNat s.proc.cplProduced) c))
  | _, _ => s

/-- A completion is decided: it joins the queue behind those decided before it (R141). -/
def pushCompletion (c : Completion) (s : State) : State :=
  (s.updProc fun p => { p with completions := p.completions ++ [c] }).issueCompletion

/-! ### The deferred table (R144, R145) -/

/-- The targets whose drain condition is met (R128). -/
def drainedTargets (s : State) : List TargetId := allTargets.filter s.drained

/-- One pass over the deferred table, oldest first: the entries that stay, and the completions of those whose wait has ended.
A DRAIN ends when its condition is met, now or, for a target in `met`, earlier in the same event (R128; log 11); a FENCE when no
older entry is left (R145); a TARGET_DETACH of the target `gone`, just detached, with the holds released as the result of the first
and 0 of the others (R126). -/
def sweepTable (s : State) (gone : Option TargetId) (met : List TargetId) :
    Nat → List Deferred → List Deferred → List Deferred × List Completion
  | _, kept, [] => (kept, [])
  | holds, kept, d :: ds =>
    match d.what with
    | .detach t =>
      if gone = some t then
        let r := s.sweepTable gone met 0 kept ds
        (r.1, ⟨d.cmd, .ok, result1 holds⟩ :: r.2)
      else s.sweepTable gone met holds (kept ++ [d]) ds
    | .drain t _ =>
      if s.drained t || met.contains t then
        let r := s.sweepTable gone met holds kept ds
        (r.1, ⟨d.cmd, .ok, 0⟩ :: r.2)
      else s.sweepTable gone met holds (kept ++ [d]) ds
    | .fence =>
      if kept.isEmpty then
        let r := s.sweepTable gone met holds kept ds
        (r.1, ⟨d.cmd, .ok, 0⟩ :: r.2)
      else s.sweepTable gone met holds (kept ++ [d]) ds

/-- Ends the waits that one event has ended; the completions join the queue in table order, oldest first (R145). -/
def sweepDeferredFor (gone : Option TargetId) (holds : Nat) (met : List TargetId) (s : State) : State :=
  let r := s.sweepTable gone met holds [] s.proc.deferred
  r.2.foldl (fun u c => u.pushCompletion c) (s.updProc fun p => { p with deferred := r.1 })

/-- Re-judges every DRAIN and FENCE (R128, R145). -/
def sweepDeferred (s : State) : State := s.sweepDeferredFor none 0 []

/-! ### List changes (R38, R55) -/

/-- A bundle's list may have gained its first record: IDLE becomes READY (R55). -/
def listGained (b : Option BundleId) (s : State) : State :=
  match b with
  | some b => if (s.run b).state = .idle then s.setState b .ready else s
  | none => s

/-- A bundle's list may have lost its last record: READY becomes IDLE, and a DRAIN that waited for it ends (R55, R128; log 11). -/
def listLost (b : Option BundleId) (s : State) : State :=
  match b with
  | some b =>
    if (s.run b).state = .ready ∧ s.pendingList b = [] then (s.setState b .idle).sweepDeferred else s
  | none => s

/-- A bundle that leaves ASSEMBLING or HELD settles on READY or IDLE by its list (R55). -/
def settleByList (b : BundleId) (s : State) : State :=
  s.setState b (if s.pendingList b = [] then .idle else .ready)

/-! ### Accepting an event (R2, R3, R39, R40, R41) -/

/-- An arrival at the accounting unit for an enabled source: the interval counter is read and restarts at 0, the accepted tally
grows, and the record is created, grows, or loses the event. -/
def arrive (n : SourceId) (detail : Option Half) (s : State) : State :=
  let u := (s.setInterval n 0).updTally n fun y => { y with accepted := y.accepted + 1 }
  match s.record n with
  | none =>
    (u.setRecord n (some ⟨1, s.timebase, s.timebase, s.interval n, detail⟩)).listGained (s.route n).bundle
  | some r =>
    if r.count < Config.countLimit then
      u.setRecord n (some { r with count := r.count + 1, lastTime := s.timebase, detail := detail })
    else
      (u.setRecord n (some { r with lastTime := s.timebase, detail := detail })).updTally n
        fun y => { y with lost := y.lost + 1 }

/-- The next arrival for the source finds its record saturated (R41). -/
def saturated (s : State) (n : SourceId) : Bool :=
  match s.record n with
  | some r => decide (Config.countLimit ≤ r.count)
  | none => false

/-- One event of one source, no loss reported: accepted where the route entry is enabled (R2). -/
def acceptOne (n : SourceId) (detail : Option Half) (s : State) : State :=
  if (s.route n).enabled then s.arrive n detail else s

/-- The number of a source as a detail (R4). -/
def sourceDetail (n : Nat) : Option Half := some (BitVec.ofNat 16 n)

/-- A cause of an event occurs for source `n` (R2). A loss is an occurrence for source 209, unless the source is 209 (R5, R41). -/
def accept (n : SourceId) (detail : Option Half) (s : State) : State :=
  if (s.route n).enabled && s.saturated n && n != Config.eventsLost then
    (s.acceptOne n detail).acceptOne Config.eventsLost (sourceDetail n.val)
  else s.acceptOne n detail

/-- `k` events, one after the other (R18). -/
def acceptMany (n : SourceId) (detail : Option Half) : Nat → State → State
  | 0, s => s
  | k + 1, s => acceptMany n detail k (s.accept n detail)

/-! ### Field lines (R11, R12, R13) -/

/-- The source is an enabled field line with a level trigger whose qualified level is the active level (R12, R13). -/
def levelActive (s : State) (n : SourceId) : Bool :=
  match lineOf n with
  | some l => (s.route n).enabled && (s.route n).trigger.activeLevel == some (s.line l).qualified
  | none => false

/-- The detail of a field line's check: its qualified level (R3). -/
def levelDetail (s : State) (n : SourceId) : Option Half := (lineOf n).map fun l => (s.line l).qualified.detail

/-- The level check of one source: at enabling (R12) or at a release (R13). -/
def levelCheck (n : SourceId) (s : State) : State := if s.levelActive n then s.accept n (s.levelDetail n) else s

/-- The re-assertion checks of the reported sources, in entry order (R13, R101). -/
def reassert (sources : List SourceId) (s : State) : State := sources.foldl (fun u n => u.levelCheck n) s

/-- The qualified level takes the sampled level, the line becomes STABLE, and the trigger of the line's source judges the
change (R8, R11). -/
def qualify (l : LineId) (s : State) : State :=
  let level := (s.line l).sampled
  let u := s.setLine l ⟨level, level, .stable⟩
  if (s.route (sourceOfLine l)).trigger.counts level then u.accept (sourceOfLine l) (some level.detail) else u

/-! ### Discards (R28, R29, R47) -/

/-- The source's pending record is removed whole and its count added to cleared; the list change is passed on by the caller
(R28). -/
def clearRecord (n : SourceId) (s : State) : State :=
  match s.record n with
  | some r => (s.setRecord n none).updTally n fun y => { y with cleared := y.cleared + BitVec.ofNat 32 r.count }
  | none => s

/-- Discards a source's pending record (R28). -/
def discardRecord (n : SourceId) (s : State) : State :=
  if (s.record n).isSome then (s.clearRecord n).listLost (s.route n).bundle else s

/-- The count of the UNWRITTEN copy of source `n`: what a discard voids (R29). -/
def voidableIn (n : SourceId) : List Copy → Nat
  | [] => 0
  | c :: cs => (if c.source = n ∧ c.state = .unwritten then c.count else 0) + voidableIn n cs

/-- The copies with those of source `n` that are UNWRITTEN made VOID (R29, R84). -/
def voidIn (n : SourceId) (cs : List Copy) : List Copy :=
  cs.map fun c => if c.source = n ∧ c.state = .unwritten then { c with state := .void } else c

/-- A discard reaches the in-flight copy of source `n`: UNWRITTEN becomes VOID and its count is added to cleared (R29). -/
def voidCopy (n : SourceId) (s : State) : State :=
  (s.updTally n fun y => { y with cleared := y.cleared + BitVec.ofNat 32 (voidableIn n s.copies) }).setAssembly
    (s.assembly.map fun a => { a with copies := voidIn n a.copies })

/-! ### Halting (R147) -/

/-- The processor enters HALTED and source 208 accepts an event; a HALTED processor stays as it is (R147). -/
def halt (reason : HaltReason) (s : State) : State :=
  match s.proc.state with
  | .halted _ => s
  | .stopped | .running | .waiting _ =>
    (s.updProc fun p => { p with state := .halted reason }).accept Config.commandPath (sourceDetail reason.code)

/-! ### Completing commands (R139, R141) -/

/-- A command completes with its status and result; a rejected one is an occurrence for source 208 with its tag as detail
(R139, R141). The completion joins before the occurrence: DESIGN CHOICE for the order of the requests that the two ask for (log 38). -/
def complete (cmd : CmdId) (status : Status) (result : BitVec 64) (s : State) : State :=
  let u := s.pushCompletion ⟨cmd, status, result⟩
  if status.rejected then u.accept Config.commandPath (some cmd.tag) else u

/-- The command in hand has completed or entered the deferred table: HALTED stays, otherwise ENABLE decides (R135, R148). -/
def handDone (s : State) : State :=
  s.updProc fun p =>
    { p with
      hand := none
      state := match p.state with
        | .halted r => .halted r
        | .stopped | .running | .waiting _ => if s.enable then .running else .stopped }

/-- The command in hand stays in hand; the processor waits with a cause, unless it is HALTED (R67, R135, R144). -/
def holdInHand (h : Hand) (cause : Option WaitCause) (s : State) : State :=
  s.updProc fun p =>
    { p with
      hand := some h
      state := match p.state, cause with
        | .halted r, _ => .halted r
        | st, none => st
        | _, some c => .waiting c }

/-! ### Signals (R119, R120) -/

/-- Issues a signal: one write of the signal data; disarms, and starts the holdoff timer (R119). -/
def issueSignal (t : TargetId) (s : State) : State :=
  (s.updTarget t fun x => { x with armed := false, signalOwed := false, holdoffTimer := .start x.holdoff.toNat }).issueRequest
    (.signal t) (s.target t).signalAddress (.write (leBytes 4 (s.target t).signalData.toNat))

/-- The signal rules, at a post or at a rearm check that finds unconsumed notifications (R119, R122). -/
def signalRules (t : TargetId) (s : State) : State :=
  if (s.target t).inService && (s.target t).armed then
    match (s.target t).holdoffTimer with
    | .stopped => s.issueSignal t
    | .running _ => s.updTarget t fun x => { x with signalOwed := true }
  else s

/-- The rearm check: are there notifications that the consumer has not consumed? (R122) -/
def rearmCheck (t : TargetId) (s : State) : State :=
  if (s.target t).produced != (s.target t).consumed then s.signalRules t else s

/-! ### Hold timers (R103) and target faults (R118) -/

/-- Re-judges one hold timer (R103). -/
def rejudgeHold (s : State) (b : BundleId) : State :=
  s.updRun b fun x => { x with holdTimer := x.holdTimer.judged (s.pausesHold b) }

/-- Re-judges every hold timer, after a target's state changed (R103). -/
def rejudgeHolds (s : State) : State := allBundles.foldl rejudgeHold s

/-- A target in ACTIVE or QUIESCED enters FAULTED; in any other state the cause changes nothing (R118). -/
def faultTarget (t : TargetId) (reason : FaultReason) (s : State) : State :=
  if (s.target t).inService then
    ((s.updTarget t fun x =>
      { x with
        state := .faulted, faultReason := reason, spaceWanted := false, pollTimer := .stopped,
        holdoffTimer := .stopped, signalOwed := false, rearmCheckPending := false }).accept
      Config.targetFaulted (sourceDetail t.val)).rejudgeHolds
  else s

/-! ### Release (R100) -/

/-- The release steps of a hold (R100). -/
def releaseHold (s : State) (b : BundleId) : State :=
  let u := s.updRun b fun x => { x with holdTimer := .stopped, reminderDue := false, remindersPosted := 0 }
  let v := u.reassert (s.run b).heldSet
  (v.updRun b fun x => { x with heldSet := [] }).settleByList b

/-- A release outside a detach: the DRAINs are judged against the bundle's new state (R128). -/
def release (b : BundleId) (s : State) : State := (s.releaseHold b).sweepDeferred

/-! ### Detach (R126, R127) -/

/-- The HELD bundles of a target (R127, step 1), lowest number first: the manual gives no order among them, and their releases
and re-assertion checks are taken in this one (DESIGN CHOICE, log 33). -/
def heldBundles (s : State) (t : TargetId) : List BundleId :=
  allBundles.filter fun b => (s.config b).target == some t && (s.run b).state == .held

/-- Steps 1 and 2 of a detach, as one step: no read is issued for the target in between, so it counts as DETACHED from the
beginning (R127; log 12). Several holds are released one after the other, the lowest bundle number first (log 33). -/
def performDetach (t : TargetId) (s : State) : State :=
  ((s.heldBundles t).foldl releaseHold (s.updTarget t fun x => { x with detachPending := true })).updTarget t fun x =>
    { x with
      state := .detached, detachPending := false, armed := false, spaceWanted := false, signalOwed := false,
      rearmCheckPending := false, pollTimer := .stopped, holdoffTimer := .stopped }

/-- A detach is pending and nothing of the target is outstanding any more (R126). -/
def detachDue (s : State) (t : TargetId) : Bool := (s.target t).detachPending && !s.targetBusy t

/-- A deferred detach is carried out and completes, with what else the event has ended in the deferred table (R127, R145). -/
def detachNow (t : TargetId) (met : List TargetId) (s : State) : State :=
  (s.performDetach t).sweepDeferredFor (some t) (s.heldBundles t).length met

/-- A pending detach is carried out when nothing of the target is outstanding any more (R126, R127). -/
def tryDetach (t : TargetId) (s : State) : State := if s.detachDue t then s.detachNow t [] else s

/-- The waits that the end of an assembly for target `t` ends, in table order (R145): DRAINs whose condition is met or was met on
the way (`met`), the pending detach of the target (R127), and the FENCEs behind them. -/
def endWaits (t : TargetId) (met : List TargetId) (s : State) : State :=
  if s.detachDue t then s.detachNow t met else s.sweepDeferredFor none 0 met

/-- A TARGET_DETACH of `t` is in the deferred table. -/
def detachDeferred (s : State) (t : TargetId) : Bool := s.proc.deferred.any fun d => d.what == .detach t

/-- Detach pending follows the deferred table when an entry was aborted or dropped (R127). -/
def rejudgeDetachPending (t : TargetId) (s : State) : State :=
  if (s.target t).detachPending && !s.detachDeferred t then
    (s.updTarget t fun x => { x with detachPending := false }).rejudgeSpace t
  else s

/-! ### Commands that can defer (R126, R128, R144, R145) -/

/-- A command that must wait enters the deferred table, with the side effects of entering, or waits for an entry (R144). -/
def enterTable (cmd : CmdId) (what : DeferKind) (s : State) : State :=
  if s.proc.deferred.length < Config.deferredLimit then
    let u := s.updProc fun p => { p with deferred := p.deferred ++ [⟨cmd, what, what.timer⟩] }
    match what with
    | .detach t => (u.updTarget t fun x => { x with detachPending := true }).rejudgeSpace t
    | .drain _ _ | .fence => u
  else s.holdInHand (.tableEntry cmd what) (some .tableEntry)

/-- A TARGET_DETACH, DRAIN or FENCE is judged by its own rule: it completes at once or must wait (R126, R128, R145). -/
def judgeDeferrable (cmd : CmdId) (what : DeferKind) (s : State) : State :=
  match what with
  | .detach t =>
    if (s.target t).state = .detached then s.complete cmd .ok 0
    else if s.targetBusy t then s.enterTable cmd what
    else ((s.performDetach t).sweepDeferredFor (some t) 0 []).complete cmd .ok (result1 (s.heldBundles t).length)
  | .drain t _ => if s.drained t then s.complete cmd .ok 0 else s.enterTable cmd what
  | .fence => if s.proc.deferred.isEmpty then s.complete cmd .ok 0 else s.enterTable cmd what

/-- An entry of the deferred table may have freed: the command in hand that waits for one is judged again (R144). In every
event that can free an entry this comes last (log 15 and, where another occurrence follows or the DRAIN's timer ran, log 36). -/
def settleHand (s : State) : State :=
  match s.proc.hand with
  | some (.tableEntry cmd what) =>
    if s.proc.deferred.length < Config.deferredLimit then
      ((s.updProc fun p => { p with hand := none }).judgeDeferrable cmd what).handDone
    else s
  | _ => s

/-! ### Answers (R151, R152, R159) -/

/-- An answer to request `id`. With no record of that number, or one of another issuer, nothing happens (R152). Otherwise the
record is removed; during a device reset (R159), and for the command path during a restart (R149), the answer is discarded;
else the issuer is handed it. -/
def answer (id : Nat) (mine : Issuer → Bool) (handler : Issuer → State → State) (s : State) : State :=
  match s.requestOf id with
  | some r =>
    if mine r.issuer then
      if s.resetting || (s.proc.restarting && r.issuer.commandPath) then s.endRequest id
      else handler r.issuer (s.endRequest id)
    else s
  | none => s

/-- A DONE answer to the command read: a RUNNING processor takes the command, any other discards it (R137). -/
def commandAnswer (r : SlotRead) (execute : State → State) (s : State) : State :=
  s.answer r.req (· == .commandRead) fun _ u =>
    if u.proc.state = .running then execute (u.updProc fun p => { p with taken := p.taken + 1 }) else u

end State

/-- What a command of kind code `kind` needs for its completion. -/
def cmdOf (r : SlotRead) (kind : Byte) : CmdId := ⟨kind, r.tag, r.signal⟩

/-- What a row's meaning answers. -/
abbrev Result := Host.Outcome State Fault Refusal

/-- A step outside a device reset; during one, no work starts, no timer expires and no register write is taken (R158, R161). -/
def live (f : State → State) (s : State) : State := if s.resetting then s else f s

end Sys2Proof.Machine
end

