-- ==== Sys2Proof/Machine/Routes.lean ====
section
/-! DEFINITION. Sys2Proof/Machine/Routes.lean: ROUTE_SET and ROUTE_READ (R24 to R34). -/
namespace Sys2Proof.Machine

namespace State

/-- Step 1 of ROUTE_SET, with DISCARD set (R25): the record (R28), then the copy (R29). SOURCE_CLEAR does the same (R47). -/
def discardSource (n : SourceId) (s : State) : State := (s.discardRecord n).voidCopy n

/-- Steps 2 and 3 of ROUTE_SET: the entry is written and the record moves to the place that it names (R25, R26). The move is
one change of both lists: the loss is judged when the record is already in its new place (R38; log 11). -/
def writeRoute (n : SourceId) (e : RouteEntry) (s : State) : State :=
  let u := s.setRoute n e
  if (s.record n).isSome && (s.route n).bundle != e.bundle then (u.listGained e.bundle).listLost (s.route n).bundle else u

/-- A filter change to 0 ends the line's running qualification as an expiry (R10). -/
def endsQualification (s : State) (n : SourceId) (e : RouteEntry) : Bool :=
  match lineOf n with
  | some l => (s.line l).qualification != .stable && (s.route n).filter != e.filter && e.filter == 0
  | none => false

/-- Step 4 of ROUTE_SET: a filter change restarts or ends a running qualification (R10). `old` is the entry before the write. -/
def changeFilter (n : SourceId) (old e : RouteEntry) (s : State) : State :=
  match lineOf n with
  | some l =>
    if old.filter = e.filter then s
    else
      match (s.line l).qualification with
      | .stable => s
      | .qualifying _ =>
        if e.filter = 0 then s.qualify l
        else s.setLine l { s.line l with qualification := .qualifying e.filter.toNat }
  | none => s

/-- The level check at enabling is due: a level trigger newly enabled or newly written (R12). -/
def levelCheckDue (n : SourceId) (old e : RouteEntry) : Bool :=
  (lineOf n).isSome && e.enabled && e.trigger.activeLevel.isSome && (!old.enabled || old.trigger != e.trigger)

/-- Steps 2 to 5 of ROUTE_SET (R25). -/
def reroute (n : SourceId) (e : RouteEntry) (s : State) : State :=
  let u := (s.writeRoute n e).changeFilter n (s.route n) e
  if levelCheckDue n (s.route n) e && !s.endsQualification n e then u.levelCheck n else u

/-- ROUTE_SET, once taken (R24, R25, R32). -/
def routeSetCommand (cmd : CmdId) (source : Half) (entry : Option RouteEntry) (discard : Bool) (s : State) : State :=
  match sourceArg source, entry with
  | some n, some e =>
    if discard then
      ((s.discardSource n).reroute n e).complete cmd .ok (resultCounts (s.pendingCount n) (voidableIn n s.copies))
    else (s.reroute n e).complete cmd .ok 0
  | _, _ => s.complete cmd .badArgument 0

/-- A read command with valid arguments: the snapshot is written as one request, and the command stays in hand with the result
that it will have (R140). -/
def issueReply (cmd : CmdId) (result : BitVec 64) (address : Addr) (record : List Byte) (s : State) : State :=
  (s.holdInHand (.reply cmd result) none).issueRequest .replyWrite address (.write record)

/-- ROUTE_READ, once taken (R33, R34). -/
def routeReadCommand (cmd : CmdId) (source : Half) (reply : Addr) (s : State) : State :=
  match sourceArg source with
  | some n => if replyArgOk reply then s.issueReply cmd 0 reply (routeReply s n) else s.complete cmd .badArgument 0
  | none => s.complete cmd .badArgument 0

end State

/-- ROUTE_SET (R24, R25). -/
def execRouteSet (r : SlotRead) (source : Half) (enabled trigger : Byte) (filter : Half) (bundle rank : Byte) (discard : Bool)
    (s : State) : Result :=
  .next (s.commandAnswer r
    (State.routeSetCommand (cmdOf r 0x10) source (routeArgs enabled trigger filter bundle rank) discard))

/-- ROUTE_READ (R33). -/
def execRouteRead (r : SlotRead) (source : Half) (reply : Addr) (s : State) : Result :=
  .next (s.commandAnswer r (State.routeReadCommand (cmdOf r 0x11) source reply))

end Sys2Proof.Machine
end

