-- ==== Sys2Proof/Machine/Accounts.lean ====
section
/-! DEFINITION. Sys2Proof/Machine/Accounts.lean: SOURCE_CLEAR and TALLY_RESET (R47, R49). -/
namespace Sys2Proof.Machine

namespace State

/-- SOURCE_CLEAR, once taken (R47). -/
def sourceClearCommand (cmd : CmdId) (source : Half) (s : State) : State :=
  match sourceArg source with
  | some n => (s.discardSource n).complete cmd .ok (resultCounts (s.pendingCount n) (voidableIn n s.copies))
  | none => s.complete cmd .badArgument 0

/-- Restarts one source's accounts from its outstanding events (R49). -/
def resetTally (s : State) (n : SourceId) : State :=
  (s.updTally n fun _ => ⟨BitVec.ofNat 32 (s.pendingCount n + s.inFlightCount n), 0, 0, 0, 0⟩).setAssembly
    (s.assembly.map fun a =>
      { a with copies := a.copies.map fun c => if c.source = n then { c with lossFlag := false, takenLoss := 0 } else c })

/-- TALLY_RESET, once taken; 0xFFFF is ALL (R49). -/
def tallyResetCommand (cmd : CmdId) (source : Half) (s : State) : State :=
  if source = 0xFFFF#16 then (allSources.foldl resetTally s).complete cmd .ok 0
  else
    match sourceArg source with
    | some n => (s.resetTally n).complete cmd .ok 0
    | none => s.complete cmd .badArgument 0

end State

/-- SOURCE_CLEAR (R47). -/
def execSourceClear (r : SlotRead) (source : Half) (s : State) : Result :=
  .next (s.commandAnswer r (State.sourceClearCommand (cmdOf r 0x12) source))

/-- TALLY_RESET (R49). -/
def execTallyReset (r : SlotRead) (source : Half) (s : State) : Result :=
  .next (s.commandAnswer r (State.tallyResetCommand (cmdOf r 0x13) source))

end Sys2Proof.Machine
end

