-- ==== Sys2Proof/Machine/Events.lean ====
section
/-! DEFINITION. Sys2Proof/Machine/Events.lean: NOP, BAD_KIND, RAISE, TIME_SET and TIME_READ (R18 to R20, R139). -/
namespace Sys2Proof.Machine

namespace State

/-- RAISE, once taken (R18). -/
def raiseCommand (cmd : CmdId) (source : Half) (count : Byte) (argument : Option Half) (s : State) : State :=
  match virtualArg source with
  | none => s.complete cmd .badArgument 0
  | some n =>
    if count = 0 then s.complete cmd .badArgument 0
    else if (s.route n).enabled then (s.acceptMany n argument count.toNat).complete cmd .ok (result1 count.toNat)
    else s.complete cmd .ok 0

/-- TIME_SET, once taken (R19): the old value is the result, and source 215 meets its occurrence after the load. -/
def timeSetCommand (cmd : CmdId) (value : BitVec 64) (s : State) : State :=
  if Config.timebaseMax < value.toNat then s.complete cmd .badArgument 0
  else
    ((s.setTimebase (value.setWidth 48)).accept Config.timebaseSet (some (value.setWidth 16))).complete cmd .ok
      (s.timebase.setWidth 64)

end State

/-- NOP (R139). -/
def execNop (r : SlotRead) (s : State) : Result :=
  .next (s.commandAnswer r fun u => u.complete (cmdOf r 0x00) .ok 0)

/-- BAD_KIND (R139): the arguments are not looked at; the completion carries the kind code as read (R141). -/
def execBadKind (r : SlotRead) (kind : Byte) (s : State) : Result :=
  .next (s.commandAnswer r fun u => u.complete (cmdOf r kind) .badKind 0)

/-- RAISE (R18). -/
def execRaise (r : SlotRead) (source : Half) (count : Byte) (hasArgument : Bool) (argument : Half) (s : State) : Result :=
  .next (s.commandAnswer r (State.raiseCommand (cmdOf r 0x01) source count (if hasArgument then some argument else none)))

/-- TIME_SET (R19). -/
def execTimeSet (r : SlotRead) (value : BitVec 64) (s : State) : Result :=
  .next (s.commandAnswer r (State.timeSetCommand (cmdOf r 0x02) value))

/-- TIME_READ (R20). -/
def execTimeRead (r : SlotRead) (s : State) : Result :=
  .next (s.commandAnswer r fun u => u.complete (cmdOf r 0x03) .ok (u.timebase.setWidth 64))

end Sys2Proof.Machine
end

