-- ==== Sys2Proof/Machine/Bundles.lean ====
section
/-! DEFINITION. Sys2Proof/Machine/Bundles.lean: BUNDLE_SET, BUNDLE_READ, BUNDLE_FLUSH and acknowledges (R65 to R71, R96, R98). -/
namespace Sys2Proof.Machine

namespace State

/-! ### BUNDLE_SET (R66, R67) -/

/-- The move of an applied BUNDLE_SET (R66). -/
def moveByEnabled (b : BundleId) (enabled : Bool) (s : State) : State :=
  match (s.run b).state, enabled with
  | .off, true => s.settleByList b
  | .idle, false | .ready, false => s.setState b .off
  | _, _ => s

/-- The fields of a BUNDLE_SET are written: all eight, the state's move, the hold timer's pause, space wanted of the old and the
new target (R66, R103, R115). -/
def writeBundleSet (b : BundleId) (c : BundleConfig) (s : State) : State :=
  let u := ((s.setConfig b c).moveByEnabled b c.enabled).rejudgeHold b
  let v := match (s.config b).target with
    | some t => u.rejudgeSpace t
    | none => u
  v.rejudgeSpaceOf b

/-- A BUNDLE_SET is applied, and the DRAINs that wait are judged (R66, R128). -/
def applyBundleSet (b : BundleId) (c : BundleConfig) (s : State) : State := (s.writeBundleSet b c).sweepDeferred

/-- The applied command completes OK with the bundle's state after it (R66). -/
def completeBundleSet (cmd : CmdId) (b : BundleId) (c : BundleConfig) (s : State) : State :=
  let u := s.applyBundleSet b c
  u.complete cmd .ok (result1 (u.run b).state.code)

/-- A BUNDLE_SET with valid arguments is judged by the bundle's state (R66). -/
def judgeBundleSet (cmd : CmdId) (b : BundleId) (c : BundleConfig) (s : State) : State :=
  match (s.run b).state with
  | .off | .idle | .ready => s.completeBundleSet cmd b c
  | .assembling =>
    if !c.enabled then s.complete cmd .badState 0
    else if c.target != (s.config b).target then s.holdInHand (.assembly cmd b c) (some .assembly)
    else s.completeBundleSet cmd b c
  | .held =>
    if !c.enabled || c.target != (s.config b).target then s.complete cmd .badState 0
    else s.completeBundleSet cmd b c

/-- BUNDLE_SET, once taken (R65, R66). -/
def bundleSetCommand (cmd : CmdId) (bundle : Byte) (config : Option BundleConfig) (s : State) : State :=
  match bundleArg bundle, config with
  | some b, some c => s.judgeBundleSet cmd b c
  | _, _ => s.complete cmd .badArgument 0

/-- A BUNDLE_SET with valid arguments is applied in the bundle's present state; ASSEMBLING and HELD take it with enabled ON and
the target as it is only (R66). -/
def bundleSetApplies (s : State) (b : BundleId) (c : BundleConfig) : Bool :=
  match (s.run b).state with
  | .off | .idle | .ready => true
  | .assembling | .held => c.enabled && c.target == (s.config b).target

/-- The BUNDLE_SET in hand that waited for the assembly of bundle `b` is judged again, once the bundle has left ASSEMBLING (R67).
The deferred commands that the event ends complete first, in table order, and the command in hand after them (R145; log 15). -/
def settleBundleSet (cmd : CmdId) (b : BundleId) (c : BundleConfig) (t : TargetId) (met : List TargetId) (s : State) : State :=
  if s.bundleSetApplies b c then
    let u := s.writeBundleSet b c
    ((u.endWaits t (met ++ u.drainedTargets)).complete cmd .ok (result1 (u.run b).state.code)).handDone
  else ((s.endWaits t met).complete cmd .badState 0).handDone

/-! ### BUNDLE_READ (R69, R70) -/

/-- BUNDLE_READ, once taken. -/
def bundleReadCommand (cmd : CmdId) (bundle : Byte) (capacity : Half) (reply : Addr) (s : State) : State :=
  match bundleArg bundle with
  | some b =>
    if capacity.toNat ≤ 216 ∧ replyArgOk reply then
      s.issueReply cmd (result1 (s.pendingList b).length) reply (bundleReply s b capacity.toNat)
    else s.complete cmd .badArgument 0
  | none => s.complete cmd .badArgument 0

/-! ### BUNDLE_FLUSH (R71) -/

/-- The copies that a flush reaches: those of an EVENT assembly that chose this bundle (R71). -/
def flushedCopies (s : State) (b : BundleId) : List Copy :=
  match s.assembly with
  | some a => if a.bundle = b then a.copies else []
  | none => []

/-- Every record of the list, then every UNWRITTEN copy of the bundle's assembly (R71). -/
def flush (b : BundleId) (s : State) : State :=
  let u := ((s.pendingList b).foldl (fun u n => u.clearRecord n) s).listLost (some b)
  (s.flushedCopies b).foldl (fun u c => u.voidCopy c.source) u

/-- The copies that a flush voids. -/
def flushVoids (s : State) (b : BundleId) : List Copy := (s.flushedCopies b).filter fun c => c.state == .unwritten

/-- The count that a flush clears: of the records discarded and of the copies voided (R71). -/
def flushCount (s : State) (b : BundleId) : Nat :=
  ((s.pendingList b).map s.pendingCount).sum + ((s.flushVoids b).map fun c => c.count).sum

/-- BUNDLE_FLUSH, once taken. -/
def bundleFlushCommand (cmd : CmdId) (bundle : Byte) (s : State) : State :=
  match bundleArg bundle with
  | some b =>
    (s.flush b).complete cmd .ok (resultFlush (s.pendingList b).length (s.flushVoids b).length (s.flushCount b))
  | none => s.complete cmd .badArgument 0

/-! ### Acknowledges (R96, R98, R99) -/

/-- A stale acknowledge is an occurrence for source 212 with the bundle number as detail (R99). -/
def staleAck (b : BundleId) (s : State) : State := s.accept Config.staleAcknowledge (sourceDetail b.val)

/-- ACK, once taken (R98). -/
def ackCommand (cmd : CmdId) (bundle : Byte) (token : Half) (s : State) : State :=
  match bundleArg bundle with
  | none => s.complete cmd .badArgument 0
  | some b =>
    if (s.run b).state ≠ .held then (s.staleAck b).complete cmd .notHeld (result1 (s.run b).state.code)
    else if token ≠ (s.run b).token then (s.staleAck b).complete cmd .staleToken (result1 (s.run b).token.toNat)
    else
      (s.release b).complete cmd .ok
        (resultAck (s.run b).heldSet.length ((s.run b).heldSet.countP s.levelActive))

end State

/-- BUNDLE_SET (R65, R66, R67). -/
def execBundleSet (r : SlotRead) (bundle enabled target mode sweepLimit urgent hold reminderLimit : Byte) (holdTimeout : Half)
    (s : State) : Result :=
  .next (s.commandAnswer r (State.bundleSetCommand (cmdOf r 0x20) bundle
    (bundleArgs enabled target mode sweepLimit urgent hold reminderLimit holdTimeout)))

/-- BUNDLE_READ (R69). -/
def execBundleRead (r : SlotRead) (bundle : Byte) (capacity : Half) (reply : Addr) (s : State) : Result :=
  .next (s.commandAnswer r (State.bundleReadCommand (cmdOf r 0x21) bundle capacity reply))

/-- BUNDLE_FLUSH (R71). -/
def execBundleFlush (r : SlotRead) (bundle : Byte) (s : State) : Result :=
  .next (s.commandAnswer r (State.bundleFlushCommand (cmdOf r 0x22) bundle))

/-- ACK (R98). -/
def execAck (r : SlotRead) (bundle : Byte) (token : Half) (s : State) : Result :=
  .next (s.commandAnswer r (State.ackCommand (cmdOf r 0x23) bundle token))

end Sys2Proof.Machine
end

