-- ==== Sys2Proof/Machine/Assembler.lean ====
section
/-! DEFINITION. Sys2Proof/Machine/Assembler.lean: the assembler: start, writes, commit and abort of an assembly (R76 to R93), and what its end does to the bundle (R57 to R61). -/
namespace Sys2Proof.Machine

namespace State

/-! ### Start (R77 to R80) -/

/-- The next token: plus one, and 1 after 65535 (R62). -/
def nextToken (token : Half) : Half := if token = 0xFFFF#16 then 1 else token + 1

/-- The copy that a take makes of a source's record: a field line's detail becomes its qualified level, and the loss flag and
the lost tally are recorded (R3, R36, R43). -/
def takeCopy (s : State) (n : SourceId) : Option Copy :=
  (s.record n).map fun r =>
    ⟨n, r.count, r.firstTime, r.lastTime, r.interval,
      match lineOf n with
      | some l => some (s.line l).qualified.detail
      | none => r.detail,
      s.lossFlag n, (s.tally n).lost, .unwritten⟩

/-- The take of some sources' records, in list order (R43). -/
def takeRecords : List SourceId → State → List Copy × State
  | [], s => ([], s)
  | n :: ns, s =>
    match s.takeCopy n with
    | some c => (c :: (takeRecords ns (s.setRecord n none)).1, (takeRecords ns (s.setRecord n none)).2)
    | none => takeRecords ns s

/-- The mode's limit: 1 in SINGLE mode, the sweep limit in SWEEP mode (R78). -/
def modeLimit (c : BundleConfig) : Nat :=
  match c.mode with
  | .single => 1
  | .sweep => c.sweepLimit

def captured (c : BundleConfig) : Captured := ⟨c.mode, c.sweepLimit, c.hold, c.urgent⟩

/-- A choice in the non-urgent class moves the round-robin position (R76). -/
def takeTurn (b : BundleId) (s : State) : State := if (s.config b).urgent then s else s.setTurn b

/-- The number of records that an EVENT assembly takes (R78, step 1). -/
def assemblySize (s : State) (b : BundleId) (t : TargetId) : Nat :=
  min (s.pendingList b).length (min (modeLimit (s.config b)) ((s.target t).freeSlots - 1))

/-- Ring space alone cut the notification short (R79). -/
def cutBySpace (s : State) (b : BundleId) (t : TargetId) : Bool :=
  decide ((s.target t).freeSlots - 1 < (s.pendingList b).length) && decide ((s.target t).freeSlots - 1 < modeLimit (s.config b))

/-- The start step of an EVENT assembly of bundle `b` (R78). -/
def startEvent (b : BundleId) (t : TargetId) (s : State) : State :=
  let l := s.pendingList b
  let n := s.assemblySize b t
  let taken := takeRecords (l.take n) (s.takeTurn b)
  (taken.2.setAssembly
      (some
        { kind := .event, bundle := b, target := t, base := (s.target t).produced, copies := taken.1
          token := nextToken (s.run b).token, reminderNumber := 0, flagUrgent := (s.config b).urgent
          flagMore := decide (n < l.length), flagPartial := s.cutBySpace b t, captured := captured (s.config b)
          position := .entry 1 })).updRun b fun x => { x with state := .assembling }

/-- The start step of a REMINDER assembly of bundle `b` (R80). -/
def startReminder (b : BundleId) (t : TargetId) (s : State) : State :=
  ((s.takeTurn b).setAssembly
      (some
        { kind := .reminder, bundle := b, target := t, base := (s.target t).produced, copies := []
          token := (s.run b).token, reminderNumber := (s.run b).remindersPosted + 1, flagUrgent := (s.config b).urgent
          flagMore := decide (s.pendingList b ≠ []), flagPartial := false, captured := captured (s.config b)
          position := .header })).updRun b fun x => { x with reminderDue := false }

/-- The free assembler's choice, where it is a READY bundle (R75 to R78). -/
def eventStart (s : State) : State :=
  match s.chosen with
  | some b =>
    match (s.config b).target with
    | some t => if (s.run b).state = .ready then s.startEvent b t else s
    | none => s
  | none => s

/-- The free assembler's choice, where it is a HELD bundle with reminder due (R75, R76, R80). -/
def reminderStart (s : State) : State :=
  match s.chosen with
  | some b =>
    match (s.config b).target with
    | some t => if (s.run b).state = .held then s.startReminder b t else s
    | none => s
  | none => s

/-! ### Writes (R81 to R83, R86) -/

/-- The address of the assembly's slot at `i` in its target's ring (R81). -/
def ringSlot (s : State) (t : TargetId) (i : Word) : Addr :=
  slotAddress (s.target t).ringAddress (s.target t).ringSize 32 i

/-- Issuing an entry's write makes its copy WRITTEN unless it is VOID (R82). -/
def Copy.issued (c : Copy) : Copy := if c.state = .void then c else { c with state := .written }

/-- Issues the write at the assembly's write position: an entry slot or the header slot, each with the phase of its own index
(R81, R82, R86). -/
def issueWrite (s : State) : State :=
  match s.assembly with
  | none => s
  | some a =>
    let ring := (s.target a.target).ringSize
    match a.position with
    | .entry k =>
      match a.copies[k - 1]? with
      | some c =>
        let i := a.base + BitVec.ofNat 32 k
        (s.setAssembly (some { a with copies := a.copies.set (k - 1) (Copy.issued c) })).issueRequest .assembly
          (s.ringSlot a.target i) (.write (entryBytes (phase ring i) c))
      | none => s
    | .header =>
      s.issueRequest .assembly (s.ringSlot a.target a.base) (.write (headerBytes (phase ring a.base) s.timebase a))

/-- The write after entry `k`: the next entry, or the header after the last (R82). -/
def Assembly.after (a : Assembly) (k : Nat) : WritePosition := if k < a.copies.length then .entry (k + 1) else .header

/-- An entry write was answered DONE: the assembler goes on to its next write (R82). -/
def entryDone (s : State) : State :=
  match s.assembly with
  | none => s
  | some a =>
    match a.position with
    | .entry k => (s.setAssembly (some { a with position := Assembly.after a k })).issueWrite
    | .header => s

/-- The assembly's write position is its header. -/
def atHeader (s : State) : Bool :=
  match s.assembly with
  | some a => a.position == .header
  | none => false

/-! ### The end of an assembly, for its bundle (R57 to R61, R102) -/

/-- The hold timer starts with the bundle's hold timeout (R102). -/
def startHold (b : BundleId) (s : State) : State :=
  let us := (s.config b).holdTimeout.toNat * Config.microsecondsPerMs
  s.updRun b fun x =>
    { x with holdTimer := if us = 0 then .stopped else if s.pausesHold b then .paused us else .running us }

/-- The sources of the non-VOID entries, in entry order (R57, R58). -/
def reportedSources (a : Assembly) : List SourceId := (a.copies.filter fun c => c.state != .void).map fun c => c.source

/-- A HOLD bundle's EVENT commit (R57). -/
def beginHold (a : Assembly) (s : State) : State :=
  ((s.updRun a.bundle fun x =>
      { x with token := a.token, heldSet := reportedSources a, remindersPosted := 0, reminderDue := false }).setState
    a.bundle .held).startHold a.bundle

/-- A NOHOLD bundle's EVENT commit, up to its re-assertion check (R58). -/
def noholdCommit (a : Assembly) (s : State) : State :=
  (s.updRun a.bundle fun x => { x with token := a.token }).settleByList a.bundle

/-- The bundle is still HELD with the reminder's token (R61). -/
def holdStands (s : State) (a : Assembly) : Bool := (s.run a.bundle).state == .held && (s.run a.bundle).token == a.token

/-- A REMINDER's commit (R61, R105). -/
def reminderCommit (a : Assembly) (s : State) : State :=
  if s.holdStands a then
    (s.updRun a.bundle fun x => { x with remindersPosted := x.remindersPosted + 1 }).startHold a.bundle
  else s

/-- Step 3 of a commit, the bundle's move (R57 to R59, R61, R88). -/
def moveBundle (a : Assembly) (s : State) : State :=
  match a.headerKind with
  | .event =>
    match a.captured.hold with
    | .hold => s.beginHold a
    | .nohold => s.noholdCommit a
  | .empty => s.settleByList a.bundle
  | .reminder => s.reminderCommit a

/-- A NOHOLD bundle's re-assertion check, after its move (R58). -/
def recheckReported (a : Assembly) (s : State) : State :=
  if a.headerKind = .event ∧ a.captured.hold = .nohold then s.reassert (reportedSources a) else s

/-- Step 3 of a commit (R88). -/
def commitBundle (a : Assembly) (s : State) : State := (s.moveBundle a).recheckReported a

/-! ### Commit (R88, R89) -/

/-- One entry of a commit: a copy that is not VOID adds its count to reported, and the reported-loss mark follows (R36, R45,
R88 step 1; log 26). -/
def reportCopy (s : State) (c : Copy) : State :=
  if c.state = .void then s
  else s.updTally c.source fun y => { y with reported := y.reported + BitVec.ofNat 32 c.count, lossMark := c.takenLoss }

/-- An EVENT notification committed with PARTIAL set is an occurrence for source 213 (R89). -/
def ringPressure (a : Assembly) (s : State) : State :=
  if a.headerKind = .event ∧ a.flagPartial then s.accept Config.ringPressure (sourceDetail a.target.val) else s

/-- Step 2 of a commit: the produced index advances, the post is signalled, source 213 meets its occurrence (R88, R89), and space
wanted is re-judged (R115). The manual does not place the last: it is done last, so a signal is issued before the consumer-word read
(DESIGN CHOICE, log 34). -/
def commitTarget (a : Assembly) (s : State) : State :=
  (((s.updTarget a.target fun x => { x with produced := x.produced + BitVec.ofNat 32 (1 + a.copies.length) }).signalRules
    a.target).ringPressure a).rejudgeSpace a.target

/-- After an assembly ended: the deferred commands whose waits the event ended (`met`: the targets drained on the way), and the
command in hand: a BUNDLE_SET that waited for this end (R67), or one that waits for an entry of the deferred table (R144; log 15). -/
def afterAssembly (a : Assembly) (met : List TargetId) (s : State) : State :=
  match s.proc.hand with
  | some (.assembly cmd b c) =>
    if (s.run b).state = .assembling then s.endWaits a.target met else s.settleBundleSet cmd b c a.target met
  | _ => (s.endWaits a.target met).settleHand

/-- The commit of the assembly in flight (R88). -/
def commitAssembly (s : State) : State :=
  match s.assembly with
  | none => s
  | some a =>
    let u := ((a.copies.foldl reportCopy (s.setAssembly none)).commitTarget a).moveBundle a
    (u.recheckReported a).afterAssembly a u.drainedTargets

/-! ### Abort (R44, R91, R92) -/

/-- The return of one copy (R44): it becomes the source's record, or merges with the record that the source gained; what is
above 65535 is lost, each event an occurrence for source 209. -/
def returnCopy (s : State) (c : Copy) : State :=
  if c.state = .void then s
  else
    match s.record c.source with
    | none =>
      (s.setRecord c.source (some ⟨c.count, c.firstTime, c.lastTime, c.interval, c.detail⟩)).listGained (s.route c.source).bundle
    | some r =>
      let total := c.count + r.count
      let excess := total - Config.countLimit
      let u := (s.setRecord c.source
        (some ⟨min total Config.countLimit, c.firstTime, r.lastTime, c.interval, r.detail⟩)).updTally c.source
          fun y => { y with lost := y.lost + BitVec.ofNat 32 excess }
      if c.source = Config.eventsLost then u else u.acceptMany Config.eventsLost (sourceDetail c.source.val) excess

/-- Step 2 of an abort (R60, R61). -/
def abortBundle (a : Assembly) (s : State) : State :=
  match a.kind with
  | .event => s.settleByList a.bundle
  | .reminder => if s.holdStands a then s.updRun a.bundle fun x => { x with reminderDue := true } else s

/-- The abort of the assembly in flight (R92). -/
def abortAssembly (s : State) : State :=
  match s.assembly with
  | none => s
  | some a =>
    let u := (a.copies.foldl returnCopy (s.setAssembly none)).abortBundle a
    (u.faultTarget a.target .ringWrite).afterAssembly a u.drainedTargets

end State

/-- EVENT_ASSEMBLY_START (R75 to R79). -/
def execEventAssemblyStart (s : State) : Result := .next (live State.eventStart s)

/-- REMINDER_ASSEMBLY_START (R80). -/
def execReminderAssemblyStart (s : State) : Result := .next (live State.reminderStart s)

/-- FIRST_WRITE_ISSUE (R82): the first write of an assembly that has issued none. -/
def execFirstWriteIssue (s : State) : Result :=
  .next (live (fun u => if u.inFlight .assembly then u else u.issueWrite) s)

/-- ENTRY_WRITE_DONE (R82, R86). -/
def execEntryWriteDone (req : Nat) (s : State) : Result :=
  .next (if s.atHeader then s else s.answer req (· == .assembly) fun _ u => u.entryDone)

/-- COMMIT (R88): the header write is answered DONE. -/
def execCommit (req : Nat) (s : State) : Result :=
  .next (if s.atHeader then s.answer req (· == .assembly) fun _ u => u.commitAssembly else s)

/-- ASSEMBLY_ABORT (R91): a write of the assembly is answered REFUSED. -/
def execAssemblyAbort (req : Nat) (s : State) : Result :=
  .next (s.answer req (· == .assembly) fun _ u => u.abortAssembly)

end Sys2Proof.Machine
end

