-- ==== Sys2Proof/Machine/Targets.lean ====
section
/-! DEFINITION. Sys2Proof/Machine/Targets.lean: the target commands, DRAIN, consumer-word answers, signals and their timers (R115 to R130). -/
namespace Sys2Proof.Machine

namespace State

/-! ### TARGET_ATTACH (R123, R124) -/

/-- TARGET_ATTACH, once taken: the checks in the order of R123, then the read of the consumer word. -/
def attachCommand (cmd : CmdId) (pollInterval holdoff : Half) (descriptor : BitVec 64) (offset signalData : Word)
    (signalAddress : Addr) (s : State) : State :=
  match attachTarget descriptor with
  | none => s.complete cmd .badArgument 0
  | some t =>
    if (s.target t).state ≠ .detached then s.complete cmd .badState 0
    else
      match attachArgs t pollInterval holdoff descriptor offset signalData signalAddress with
      | none => s.complete cmd .badArgument 0
      | some a => (s.holdInHand (.attach cmd a) none).issueRequest .attachRead a.consumerAddress (.read 4)

/-- The context of a target just attached (R124). -/
def attached (a : AttachArgs) : Target :=
  { state := .active, ringAddress := a.ringAddress, ringSize := a.ringSize, consumerAddress := a.consumerAddress
    produced := 0, consumed := 0, pollInterval := a.pollInterval, spaceWanted := false, pollTimer := .stopped
    signalAddress := a.signalAddress, signalData := a.signalData, armed := true, holdoff := a.holdoff
    holdoffTimer := .stopped, signalOwed := false, rearmCheckPending := false, detachPending := false, faultReason := .none }

/-- The answer of TARGET_ATTACH's read (R123). -/
def attachAnswer (answer : ReadAnswer) (s : State) : State :=
  match s.proc.hand with
  | some (.attach cmd a) =>
    match answer with
    | .done v =>
      if v = 0 then ((s.updTarget a.target fun _ => attached a).complete cmd .ok 0).handDone
      else (s.complete cmd .badArgument (result1 v.toNat)).handDone
    | .refused => (s.complete cmd .busError 0).handDone
  | _ => s

/-! ### TARGET_QUIESCE, TARGET_RESUME (R125) -/

/-- A target moves between ACTIVE and QUIESCED: hold timers pause or run on, space wanted is re-judged (R103, R125). -/
def moveTarget (t : TargetId) (st : TargetState) (s : State) : State :=
  ((s.updTarget t fun x => { x with state := st }).rejudgeHolds).rejudgeSpace t

/-- TARGET_QUIESCE or TARGET_RESUME, once taken: from one state to another, BAD_STATE from any other (R125). -/
def moveCommand (cmd : CmdId) (target : Byte) (source dest : TargetState) (s : State) : State :=
  match targetArg target with
  | none => s.complete cmd .badArgument 0
  | some t =>
    if (s.target t).state = source then (s.moveTarget t dest).complete cmd .ok 0
    else s.complete cmd .badState 0

/-! ### TARGET_READ, TARGET_DETACH, DRAIN (R126, R128, R130) -/

/-- TARGET_READ, once taken. -/
def targetReadCommand (cmd : CmdId) (target : Byte) (reply : Addr) (s : State) : State :=
  match targetArg target with
  | some t =>
    if replyArgOk reply then s.issueReply cmd (result1 (s.target t).produced.toNat) reply (targetReply s t)
    else s.complete cmd .badArgument 0
  | none => s.complete cmd .badArgument 0

/-- TARGET_DETACH, once taken (R126). -/
def detachCommand (cmd : CmdId) (target : Byte) (s : State) : State :=
  match targetArg target with
  | some t => s.judgeDeferrable cmd (.detach t)
  | none => s.complete cmd .badArgument 0

/-- DRAIN, once taken (R128). -/
def drainCommand (cmd : CmdId) (target : Byte) (timeout : Half) (s : State) : State :=
  match targetArg target with
  | some t => s.judgeDeferrable cmd (.drain t timeout)
  | none => s.complete cmd .badArgument 0

/-! ### Consumer-word answers (R116, R122) -/

/-- `v` is beyond the produced index but not beyond the end of the reservation of an assembly for this target (R116; log 18). -/
def earlyValue (s : State) (t : TargetId) (v : Word) : Bool :=
  match s.assembly with
  | some a => a.target == t && decide ((v - (s.target t).produced).toNat ≤ 1 + a.copies.length)
  | none => false

/-- After a valid or early answer: space wanted is re-judged, then a pending rearm check is made (R116, R122; log 31). -/
def consumedMoved (t : TargetId) (consumed : Word) (s : State) : State :=
  let u := (s.updTarget t fun x => { x with consumed := consumed }).rejudgeSpace t
  if (u.target t).rearmCheckPending then (u.updTarget t fun x => { x with rearmCheckPending := false }).rearmCheck t else u

/-- The answer of a consumer-word read, judged against the target's indices; discarded while the target is FAULTED (R116). -/
def consumerAnswer (t : TargetId) (answer : ReadAnswer) (s : State) : State :=
  if (s.target t).inService then
    match answer with
    | .done v =>
      if (v - (s.target t).consumed).toNat ≤ ((s.target t).produced - (s.target t).consumed).toNat then s.consumedMoved t v
      else if s.earlyValue t v then s.consumedMoved t (s.target t).produced
      else s.faultTarget t .badConsumer
    | .refused => s.faultTarget t .consumerRead
  else s

/-- A request of a target was answered: a pending detach may be carried out (R127), and free an entry (R144). -/
def afterTargetAnswer (t : TargetId) (s : State) : State := (s.tryDetach t).settleHand

/-- The issuer's part of a consumer-word answer. -/
def consumerHandler (answer : ReadAnswer) (who : Issuer) (s : State) : State :=
  match who with
  | .consumerRead t => (s.consumerAnswer t answer).afterTargetAnswer t
  | _ => s

/-! ### Signal answers (R120) -/

/-- The answer of a signal write. -/
def signalAnswer (t : TargetId) (answer : WriteAnswer) (s : State) : State :=
  match answer with
  | .done => s
  | .refused => s.faultTarget t .signalWrite

/-- The issuer's part of a signal write's answer. -/
def signalHandler (answer : WriteAnswer) (who : Issuer) (s : State) : State :=
  match who with
  | .signal t => (s.signalAnswer t answer).afterTargetAnswer t
  | _ => s

/-! ### Timers (R115, R120, R129) -/

/-- The poll timer expires (R115). -/
def pollExpires (t : TargetId) (s : State) : State :=
  if (s.target t).pollTimer = .running 0 then
    let u := s.updTarget t fun x =>
      { x with pollTimer := if x.spaceWanted then .start x.pollInterval.toNat else .stopped }
    if (s.target t).inService && !(s.target t).detachPending then u.issueConsumerRead t else u
  else s

/-- The holdoff timer expires (R120). -/
def holdoffExpires (t : TargetId) (s : State) : State :=
  if (s.target t).holdoffTimer = .running 0 then
    let u := s.updTarget t fun x => { x with holdoffTimer := .stopped }
    if (s.target t).signalOwed then u.issueSignal t else u
  else s

/-- A DRAIN's timer expires: TIMED_OUT with the number of enabled bundles not IDLE (R128, R129), then the FENCEs it held back, and the
command in hand that waits for an entry last (R144, R145; log 36). -/
def drainExpires (entry : Fin 4) (s : State) : State :=
  match s.proc.deferred[entry.val]? with
  | some ⟨cmd, .drain t _, .running 0⟩ =>
    (((s.updProc fun p => { p with deferred := p.deferred.eraseIdx entry.val }).pushCompletion
      ⟨cmd, .timedOut, result1 (s.notIdle t)⟩).sweepDeferred).settleHand
  | _ => s

/-! ### ATTENTION on targets (R121, R122) -/

/-- REFRESH on one target. -/
def refreshTarget (s : State) (t : TargetId) : State :=
  if (s.target t).inService && !(s.target t).detachPending then s.issueConsumerRead t else s

/-- REARM on one target, with or without REFRESH in the same write. -/
def rearmTarget (refresh : Bool) (s : State) (t : TargetId) : State :=
  if (s.target t).inService then
    let u := s.updTarget t fun x => { x with armed := true }
    if refresh then
      if (u.refreshTarget t).consumerReadInFlight t then
        (u.refreshTarget t).updTarget t fun x => { x with rearmCheckPending := true }
      else (u.refreshTarget t).rearmCheck t
    else u.rearmCheck t
  else s

end State

/-- TARGET_ATTACH (R123, R165). -/
def execTargetAttach (r : SlotRead) (pollInterval holdoff : Half) (descriptor : BitVec 64) (offset signalData : Word)
    (signalAddress : Addr) (s : State) : Result :=
  .next (s.commandAnswer r
    (State.attachCommand (cmdOf r 0x30) pollInterval holdoff descriptor offset signalData signalAddress))

/-- TARGET_DETACH (R126, R127). -/
def execTargetDetach (r : SlotRead) (target : Byte) (s : State) : Result :=
  .next (s.commandAnswer r (State.detachCommand (cmdOf r 0x31) target))

/-- TARGET_QUIESCE (R125). -/
def execTargetQuiesce (r : SlotRead) (target : Byte) (s : State) : Result :=
  .next (s.commandAnswer r (State.moveCommand (cmdOf r 0x32) target .active .quiesced))

/-- TARGET_RESUME (R125). -/
def execTargetResume (r : SlotRead) (target : Byte) (s : State) : Result :=
  .next (s.commandAnswer r (State.moveCommand (cmdOf r 0x33) target .quiesced .active))

/-- TARGET_READ (R130). -/
def execTargetRead (r : SlotRead) (target : Byte) (reply : Addr) (s : State) : Result :=
  .next (s.commandAnswer r (State.targetReadCommand (cmdOf r 0x34) target reply))

/-- DRAIN (R128). -/
def execDrain (r : SlotRead) (target : Byte) (timeout : Half) (s : State) : Result :=
  .next (s.commandAnswer r (State.drainCommand (cmdOf r 0x35) target timeout))

/-- TARGET_ATTACH_READ_ANSWER (R123, R124). -/
def execTargetAttachReadAnswer (req : Nat) (answer : ReadAnswer) (s : State) : Result :=
  .next (s.answer req (· == .attachRead) fun _ u => u.attachAnswer answer)

/-- CONSUMER_WORD_READ_ANSWER (R116). -/
def execConsumerWordReadAnswer (req : Nat) (answer : ReadAnswer) (s : State) : Result :=
  .next (s.answer req (fun who => allTargets.any fun t => who == .consumerRead t) (State.consumerHandler answer))

/-- SIGNAL_WRITE_ANSWER (R120). -/
def execSignalWriteAnswer (req : Nat) (answer : WriteAnswer) (s : State) : Result :=
  .next (s.answer req (fun who => allTargets.any fun t => who == .signal t) (State.signalHandler answer))

/-- POLL_TIMER_EXPIRY (R115). -/
def execPollTimerExpiry (t : TargetId) (s : State) : Result := .next (live (State.pollExpires t) s)

/-- HOLDOFF_TIMER_EXPIRY (R120). -/
def execHoldoffTimerExpiry (t : TargetId) (s : State) : Result := .next (live (State.holdoffExpires t) s)

/-- DRAIN_TIMER_EXPIRY (R129): the entry's place in the deferred table, oldest first. -/
def execDrainTimerExpiry (entry : Fin 4) (s : State) : Result := .next (live (State.drainExpires entry) s)

end Sys2Proof.Machine
end

