-- ==== Sys2Proof/Machine/CommandPath.lean ====
section
/-! DEFINITION. Sys2Proof/Machine/CommandPath.lean: the command processor: taking commands, answers, completions, FENCE, ABORT, ENABLE and CMD_RESTART (R133 to R149). -/
namespace Sys2Proof.Machine

namespace State

/-! ### Taking commands (R137, R138) -/

/-- A read of the completion consumer word, unless one is in flight (R138). -/
def issueCplRead (s : State) : State :=
  match s.proc.setup with
  | some su => if s.inFlight .completionConsumerRead then s else s.issueRequest .completionConsumerRead su.cplConsumer (.read 4)
  | none => s

def setProcState (st : ProcState) (s : State) : State := s.updProc fun p => { p with state := st }

/-- The processor takes a command: the read of the slot at the taken index, or, with no completion slot to reserve, WAITING and
a read of the completion consumer word (R137, R138). -/
def takeCommand (s : State) : State :=
  if s.wantsCommand then
    match s.proc.setup with
    | some su =>
      if s.canReserve then
        s.issueRequest .commandRead (slotAddress su.cmdRing su.cmdSize.toNat 32 s.proc.taken) (.read 32)
      else (s.setProcState (.waiting .completionSpace)).issueCplRead
    | none => s
  else s

/-- A command read was refused: a RUNNING processor halts, any other discards the answer (R137). -/
def commandRefused (s : State) : State := if s.proc.state = .running then s.halt .cmdRead else s

/-! ### Answers of the command path (R138, R140 to R142) -/

/-- The answer of a reply write (R140). -/
def replyAnswer (answer : WriteAnswer) (s : State) : State :=
  match s.proc.hand with
  | some (.reply cmd result) =>
    match answer with
    | .done => (s.complete cmd .ok result).handDone
    | .refused => (s.complete cmd .replyFailed 0).handDone
  | _ => s

/-- The completion signal of a completion whose record was answered DONE (R142). -/
def issueCplSignal (c : Completion) (s : State) : State :=
  match s.proc.setup with
  | some su =>
    if c.cmd.signal && su.cplSignal != 0 then
      s.issueRequest .completionSignal su.cplSignal (.write (leBytes 4 su.signalData.toNat))
    else s
  | none => s

/-- The answer of a completion write; then the next queued completion is written (R141). After a DONE the completion signal is issued
before the next completion write, which does not wait for it (R142): DESIGN CHOICE, the manual does not order the two (log 38). -/
def completionAnswer (answer : WriteAnswer) (s : State) : State :=
  match s.proc.completions with
  | [] => s
  | c :: rest =>
    match answer with
    | .done =>
      ((s.updProc fun p => { p with completions := rest, cplProduced := p.cplProduced + 1 }).issueCplSignal c).issueCompletion
    | .refused => ((s.updProc fun p => { p with completions := rest }).halt .cplWrite).issueCompletion

/-- The answer of a completion signal write (R142). -/
def cplSignalAnswer (answer : WriteAnswer) (s : State) : State :=
  match answer with
  | .done => s
  | .refused => s.halt .cplWrite

/-- After a valid or early answer a processor that waits for completion space judges again (R138). -/
def cplConsumedMoved (consumed : Word) (s : State) : State :=
  let u := s.updProc fun p => { p with cplConsumed := consumed }
  if u.proc.state = .waiting .completionSpace ∧ u.canReserve then (u.setProcState .running).takeCommand else u

/-- The answer of a completion consumer word read; discarded while HALTED (R138). -/
def cplConsumerAnswer (answer : ReadAnswer) (s : State) : State :=
  match s.proc.state with
  | .halted _ => s
  | .stopped | .running | .waiting _ =>
    match answer with
    | .done v =>
      if (v - s.proc.cplConsumed).toNat ≤ (s.proc.cplProduced - s.proc.cplConsumed).toNat then s.cplConsumedMoved v
      else if (v - s.proc.cplProduced).toNat ≤ s.outstanding .completionWrite then s.cplConsumedMoved s.proc.cplProduced
      else s.halt .badCplConsumer
    | .refused => s.halt .badCplConsumer

/-! ### The setup (R133) -/

/-- The setup read; an address that is not 8-byte aligned is judged invalid without a read (R133). -/
def issueSetupRead (s : State) : State :=
  if aligned 8 s.setupAddress then s.issueRequest .setupRead s.setupAddress (.read 48) else s.halt .badSetup

/-- A valid setup is loaded, and the stored CMD_PRODUCER checked (R133, R136, R148). -/
def loadSetup (b : SetupBlock) (s : State) : State :=
  let u := s.updProc fun p => { p with setup := some b }
  if producerOk b u.proc.producer u.proc.taken then
    match u.proc.state with
    | .halted _ => u
    | .stopped | .running | .waiting _ => u.setProcState (if u.enable then .running else .stopped)
  else u.halt .badProducer

/-- The answer of the setup read (R133). -/
def setupAnswer (answer : SetupAnswer) (s : State) : State :=
  match answer with
  | .done b => if setupValid b then s.loadSetup b else s.halt .badSetup
  | .refused => s.halt .setupRead

/-! ### ENABLE and CMD_RESTART (R148, R149) -/

/-- ENABLE takes a value; if it changes, the processor acts (R148, R154). -/
def setEnable (value : Bool) (s : State) : State :=
  let u := s.storeEnable value
  if value = s.enable then s
  else
    match value, s.proc.state with
    | true, .stopped =>
      if s.proc.setup.isSome then u.setProcState .running
      else if s.inFlight .setupRead || s.proc.restarting then u
      else u.issueSetupRead
    | false, .running => if s.proc.hand.isNone then u.setProcState .stopped else u
    | false, .waiting .completionSpace => u.setProcState .stopped
    | _, _ => u

/-- Steps 1 and 2 of a command-path restart (R149). Detach pending of the targets whose TARGET_DETACHes are dropped becomes no (R127),
target 0 first: DESIGN CHOICE, the manual gives no order among the targets (log 37). -/
def restart (s : State) : State :=
  let u := s.updProc fun p =>
    { p with
      state := .stopped, setup := none, producer := 0, taken := 0, hand := none, deferred := [], completions := []
      cplProduced := 0, cplConsumed := 0, restarting := true }
  allTargets.foldl (fun v t => v.rejudgeDetachPending t) u

/-- Step 4 of a restart, once no command-path request is outstanding (R149). -/
def restartDrained (s : State) : State :=
  if s.proc.restarting && !s.commandPathBusy then
    (s.updProc fun p => { p with restarting := false }).issueSetupRead
  else s

/-! ### CMD_PRODUCER and CPL_REFRESH (R136, R138) -/

/-- A write that passed its check: a processor that waits for completion space reads the completion consumer word; with no
command left to take, its cause has cleared (R135, R136; log 14). -/
def producerPassed (s : State) : State :=
  if s.proc.state = .waiting .completionSpace then
    let u := s.issueCplRead
    if u.proc.producer = u.proc.taken then u.setProcState .running else u
  else s

/-- A CMD_PRODUCER write: stored, and checked while a setup is held outside HALTED; one that leaves the value as it was has no
further effect (R136; log 32). -/
def producerWrite (value : Word) (s : State) : State :=
  let u := s.updProc fun p => { p with producer := value }
  match u.proc.state, u.proc.setup with
  | .halted _, _ => u
  | _, none => u
  | _, some su =>
    if !producerOk su value u.proc.taken then u.halt .badProducer
    else if value = s.proc.producer then u
    else u.producerPassed

/-- CPL_REFRESH: in any state but HALTED, with a setup held (R138). -/
def refreshCompletions (s : State) : State :=
  match s.proc.state with
  | .halted _ => s
  | .stopped | .running | .waiting _ => s.issueCplRead

/-! ### FENCE and ABORT (R145, R146) -/

/-- The oldest deferred command with a tag. -/
def deferredWithTag (s : State) (tag : Half) : Option Deferred := s.proc.deferred.find? fun d => d.cmd.tag == tag

/-- The oldest deferred command with the tag leaves the table as ABORTED, with what follows from its leaving (R127, R145, R146).
Space wanted of a detach's target is judged before the completions join the queue: DESIGN CHOICE (log 38). -/
def abortDeferred (d : Deferred) (tag : Half) (s : State) : State :=
  let u := s.updProc fun p => { p with deferred := p.deferred.eraseP fun d => d.cmd.tag == tag }
  let v := match d.what with
    | .detach t => u.rejudgeDetachPending t
    | .drain _ _ | .fence => u
  (v.pushCompletion ⟨d.cmd, .aborted, 0⟩).sweepDeferred

/-- ABORT, once taken (R146). -/
def abortCommand (cmd : CmdId) (tag : Half) (s : State) : State :=
  match s.deferredWithTag tag with
  | some d => (s.abortDeferred d tag).complete cmd .ok (result1 d.cmd.kind.toNat)
  | none => s.complete cmd .notFound 0

end State

/-- FENCE (R145). -/
def execFence (r : SlotRead) (s : State) : Result :=
  .next (s.commandAnswer r (State.judgeDeferrable (cmdOf r 0x40) .fence))

/-- ABORT (R146). -/
def execAbort (r : SlotRead) (tag : Half) (s : State) : Result :=
  .next (s.commandAnswer r (State.abortCommand (cmdOf r 0x41) tag))

/-- COMMAND_TAKE (R137, R138). -/
def execCommandTake (s : State) : Result := .next (live State.takeCommand s)

/-- COMMAND_READ_REFUSED (R137). -/
def execCommandReadRefused (req : Nat) (s : State) : Result :=
  .next (s.answer req (· == .commandRead) fun _ u => u.commandRefused)

/-- REPLY_WRITE_ANSWER (R34, R70, R130, R140). -/
def execReplyWriteAnswer (req : Nat) (answer : WriteAnswer) (s : State) : Result :=
  .next (s.answer req (· == .replyWrite) fun _ u => u.replyAnswer answer)

/-- COMPLETION_WRITE_ANSWER (R141). -/
def execCompletionWriteAnswer (req : Nat) (answer : WriteAnswer) (s : State) : Result :=
  .next (s.answer req (· == .completionWrite) fun _ u => u.completionAnswer answer)

/-- COMPLETION_SIGNAL_ANSWER (R142). -/
def execCompletionSignalAnswer (req : Nat) (answer : WriteAnswer) (s : State) : Result :=
  .next (s.answer req (· == .completionSignal) fun _ u => u.cplSignalAnswer answer)

/-- COMPLETION_CONSUMER_READ_ANSWER (R138). -/
def execCompletionConsumerReadAnswer (req : Nat) (answer : ReadAnswer) (s : State) : Result :=
  .next (s.answer req (· == .completionConsumerRead) fun _ u => u.cplConsumerAnswer answer)

/-- SETUP_READ_ANSWER (R133). -/
def execSetupReadAnswer (req : Nat) (answer : SetupAnswer) (s : State) : Result :=
  .next (s.answer req (· == .setupRead) fun _ u => u.setupAnswer answer)

/-- ENABLE (R148): the ENABLE field's part of a CONTROL write (log 17). -/
def execEnable (value : Bool) (s : State) : Result := .next (live (State.setEnable value) s)

/-- CMD_RESTART (R149). -/
def execCmdRestart (s : State) : Result := .next (live State.restart s)

/-- RESTART_DRAIN_COMPLETE (R149, step 4). -/
def execRestartDrainComplete (s : State) : Result := .next (live State.restartDrained s)

/-- CMD_PRODUCER (R136). -/
def execCmdProducer (value : Word) (s : State) : Result := .next (live (State.producerWrite value) s)

/-- CPL_REFRESH (R138). -/
def execCplRefresh (s : State) : Result := .next (live State.refreshCompletions s)

end Sys2Proof.Machine
end

