-- ==== Sys2Proof/Machine/Holds.lean ====
section
/-! DEFINITION. Sys2Proof/Machine/Holds.lean: the hold timer and the ACK_PORT register (R97, R104). -/
namespace Sys2Proof.Machine

namespace State

/-- A hold timer that has run its full period: a reminder falls due, or the hold is forcibly released and source 210 meets its
occurrence (R104). The DRAINs are judged with the release (log 11); the command in hand that waits for an entry is judged again last,
after source 210's occurrence (R144): DESIGN CHOICE, the manual gives no order of the two (log 36). -/
def holdExpires (b : BundleId) (s : State) : State :=
  if (s.run b).state = .held ∧ (s.run b).holdTimer = .running 0 then
    if (s.run b).remindersPosted < (s.config b).reminderLimit then
      (s.updRun b fun x => { x with holdTimer := .stopped, reminderDue := true }).rejudgeSpaceOf b
    else ((s.release b).accept Config.holdLapsed (sourceDetail b.val)).settleHand
  else s

/-- STATUS's stale count grows by one and saturates at 255 (R97). -/
def countStale (s : State) : State := s.setStale (min (s.staleCount + 1) Config.staleLimit)

/-- An ACK_PORT write: the acknowledge releases the hold, or is stale, or names no bundle (R96, R97). The command in hand that waits
for an entry is judged again last (R144; log 36). -/
def ackPortWrite (bundle : Byte) (token : Half) (s : State) : State :=
  match bundleArg bundle with
  | none => s.countStale
  | some b =>
    if (s.run b).state = .held ∧ token = (s.run b).token then (s.release b).settleHand
    else (s.staleAck b).countStale

end State

/-- HOLD_TIMER_EXPIRY (R104). -/
def execHoldTimerExpiry (b : BundleId) (s : State) : Result := .next (live (State.holdExpires b) s)

/-- ACK_PORT (R97). -/
def execAckPort (bundle : Byte) (token : Half) (s : State) : Result := .next (live (State.ackPortWrite bundle token) s)

end Sys2Proof.Machine
end

