-- ==== Sys2Proof/Machine/Registers.lean ====
section
/-! DEFINITION. Sys2Proof/Machine/Registers.lean: the register window (R153 to R157, R161) and the beginning of a device reset (R158). -/
namespace Sys2Proof.Machine

namespace State

/-- A device reset begins (R158): RESETTING becomes yes. From here on no work starts and no timer but the timebase runs; one
that is in progress goes on. -/
def beginReset (s : State) : State := { s with resetting := true }

/-- STATUS's stale count becomes 0 (R156). -/
def clearStale (s : State) : State := s.setStale 0

/-! ### ATTENTION (R121) -/

/-- The targets that an ATTENTION target field names: one, all six for 0xF, none for 6 to 14. The manual takes the six "separately"
and gives them no order: target 0 is served first (DESIGN CHOICE, log 35). -/
def attentionTargets (code : BitVec 4) : List TargetId :=
  if h : code.toNat < 6 then [⟨code.toNat, h⟩] else if code = 0xF#4 then allTargets else []

/-- REFRESH on the named targets. -/
def attentionRefresh (code : BitVec 4) (s : State) : State := (attentionTargets code).foldl refreshTarget s

/-- REARM on the named targets, with or without REFRESH. -/
def attentionRearm (code : BitVec 4) (refresh : Bool) (s : State) : State := (attentionTargets code).foldl (rearmTarget refresh) s

/-- A whole ATTENTION write: target in bits 3 to 0, REFRESH in bit 8, REARM in bit 9, CPL_REFRESH in bit 10, which acts last
(DESIGN CHOICE, log 35). -/
def attentionWrite (value : Word) (s : State) : State :=
  let code := value.setWidth 4
  let u :=
    if value.getLsbD 9 then s.attentionRearm code (value.getLsbD 8)
    else if value.getLsbD 8 then s.attentionRefresh code
    else s
  if value.getLsbD 10 then u.refreshCompletions else u

/-! ### CONTROL (R154) -/

/-- A whole CONTROL write outside a device reset: DEVICE_RESET alone, or CLEAR_COUNTS, then ENABLE, then CMD_RESTART. -/
def controlWrite (value : Word) (s : State) : State :=
  if value.getLsbD 1 then s.beginReset
  else
    let u := if value.getLsbD 3 then s.clearStale else s
    let v := u.setEnable (value.getLsbD 0)
    if value.getLsbD 2 then v.restart else v

/-! ### Writes and reads of the window (R153, R157, R161) -/

/-- A host write of the window: 32 bits at the offset of a register that can be written, anything else is ignored. -/
def windowWrite (offset bits : Nat) (value : Word) (s : State) : State :=
  if bits ≠ 32 then s
  else if offset = 0x04 then s.controlWrite value
  else if offset = 0x0C then { s with setupAddrLo := value }
  else if offset = 0x10 then { s with setupAddrHi := value }
  else if offset = 0x14 then s.producerWrite value
  else if offset = 0x18 then s.attentionWrite value
  else if offset = 0x1C then s.ackPortWrite (value.extractLsb' 16 8) (value.setWidth 16)
  else s

/-- A host read of the window (R153, R161). No row of the table is a read; it changes no state (log 25). -/
def windowRead (s : State) (offset bits : Nat) : Word :=
  if bits ≠ 32 then 0
  else if offset = 0x00 then Config.ident
  else if offset = 0x08 then s.statusWord
  else if s.resetting then 0
  else if offset = 0x04 then (if s.enable then 1 else 0)
  else if offset = 0x0C then s.setupAddrLo
  else if offset = 0x10 then s.setupAddrHi
  else if offset = 0x14 then s.proc.producer
  else 0

end State

/-- DEVICE_RESET (R154, R158). -/
def execDeviceReset (s : State) : Result := .next s.beginReset

/-- LINK_LOSS (R162). -/
def execLinkLoss (s : State) : Result := .next s.beginReset

/-- CLEAR_COUNTS (R156). -/
def execClearCounts (s : State) : Result := .next (live State.clearStale s)

/-- ATTENTION_REFRESH (R121). -/
def execAttentionRefresh (code : BitVec 4) (s : State) : Result := .next (live (State.attentionRefresh code) s)

/-- ATTENTION_REARM (R122). -/
def execAttentionRearm (code : BitVec 4) (refresh : Bool) (s : State) : Result :=
  .next (live (State.attentionRearm code refresh) s)

/-- REGISTER_WRITE (R153, R154, R157): a whole host write of the window (log 17). -/
def execRegisterWrite (offset bits : Nat) (value : Word) (s : State) : Result :=
  .next (live (State.windowWrite offset bits value) s)

end Sys2Proof.Machine
end

