-- ==== Sys2Proof/Machine/HostLink.lean ====
section
/-! DEFINITION. Sys2Proof/Machine/HostLink.lean: resets (R159, R160, R163) and requests without an answer in time (R151, R152). -/
namespace Sys2Proof.Machine

namespace State

/-- Every block at its power-on and device-reset values, RESETTING no (R160). The timebase keeps its value, each qualified level
is loaded from its sampled level (R6), and the model's own fields keep theirs (log 8, log 20). -/
def resetBlocks (s : State) : State :=
  { State.reset with
    pending := s.pending
    timebase := s.timebase
    lines := s.lines.map fun x => ⟨x.sampled, x.sampled, .stable⟩
    nextRequest := s.nextRequest
    choices := s.choices }

/-- The reset, a power-on reset too, ends when no request record remains (R159, R160, R163). -/
def resetEnds (s : State) : State := if s.resetting && s.requests.isEmpty then s.resetBlocks else s

/-- Power-on begins a device reset with RESETTING yes, nothing outstanding and the timebase at 0, which RESET_END then ends (R163). The
supply was away, so that every block begins at its reset values (log 20). -/
def powerUp (s : State) : State := { s.resetBlocks with timebase := 0, resetting := true }

/-- The issuer's part of a request that counts as REFUSED because it timed out (R151, R152). -/
def timedOut (who : Issuer) (s : State) : State :=
  match who with
  | .assembly => s.abortAssembly
  | .consumerRead t => (s.consumerAnswer t .refused).afterTargetAnswer t
  | .signal t => (s.signalAnswer t .refused).afterTargetAnswer t
  | .commandRead => s.commandRefused
  | .replyWrite => s.replyAnswer .refused
  | .attachRead => s.attachAnswer .refused
  | .completionWrite => s.completionAnswer .refused
  | .completionSignal => s.cplSignalAnswer .refused
  | .completionConsumerRead => s.cplConsumerAnswer .refused
  | .setupRead => s.setupAnswer .refused

/-- The 2 ms of request `id` have run (R151). -/
def requestDue (s : State) (id : Nat) : Bool :=
  match s.requestOf id with
  | some r => r.timeout == 0
  | none => false

end State

/-- RESET_END (R160). -/
def execResetEnd (s : State) : Result := .next s.resetEnds

/-- POWER_ON (R163): the beginning of the power-on reset. -/
def execPowerOn (s : State) : Result := .next s.powerUp

/-- DRAINED_ANSWER_DISCARD (R159): during a device reset an answer ends its request and reaches nobody. -/
def execDrainedAnswerDiscard (req : Nat) (s : State) : Result := .next (if s.resetting then s.endRequest req else s)

/-- HOST_REQUEST_TIMEOUT (R151, R152). -/
def execHostRequestTimeout (req : Nat) (s : State) : Result :=
  .next (if s.requestDue req then s.answer req (fun _ => true) State.timedOut else s)

/-- LATE_ANSWER_DISCARD (R152): an answer that finds no record is handed to nobody and changes nothing. -/
def execLateAnswerDiscard (_req : Nat) (s : State) : Result := .next s

end Sys2Proof.Machine
end

