-- ==== Sys2Proof/Machine/Lines.lean ====
section
/-! DEFINITION. Sys2Proof/Machine/Lines.lean: the field lines, the timebase and the passing of a microsecond (R6 to R9, R14, R16, R158). -/
namespace Sys2Proof.Machine

/-! ### A microsecond passes -/

/-- A remaining time after one µs; at 0 the timer is due (log 4). -/
def Timer.tick : Timer → Timer
  | .stopped => .stopped
  | .running r => .running (r - 1)

/-- A PAUSED hold timer keeps its remaining time (R102). -/
def HoldTimer.tick : HoldTimer → HoldTimer
  | .stopped => .stopped
  | .running r => .running (r - 1)
  | .paused r => .paused r

def Qualification.tick : Qualification → Qualification
  | .stable => .stable
  | .qualifying r => .qualifying (r - 1)

/-- An interval counter after one µs: it advances while the entry is enabled, up to its ceiling (R14). -/
def tickInterval (e : RouteEntry) (x : Word) : Word := if e.enabled ∧ x ≠ Config.intervalMax then x + 1 else x

namespace State

/-- The timers that a device reset stops (R158, step 3). -/
def tickTimers (s : State) : State :=
  { s with
    lines := s.lines.map fun x => { x with qualification := x.qualification.tick }
    intervals := Vector.zipWith tickInterval s.routes s.intervals
    bundleRun := s.bundleRun.map fun x => { x with holdTimer := x.holdTimer.tick }
    targets := s.targets.map fun x => { x with pollTimer := x.pollTimer.tick, holdoffTimer := x.holdoffTimer.tick }
    proc := { s.proc with deferred := s.proc.deferred.map fun d => { d with timer := d.timer.tick } } }

/-- One µs passes: the timebase counts on, wrapping from its greatest value to 0 (R16), the requests come nearer to their
timeout (R151), and outside a device reset every other timer runs (R158). -/
def elapse (s : State) : State :=
  { live tickTimers s with
    timebase := s.timebase + 1
    requests := s.requests.map fun r => { r with timeout := r.timeout - 1 } }

/-- A change of the sampled level outside a device reset (R7, R9). -/
def lineMoved (l : LineId) (s : State) : State :=
  let x := s.line l
  match x.qualification with
  | .stable =>
    if x.sampled = x.qualified then s
    else if (s.route (sourceOfLine l)).filter = 0 then s.qualify l
    else s.setLine l { x with qualification := .qualifying (s.route (sourceOfLine l)).filter.toNat }
  | .qualifying _ =>
    let u := s.setLine l { x with qualification := .stable }
    if (s.route (sourceOfLine l)).enabled then u.accept Config.lineChatter (sourceDetail l.val) else u

/-- A qualification whose full period has run expires (R8). -/
def qualificationExpires (l : LineId) (s : State) : State :=
  if (s.line l).qualification = .qualifying 0 then s.qualify l else s

end State

/-- SAMPLED_LEVEL_CHANGE (R7, R9). During a device reset the sampled level follows the pin and nothing else happens (R6). -/
def execSampledLevelChange (l : LineId) (s : State) : Result :=
  .next (live (State.lineMoved l) (s.setLine l { s.line l with sampled := (s.line l).sampled.other }))

/-- QUALIFICATION_EXPIRY (R8). -/
def execQualificationExpiry (l : LineId) (s : State) : Result := .next (live (State.qualificationExpires l) s)

/-- TIMEBASE_WRAP (R16): the µs that takes the timebase from its greatest value to 0; the part counts on (log 28). -/
def execTimebaseWrap (s : State) : Result :=
  .next (if s.timebase.toNat = Config.timebaseMax then s.elapse else s)

end Sys2Proof.Machine
end

