-- ==== Sys2Proof/Machine/Dispatch.lean ====
section
/-! DEFINITION. Sys2Proof/Machine/Dispatch.lean: one arm per row of spec/opcode_table.json. -/
namespace Sys2Proof.Machine

/-- The effect of a command on everything but the queue. -/
def exec (i : Instr) (s : State) : Host.Outcome State Fault Refusal :=
      match i with
      -- line front end and timebase (01)
      | .sampledLevelChange l => Sys2Proof.Machine.execSampledLevelChange l s
      | .qualificationExpiry l => Sys2Proof.Machine.execQualificationExpiry l s
      | .timebaseWrap => Sys2Proof.Machine.execTimebaseWrap s
      -- commands of the command ring (08, command slot table of 10)
      | .nop r => Sys2Proof.Machine.execNop r s
      | .badKind r kind => Sys2Proof.Machine.execBadKind r kind s
      | .raise r source count has arg => Sys2Proof.Machine.execRaise r source count has arg s
      | .timeSet r v => Sys2Proof.Machine.execTimeSet r v s
      | .timeRead r => Sys2Proof.Machine.execTimeRead r s
      | .routeSet r source en trig filter bun rank disc => Sys2Proof.Machine.execRouteSet r source en trig filter bun rank disc s
      | .routeRead r source reply => Sys2Proof.Machine.execRouteRead r source reply s
      | .sourceClear r source => Sys2Proof.Machine.execSourceClear r source s
      | .tallyReset r source => Sys2Proof.Machine.execTallyReset r source s
      | .bundleSet r bun en tgt mode sweep urg hold lim tmo => Sys2Proof.Machine.execBundleSet r bun en tgt mode sweep urg hold lim tmo s
      | .bundleRead r bun capacity reply => Sys2Proof.Machine.execBundleRead r bun capacity reply s
      | .bundleFlush r bun => Sys2Proof.Machine.execBundleFlush r bun s
      | .ack r bun token => Sys2Proof.Machine.execAck r bun token s
      | .targetAttach r poll holdoff desc off data addr => Sys2Proof.Machine.execTargetAttach r poll holdoff desc off data addr s
      | .targetDetach r tgt => Sys2Proof.Machine.execTargetDetach r tgt s
      | .targetQuiesce r tgt => Sys2Proof.Machine.execTargetQuiesce r tgt s
      | .targetResume r tgt => Sys2Proof.Machine.execTargetResume r tgt s
      | .targetRead r tgt reply => Sys2Proof.Machine.execTargetRead r tgt reply s
      | .drain r tgt timeout => Sys2Proof.Machine.execDrain r tgt timeout s
      | .fence r => Sys2Proof.Machine.execFence r s
      | .abort r tag => Sys2Proof.Machine.execAbort r tag s
      -- command path (08)
      | .commandTake => Sys2Proof.Machine.execCommandTake s
      | .commandReadRefused req => Sys2Proof.Machine.execCommandReadRefused req s
      | .replyWriteAnswer req ans => Sys2Proof.Machine.execReplyWriteAnswer req ans s
      | .targetAttachReadAnswer req ans => Sys2Proof.Machine.execTargetAttachReadAnswer req ans s
      | .drainTimerExpiry entry => Sys2Proof.Machine.execDrainTimerExpiry entry s
      | .completionWriteAnswer req ans => Sys2Proof.Machine.execCompletionWriteAnswer req ans s
      | .completionSignalAnswer req ans => Sys2Proof.Machine.execCompletionSignalAnswer req ans s
      | .completionConsumerReadAnswer req ans => Sys2Proof.Machine.execCompletionConsumerReadAnswer req ans s
      | .setupReadAnswer req ans => Sys2Proof.Machine.execSetupReadAnswer req ans s
      -- register window (09)
      | .enable v => Sys2Proof.Machine.execEnable v s
      | .deviceReset => Sys2Proof.Machine.execDeviceReset s
      | .cmdRestart => Sys2Proof.Machine.execCmdRestart s
      | .restartDrainComplete => Sys2Proof.Machine.execRestartDrainComplete s
      | .clearCounts => Sys2Proof.Machine.execClearCounts s
      | .cmdProducer v => Sys2Proof.Machine.execCmdProducer v s
      | .attentionRefresh tgt => Sys2Proof.Machine.execAttentionRefresh tgt s
      | .attentionRearm tgt refresh => Sys2Proof.Machine.execAttentionRearm tgt refresh s
      | .cplRefresh => Sys2Proof.Machine.execCplRefresh s
      | .ackPort bun token => Sys2Proof.Machine.execAckPort bun token s
      | .registerWrite off bits v => Sys2Proof.Machine.execRegisterWrite off bits v s
      -- resets and requests (09)
      | .linkLoss => Sys2Proof.Machine.execLinkLoss s
      | .powerOn => Sys2Proof.Machine.execPowerOn s
      | .resetEnd => Sys2Proof.Machine.execResetEnd s
      | .drainedAnswerDiscard req => Sys2Proof.Machine.execDrainedAnswerDiscard req s
      | .hostRequestTimeout req => Sys2Proof.Machine.execHostRequestTimeout req s
      | .lateAnswerDiscard req => Sys2Proof.Machine.execLateAnswerDiscard req s
      -- assembler (05)
      | .eventAssemblyStart => Sys2Proof.Machine.execEventAssemblyStart s
      | .reminderAssemblyStart => Sys2Proof.Machine.execReminderAssemblyStart s
      | .firstWriteIssue => Sys2Proof.Machine.execFirstWriteIssue s
      | .entryWriteDone req => Sys2Proof.Machine.execEntryWriteDone req s
      | .commit req => Sys2Proof.Machine.execCommit req s
      | .assemblyAbort req => Sys2Proof.Machine.execAssemblyAbort req s
      -- bundle controller and target unit (06, 07)
      | .holdTimerExpiry bun => Sys2Proof.Machine.execHoldTimerExpiry bun s
      | .consumerWordReadAnswer req ans => Sys2Proof.Machine.execConsumerWordReadAnswer req ans s
      | .pollTimerExpiry tgt => Sys2Proof.Machine.execPollTimerExpiry tgt s
      | .holdoffTimerExpiry tgt => Sys2Proof.Machine.execHoldoffTimerExpiry tgt s
      | .signalWriteAnswer req ans => Sys2Proof.Machine.execSignalWriteAnswer req ans s

end Sys2Proof.Machine
end

