-- ==== Sys2Proof/Machine/Scheduler.lean ====
section
/-! DEFINITION. Sys2Proof/Machine/Scheduler.lean: what the part does of itself when no command waits (log 2): the steps whose
moment has come, and otherwise the passing of a microsecond. -/
namespace Sys2Proof.Machine
namespace State

/-! ### The part's own work -/

/-- Requests whose 2 ms have run (R151). -/
def dueTimeouts (s : State) : List Instr := (s.requests.filter fun r => r.timeout == 0).map fun r => .hostRequestTimeout r.id

/-- Qualifications whose full period has run (R8). -/
def dueQualifications (s : State) : List Instr :=
  ((allLines.zip s.lines.toList).filter fun p => p.2.qualification == .qualifying 0).map fun p => .qualificationExpiry p.1

/-- Hold timers that have run (R104). -/
def dueHolds (s : State) : List Instr :=
  ((allBundles.zip s.bundleRun.toList).filter fun p => p.2.state == .held && p.2.holdTimer == .running 0).map fun p =>
    .holdTimerExpiry p.1

/-- Poll timers that have run (R115). -/
def duePolls (s : State) : List Instr :=
  ((allTargets.zip s.targets.toList).filter fun p => p.2.pollTimer == .running 0).map fun p => .pollTimerExpiry p.1

/-- Holdoff timers that have run (R120). -/
def dueHoldoffs (s : State) : List Instr :=
  ((allTargets.zip s.targets.toList).filter fun p => p.2.holdoffTimer == .running 0).map fun p => .holdoffTimerExpiry p.1

/-- DRAINs whose timer has run (R129). -/
def dueDrains (s : State) : List Instr :=
  (([0, 1, 2, 3] : List (Fin 4)).filter fun e =>
    match s.proc.deferred[e.val]? with
    | some ⟨_, .drain _ _, .running 0⟩ => true
    | _ => false).map fun e => .drainTimerExpiry e

/-- The command processor takes a command when it can (R137), but does not enter WAITING twice: it is then not RUNNING. -/
def dueTake (s : State) : List Instr := if s.wantsCommand then [.commandTake] else []

/-- The assembler chooses whenever it is free and a bundle is eligible (R75). -/
def dueStart (s : State) : List Instr :=
  match s.chosen with
  | some b => if (s.run b).state = .ready then [.eventAssemblyStart] else [.reminderAssemblyStart]
  | none => []

/-- The first write of an assembly that has issued none (R82). -/
def dueFirstWrite (s : State) : List Instr :=
  if s.assembly.isSome && !s.inFlight .assembly then [.firstWriteIssue] else []

/-- The last request of a restart has ended (R149). -/
def dueRestart (s : State) : List Instr := if s.proc.restarting && !s.commandPathBusy then [.restartDrainComplete] else []

/-- The steps of the part whose moment has come. During a device reset: the timeouts of the drain, then its end (R158, R159). -/
def ownWork (s : State) : List Instr :=
  if s.resetting then s.dueTimeouts ++ (if s.requests.isEmpty then [.resetEnd] else [])
  else
    s.dueTimeouts ++ s.dueQualifications ++ s.dueHolds ++ s.duePolls ++ s.dueHoldoffs ++ s.dueDrains ++ s.dueRestart ++
      s.dueTake ++ s.dueStart ++ s.dueFirstWrite

/-! ### The order of own work, which the manual leaves open -/

/-- Puts a piece of work among others by its sort key. -/
def insertWork (k : Nat) (w : Instr) : List (Nat × Instr) → List (Nat × Instr)
  | [] => [(k, w)]
  | p :: ps => if k ≤ p.1 then (k, w) :: p :: ps else p :: insertWork k w ps

/-- Work that comes up together, in an order that free values choose; `c` is the first unused choice (log 3). -/
def arrangeKeyed : Nat → List Instr → List (Nat × Instr)
  | _, [] => []
  | c, w :: ws => insertWork (Config.freeOrder c) w (arrangeKeyed (c + 1) ws)

/-- The work in the order in which the part takes it. -/
def arranged (c : Nat) (work : List Instr) : List Instr := (arrangeKeyed c work).map fun p => p.2

/-- What a step does on an empty queue: the part's own work comes up and joins the queue, or, with none due, a µs passes
(log 2). -/
def idle (s : State) : State :=
  if s.ownWork.isEmpty then s.elapse
  else { s with pending := arranged s.choices s.ownWork, choices := s.choices + s.ownWork.length }

end State
end Sys2Proof.Machine
end

