-- ==== Sys2Proof/Safety.lean ====
section
/-! DEFINITION. Sys2Proof/Safety.lean: the words in which claims about the block are stated: the groups of state that a frame
names, the moment at which an answer or a command reaches its issuer, and the invariants. -/
namespace Sys2Proof.Machine

namespace State

/-! ### Groups of state, for frames -/

/-- The field side: timebase, lines and route table (01, 02). -/
def fieldSide (s : State) : Time × Vector Line 192 × Vector RouteEntry 216 := (s.timebase, s.lines, s.routes)

/-- What the accounting unit keeps for each source, and the interval counters (01, 03). -/
def accounts (s : State) : Vector Word 216 × Vector (Option PendingRecord) 216 × Vector Tallies 216 :=
  (s.intervals, s.records, s.tallies)

/-- The 48 bundle contexts (04). -/
def bundles (s : State) : Vector BundleConfig 48 × Vector BundleRun 48 := (s.bundleConfig, s.bundleRun)

/-- The assembler (05). -/
def assembler (s : State) : Option Assembly × BundleId := (s.assembly, s.roundRobin)

/-- What the host link interface keeps for the register window (09). -/
def window (s : State) : Bool × Word × Word × Nat × Bool := (s.enable, s.setupAddrLo, s.setupAddrHi, s.staleCount, s.resetting)

/-- The model's own fields that no row but POWER_ON and RESET_END could touch: the queue and the choices used up. -/
def own (s : State) : List Instr × Nat := (s.pending, s.choices)

end State

/-- Only the command path and the requests may differ. -/
def OnlyCommandPath (s t : State) : Prop :=
  t.fieldSide = s.fieldSide ∧ t.accounts = s.accounts ∧ t.bundles = s.bundles ∧ t.assembler = s.assembler ∧
    t.targets = s.targets ∧ t.window = s.window ∧ t.own = s.own

/-! ### Answers and commands -/

/-- Request `id` is outstanding for `who`, and its answer is not discarded: no device reset, no restart of the command path
whose request it is (R149, R151, R159). -/
def Awaits (s : State) (id : Nat) (who : Issuer) : Prop :=
  (s.requestOf id).map (fun r => r.issuer) = some who ∧ s.resetting = false ∧
    (who.commandPath = true → s.proc.restarting = false)

/-- The command read that a command of the command ring is the DONE answer of (R137; log 16): the twenty command kinds and
BAD_KIND. -/
def slotReadOf : Instr → Option SlotRead
  | .nop r | .badKind r _ | .raise r _ _ _ _ | .timeSet r _ | .timeRead r | .routeSet r _ _ _ _ _ _ _ | .routeRead r _ _
  | .sourceClear r _ | .tallyReset r _ | .bundleSet r _ _ _ _ _ _ _ _ _ | .bundleRead r _ _ _ | .bundleFlush r _ | .ack r _ _
  | .targetAttach r _ _ _ _ _ _ | .targetDetach r _ | .targetQuiesce r _ | .targetResume r _ | .targetRead r _ _ | .drain r _ _
  | .fence r | .abort r _ => some r
  | _ => none

/-- Every answer to request `id`, whose issuer is `who`, ends the request and does nothing else. -/
def OnlyEnds (s : State) (id : Nat) (who : Issuer) : Prop :=
  let ended : Host.Outcome State Fault Refusal := .next (s.endRequest id)
  match who with
  | .assembly =>
    exec (.assemblyAbort id) s = ended ∧ (s.atHeader = true → exec (.commit id) s = ended) ∧
      (s.atHeader = false → exec (.entryWriteDone id) s = ended)
  | .consumerRead _ => ∀ v, exec (.consumerWordReadAnswer id v) s = ended
  | .signal _ => ∀ v, exec (.signalWriteAnswer id v) s = ended
  | .commandRead =>
    exec (.commandReadRefused id) s = ended ∧ ∀ i r, slotReadOf i = some r → r.req = id → exec i s = ended
  | .replyWrite => ∀ v, exec (.replyWriteAnswer id v) s = ended
  | .attachRead => ∀ v, exec (.targetAttachReadAnswer id v) s = ended
  | .completionWrite => ∀ v, exec (.completionWriteAnswer id v) s = ended
  | .completionSignal => ∀ v, exec (.completionSignalAnswer id v) s = ended
  | .completionConsumerRead => ∀ v, exec (.completionConsumerReadAnswer id v) s = ended
  | .setupRead => ∀ v, exec (.setupReadAnswer id v) s = ended

/-- The processor takes the command that the answer `r` brings: it is RUNNING and its command read is answered (R137). -/
def Takes (s : State) (r : SlotRead) : Prop := Awaits s r.req .commandRead ∧ s.proc.state = .running

/-- `s` with the command just taken: the read has ended and the taken index has advanced (R137). -/
def State.taken (s : State) (r : SlotRead) : State :=
  (s.endRequest r.req).updProc fun p => { p with taken := p.taken + 1 }

/-- The processor has taken the command and decided its completion, the last of the queue; the rest of the processor is as it
was (R137, R141). -/
def Completes (s t : State) (c : Completion) : Prop :=
  t.proc = { s.proc with taken := s.proc.taken + 1, completions := s.proc.completions ++ [c] }

/-- The processor has taken the command and decided its completion, after those of the deferred commands that its effect ended
(R137, R141, R145). The manual gives this place for ABORT (R146); for the other commands it is DEDUCED (log 39). -/
def CompletesLast (s t : State) (c : Completion) : Prop :=
  t.proc.taken = s.proc.taken + 1 ∧ ∃ ended, t.proc.completions = s.proc.completions ++ ended ++ [c]

/-- A bundle may have changed its state and nothing else of its context. -/
def OnlyStates (s t : State) : Prop :=
  t.bundleConfig = s.bundleConfig ∧ ∀ b, { t.run b with state := (s.run b).state } = s.run b

/-- Beyond the requests of `s` other than `id`, which are all still outstanding, only requests of `who` were issued. -/
def Issues (s t : State) (id : Nat) (who : List Issuer) : Prop :=
  ∃ new, t.requests = (s.requests.filter fun r => r.id != id) ++ new ∧ ∀ r ∈ new, r.issuer ∈ who

/-! ### Invariants -/

/-- The balance of every source (R46). -/
def Balanced (s : State) : Prop :=
  ∀ n, (s.tally n).accepted =
    (s.tally n).reported + (s.tally n).cleared + (s.tally n).lost + BitVec.ofNat 32 (s.pendingCount n) +
      BitVec.ofNat 32 (s.inFlightCount n)

/-- A READY bundle has a record in its list, and the list of an IDLE bundle is empty (R54). -/
def ListsInStep (s : State) : Prop :=
  ∀ b, ((s.run b).state = .ready → s.pendingList b ≠ []) ∧ ((s.run b).state = .idle → s.pendingList b = [])

/-- The bundle that an EVENT assembly in flight was chosen for. -/
def State.eventBundle (s : State) : Option BundleId :=
  match s.assembly with
  | some a => if a.kind = .event then some a.bundle else none
  | none => none

/-- The fields that describe a hold have their reset values outside HELD (R52), and the token of a HELD bundle is not 0 (R96). -/
def BundleRun.HoldFields (x : BundleRun) : Prop :=
  (x.state ≠ .held → x.remindersPosted = 0 ∧ x.reminderDue = false ∧ x.holdTimer = .stopped) ∧ (x.state = .held → x.token ≠ 0)

/-- The held set is non-empty in HELD and empty in every other state, and so are the other fields of a hold (R52); a bundle is
ASSEMBLING exactly while an EVENT assembly of it is in flight (R54), whose token is not 0 (R62). -/
def HoldsInStep (s : State) : Prop :=
  (∀ b, ((s.run b).state = .held ↔ (s.run b).heldSet ≠ []) ∧ ((s.run b).state = .assembling ↔ s.eventBundle = some b) ∧
    (s.run b).HoldFields) ∧
  ∀ a, s.assembly = some a → a.kind = .event → a.token ≠ 0

/-- How the bundles stand: OFF exactly while enabled is OFF (R51, R54); HELD only on a target that is not DETACHED (R95); a hold timer
that is not STOPPED PAUSED exactly while its bundle is not urgent and its target QUIESCED (R103); and an EVENT assembly in flight on its
bundle's target, which no BUNDLE_SET changes before its end (R66, R67). -/
def BundlesStand (s : State) : Prop :=
  (∀ b, (s.run b).state = .off ↔ (s.config b).enabled = false) ∧
  (∀ b, (s.run b).state = .held → ∃ k, (s.config b).target = some k ∧ (s.target k).state ≠ .detached) ∧
  (∀ b,
    let pauses := (s.config b).urgent = false ∧ ∃ k, (s.config b).target = some k ∧ (s.target k).state = .quiesced
    ((∃ left, (s.run b).holdTimer = .paused left) → pauses) ∧ ((∃ left, (s.run b).holdTimer = .running left) → ¬ pauses)) ∧
  ∀ a, s.assembly = some a → a.kind = .event → (s.config a.bundle).target = some a.target

/-- Slots produced and not yet known to be consumed (R114). -/
def Target.unread (x : Target) : Nat := (x.produced - x.consumed).toNat

/-- For every target that is not DETACHED, produced less cached consumed lies within the ring size (R114), and so it does with the
reservation of the assembly in flight, which begins at the produced index (R77); a target that an attach in hand reads for is
DETACHED (R123). -/
def RingsInRange (s : State) : Prop :=
  (∀ k, (s.target k).ringSize ≤ 4096 ∧ ((s.target k).state ≠ .detached → (s.target k).unread ≤ (s.target k).ringSize)) ∧
  (∀ a, s.assembly = some a → (s.target a.target).state ≠ .detached ∧ a.base = (s.target a.target).produced ∧
    (s.target a.target).unread + 1 + a.copies.length ≤ (s.target a.target).ringSize) ∧
  ∀ cmd a, s.proc.hand = some (.attach cmd a) → (s.target a.target).state = .detached ∧ a.ringSize ≤ 4096

/-- A source has at most one in-flight copy (R37). -/
def CopiesDistinct (s : State) : Prop := (s.copies.map fun c => c.source).Nodup

/-- Every pending record and every in-flight copy counts 1 to 65535 events (R35, R43). -/
def CountsInRange (s : State) : Prop :=
  (∀ n r, s.record n = some r → 1 ≤ r.count ∧ r.count ≤ 65535) ∧ ∀ c ∈ s.copies, 1 ≤ c.count ∧ c.count ≤ 65535

/-- The issuers that have one request outstanding at a time because each looks before it issues: R81 and R82 (assembly), R115,
R137, R138, R141, R148 and R149. -/
def Issuer.oneAtATime : Issuer → Bool
  | .assembly | .consumerRead _ | .commandRead | .completionWrite | .completionConsumerRead | .setupRead => true
  | .signal _ | .replyWrite | .attachRead | .completionSignal => false

/-- At most one request of each of them is outstanding (R151). -/
def OneRequestEach (s : State) : Prop := ∀ who : Issuer, who.oneAtATime = true → s.outstanding who ≤ 1

/-- Outside a device reset a line is STABLE exactly while its sampled level is its qualified level (R6, R7). -/
def LinesSettled (s : State) : Prop :=
  s.resetting = false → ∀ l, (s.line l).qualification = .stable ↔ (s.line l).sampled = (s.line l).qualified

/-- While a setup is held, the completion ring is not overfull, and the reservations never exceed the completion free slots, even
with one more for the command in hand and one for the command being read (R137, R141, R144); no setup read is outstanding then and
no restart goes on (R133, R149). Without a setup nothing holds a reservation, the completion ring is empty, and no command is being
read but by a restart's drain (R137, R149). -/
def ReservationsFit (s : State) : Prop :=
  (∀ su, s.proc.setup = some su →
    s.proc.deferred.length + s.proc.completions.length + s.proc.hand.toList.length + s.outstanding .commandRead ≤ s.cplFree ∧
      (s.proc.cplProduced - s.proc.cplConsumed).toNat ≤ su.cplSize.toNat ∧ s.outstanding .setupRead = 0 ∧
        s.proc.restarting = false) ∧
  (s.proc.setup = none →
    s.proc.deferred = [] ∧ s.proc.completions = [] ∧ s.proc.hand = none ∧ s.proc.cplProduced = s.proc.cplConsumed ∧
      (s.proc.restarting = false → s.outstanding .commandRead = 0))

/-- The deferred table holds at most four commands (R144), and the stale count at most 255 (R97). -/
def TablesBounded (s : State) : Prop := s.proc.deferred.length ≤ 4 ∧ s.staleCount ≤ 255

end Sys2Proof.Machine
end

