-- ==== Sys2Proof/Certificates/Slice0/Obligations.lean ====
section
/-! DEFINITION. Sys2Proof/Certificates/Slice0/Obligations.lean: the statements for the provers. -/

open Sys2Proof Sys2Proof.Machine

/-! ### The machine -/

/-- A step on a queue with a command takes the front one and runs exec on it with the queue's rest. -/
def Obligations.StepTakesFrontCommand : Prop :=
  ∀ (s : State) (c : Instr) (rest : List Instr), s.pending = c :: rest → step s = exec c { s with pending := rest }

/-- On an empty queue the part's own work joins the queue in some order, and with none due a microsecond passes. The model's choice,
logs 2 and 3; the order is a free value. Own work is each step of the part whose moment has come: during a device reset the requests
whose 2 ms have run, and the end of the reset (R151, R158, R159, R160); otherwise those requests, the timers that have run (R8, R104,
R115, R120, R129), the end of a restart's drain (R149), a command to take (R137), an assembly to start (R75), and the first write of
one (R82). -/
def Obligations.IdleStepDoesOwnWork : Prop :=
  ∀ s : State, s.pending = [] →
    (s.ownWork = [] → step s = .next s.elapse) ∧
    (s.ownWork ≠ [] → ∃ work, work.Perm s.ownWork ∧
      step s = .next { s with pending := work, choices := s.choices + s.ownWork.length }) ∧
    ∀ i, i ∈ s.ownWork ↔
      (∃ q ∈ s.requests, q.timeout = 0 ∧ i = .hostRequestTimeout q.id) ∨
      (s.resetting = true ∧ s.requests = [] ∧ i = .resetEnd) ∨
      (s.resetting = false ∧
        ((∃ l, (s.line l).qualification = .qualifying 0 ∧ i = .qualificationExpiry l) ∨
          (∃ b, (s.run b).state = .held ∧ (s.run b).holdTimer = .running 0 ∧ i = .holdTimerExpiry b) ∨
          (∃ k, (s.target k).pollTimer = .running 0 ∧ i = .pollTimerExpiry k) ∨
          (∃ k, (s.target k).holdoffTimer = .running 0 ∧ i = .holdoffTimerExpiry k) ∨
          (∃ (e : Fin 4) (cmd : CmdId) (k : TargetId) (timeout : Half),
            s.proc.deferred[e.val]? = some ⟨cmd, .drain k timeout, .running 0⟩ ∧ i = .drainTimerExpiry e) ∨
          (s.proc.restarting = true ∧ (∀ q ∈ s.requests, q.issuer.commandPath = false) ∧ i = .restartDrainComplete) ∨
          (s.proc.state = .running ∧ s.proc.hand = none ∧ s.proc.setup ≠ none ∧ s.inFlight .commandRead = false ∧
            s.proc.producer ≠ s.proc.taken ∧ i = .commandTake) ∨
          (∃ b, s.assembly = none ∧ s.choice = some b ∧
            i = if (s.run b).state = .ready then .eventAssemblyStart else .reminderAssemblyStart) ∨
          (s.assembly ≠ none ∧ s.inFlight .assembly = false ∧ i = .firstWriteIssue)))

/-- Every command answers a next state, and leaves the queue and the free choices as they are. The model's choice where the step of a
row cannot occur, which then does nothing (log 5), and in that POWER_ON and RESET_END keep the model's own fields (log 20). -/
def Obligations.EveryCommandAnswersNext : Prop :=
  ∀ (c : Instr) (s : State), ∃ t, exec c s = .next t ∧ t.pending = s.pending ∧ t.choices = s.choices

/-- The values that the manual gives for power-on (R6, R14, R16, R21, R36, R50, R51, R52, R73, R112, R134, R154, R155, R157). -/
def Obligations.PowerOnValues : Prop :=
  State.reset.timebase = 0 ∧
    (∀ n, State.reset.route n = ⟨false, .rise, 0, none, 15⟩ ∧ State.reset.interval n = 4294967295#32 ∧
      State.reset.record n = none ∧ State.reset.tally n = ⟨0, 0, 0, 0, 0⟩) ∧
    (∀ l, (State.reset.line l).qualified = (State.reset.line l).sampled ∧ (State.reset.line l).qualification = .stable) ∧
    (∀ b, State.reset.config b = ⟨false, none, .single, 8, false, .hold, 0, 0⟩ ∧
      State.reset.run b = ⟨.off, 0, [], 0, false, .stopped⟩ ∧ State.reset.pendingList b = []) ∧
    State.reset.assembly = none ∧ State.reset.roundRobin = 47 ∧
    (∀ t, State.reset.target t =
      ⟨.detached, 0, 16, 0, 0, 0, 0, false, .stopped, 0, 0, false, 0, .stopped, false, false, false, .none⟩) ∧
    State.reset.proc = ⟨.stopped, none, 0, 0, none, [], [], 0, 0, false⟩ ∧ State.reset.requests = [] ∧
    State.reset.enable = false ∧ State.reset.setupAddrLo = 0 ∧ State.reset.setupAddrHi = 0 ∧
    State.reset.staleCount = 0 ∧ State.reset.resetting = false ∧ State.reset.statusWord = 0

/-! ### Lines and time -/

/-- A change of a sampled level starts a qualification, changes the qualified level at once when the filter is 0, or abandons a running
qualification (R7, R9). -/
def Obligations.SampledLevelChange : Prop :=
  ∀ (s : State) (l : LineId), s.resetting = false →
    let x := s.line l
    let e := s.route (sourceOfLine l)
    let moved := x.sampled.other
    (x.qualification = .stable → x.sampled = x.qualified → e.filter ≠ 0 →
      exec (.sampledLevelChange l) s = .next (s.setLine l ⟨moved, x.qualified, .qualifying e.filter.toNat⟩)) ∧
    (x.qualification = .stable → x.sampled = x.qualified → e.filter = 0 →
      let u := s.setLine l ⟨moved, moved, .stable⟩
      exec (.sampledLevelChange l) s =
        .next (if e.trigger.counts moved then u.accept (sourceOfLine l) (some moved.detail) else u)) ∧
    ((∃ k, x.qualification = .qualifying k) → x.sampled ≠ x.qualified →
      let u := s.setLine l ⟨x.qualified, x.qualified, .stable⟩
      exec (.sampledLevelChange l) s =
        .next (if e.enabled then u.accept Config.lineChatter (some (BitVec.ofNat 16 l.val)) else u))

/-- A qualification that has run its full period: the qualified level takes the sampled level, the line becomes STABLE, and the
source's trigger judges the change at this moment's timebase (R8). -/
def Obligations.QualificationExpiry : Prop :=
  ∀ (s : State) (l : LineId), s.resetting = false → (s.line l).qualification = .qualifying 0 →
    let level := (s.line l).sampled
    let u := s.setLine l ⟨level, level, .stable⟩
    exec (.qualificationExpiry l) s =
      .next (if (s.route (sourceOfLine l)).trigger.counts level then u.accept (sourceOfLine l) (some level.detail) else u)

/-- The timebase: it advances by one each µs, during a device reset too, and wraps to 0; power-on sets it to 0; TIME_SET loads it; no
other command touches it (R16). That the row TIMEBASE_WRAP is the whole µs that passes at the greatest value is the model's reading of
the table (log 28). -/
def Obligations.TimebaseCountsOn : Prop :=
  (∀ s : State, s.elapse.timebase = s.timebase + 1) ∧
    (∀ s : State, s.timebase.toNat = 281474976710655 → exec .timebaseWrap s = .next s.elapse ∧ s.elapse.timebase = 0) ∧
    (∀ s : State, ∃ t, exec .powerOn s = .next t ∧ t.timebase = 0) ∧
    (∀ (s : State) (r : SlotRead) (v : BitVec 64), Takes s r → v.toNat ≤ 281474976710655 →
      ∃ t, exec (.timeSet r v) s = .next t ∧ t.timebase = v.setWidth 48) ∧
    ∀ (c : Instr) (s t : State), exec c s = .next t → c ≠ .timebaseWrap → c ≠ .powerOn → (∀ r v, c ≠ .timeSet r v) →
      t.timebase = s.timebase

/-- What a µs does to the rest: outside a device reset, interval counters of enabled sources advance up to their ceiling, a
qualification and each timer that runs has one µs less to go (0 stays 0, the moment having come), and a stopped timer, a STABLE line
and a PAUSED hold timer stay as they are; during one, only the requests come nearer to their timeout (R14, R102, R151, R158).
That a timer which has run is held at 0 until its expiry is taken is the model's reading (log 4). -/
def Obligations.MicrosecondPasses : Prop :=
  (∀ s : State, s.resetting = false →
    (∀ n, s.elapse.interval n =
      if (s.route n).enabled ∧ s.interval n ≠ 4294967295#32 then s.interval n + 1 else s.interval n) ∧
    let counted (old new : Timer) : Prop :=
      (old = .stopped → new = .stopped) ∧ ∀ left, old = .running left → new = .running (left - 1)
    (∀ l, { s.elapse.line l with qualification := (s.line l).qualification } = s.line l ∧
      ((s.line l).qualification = .stable → (s.elapse.line l).qualification = .stable) ∧
      ∀ left, (s.line l).qualification = .qualifying left → (s.elapse.line l).qualification = .qualifying (left - 1)) ∧
    (∀ b, { s.elapse.run b with holdTimer := (s.run b).holdTimer } = s.run b ∧
      ((s.run b).holdTimer = .stopped → (s.elapse.run b).holdTimer = .stopped) ∧
      (∀ left, (s.run b).holdTimer = .running left → (s.elapse.run b).holdTimer = .running (left - 1)) ∧
      ∀ left, (s.run b).holdTimer = .paused left → (s.elapse.run b).holdTimer = .paused left) ∧
    (∀ t, { s.elapse.target t with pollTimer := (s.target t).pollTimer, holdoffTimer := (s.target t).holdoffTimer } = s.target t ∧
      counted (s.target t).pollTimer (s.elapse.target t).pollTimer ∧
      counted (s.target t).holdoffTimer (s.elapse.target t).holdoffTimer) ∧
    { s.elapse.proc with deferred := s.proc.deferred } = s.proc ∧ s.elapse.proc.deferred.length = s.proc.deferred.length ∧
    (∀ (k : Nat) (d : Deferred), s.proc.deferred[k]? = some d →
      ∃ timer, counted d.timer timer ∧ s.elapse.proc.deferred[k]? = some { d with timer := timer }) ∧
    s.elapse.routes = s.routes ∧ s.elapse.records = s.records ∧ s.elapse.tallies = s.tallies ∧
    s.elapse.bundleConfig = s.bundleConfig ∧ s.elapse.assembler = s.assembler ∧ s.elapse.window = s.window) ∧
  (∀ s : State, s.elapse.requests = s.requests.map fun r => { r with timeout := r.timeout - 1 }) ∧
  ∀ s : State, s.resetting = true →
    s.elapse = { s with
      timebase := s.timebase + 1, requests := s.requests.map fun r => { r with timeout := r.timeout - 1 } }

/-! ### Events and accounts -/

/-- Which changes of the qualified level each trigger counts, and which triggers have an active level (R11, the table); a cause that
occurs while the entry is OFF accepts nothing (R2); and the re-assertion checks, in entry order, each accepting one event where the
source is an enabled field line whose qualified level is its level trigger's active level (R13, R101). -/
def Obligations.AcceptanceChecks : Prop :=
  (∀ (x : Trigger) (level : Level), x.counts level = true ↔
    (level = .high ∧ (x = .rise ∨ x = .both ∨ x = .high)) ∨ (level = .low ∧ (x = .fall ∨ x = .both ∨ x = .low))) ∧
  (∀ (x : Trigger) (level : Level), x.activeLevel = some level ↔ (x = .high ∧ level = .high) ∨ (x = .low ∧ level = .low)) ∧
  (∀ (s : State) (n : SourceId) (d : Option Half), (s.route n).enabled = false → s.accept n d = s) ∧
  ((∀ s : State, s.reassert [] = s) ∧
  (∀ (s : State) (n : SourceId) (l : List SourceId), s.reassert (n :: l) = (s.levelCheck n).reassert l) ∧
  (∀ (s : State) (n : SourceId) (l : LineId), lineOf n = some l → (s.route n).enabled = true →
    (s.route n).trigger.activeLevel = some (s.line l).qualified →
    s.levelCheck n = s.accept n (some (s.line l).qualified.detail)) ∧
  ∀ (s : State) (n : SourceId),
    (∀ l, lineOf n = some l → (s.route n).enabled = false ∨ (s.route n).trigger.activeLevel ≠ some (s.line l).qualified) →
    s.levelCheck n = s)

/-- An arrival for a source with no pending record creates one, in the place its route entry names (R39). -/
def Obligations.ArrivalCreates : Prop :=
  ∀ (s : State) (n : SourceId) (d : Option Half), (s.route n).enabled = true → s.record n = none →
    let t := s.accept n d
    t.record n = some ⟨1, s.timebase, s.timebase, s.interval n, d⟩ ∧ t.interval n = 0 ∧
      t.tally n = { s.tally n with accepted := (s.tally n).accepted + 1 } ∧
      t.lossFlag n = ((s.tally n).lost != (s.tally n).lossMark) ∧
      (∀ b, n ∈ t.pendingList b ↔ (s.route n).bundle = some b) ∧ (n ∈ t.unroutedSet ↔ (s.route n).bundle = none) ∧
      (∀ m, m ≠ n → t.record m = s.record m ∧ t.tally m = s.tally m ∧ t.interval m = s.interval m) ∧
      t.fieldSide = s.fieldSide ∧ t.assembler = s.assembler ∧ OnlyStates s t ∧ t.proc = s.proc

/-- An arrival for a source whose record counts 1 to 65534 grows it, and the record stays where it is (R40). -/
def Obligations.ArrivalGrows : Prop :=
  ∀ (s : State) (n : SourceId) (d : Option Half) (r : PendingRecord), (s.route n).enabled = true → s.record n = some r →
    1 ≤ r.count → r.count ≤ 65534 →
    let t := s.accept n d
    t.record n = some { r with count := r.count + 1, lastTime := s.timebase, detail := d } ∧ t.interval n = 0 ∧
      t.tally n = { s.tally n with accepted := (s.tally n).accepted + 1 } ∧ (∀ b, t.pendingList b = s.pendingList b) ∧
      (∀ m, m ≠ n → t.record m = s.record m ∧ t.tally m = s.tally m ∧ t.interval m = s.interval m) ∧
      t.fieldSide = s.fieldSide ∧ t.assembler = s.assembler ∧ t.bundles = s.bundles ∧ t.targets = s.targets ∧ t.proc = s.proc ∧
      t.requests = s.requests

/-- An arrival at a record of count 65535 is lost; unless the source is 209 itself, the loss is an occurrence for source 209 with the
losing source's number as detail (R41). -/
def Obligations.ArrivalLost : Prop :=
  ∀ (s : State) (n : SourceId) (d : Option Half) (r : PendingRecord), (s.route n).enabled = true → s.record n = some r →
    r.count = 65535 →
    let lost := ((s.setInterval n 0).setRecord n (some { r with lastTime := s.timebase, detail := d })).updTally n fun y =>
      { y with accepted := y.accepted + 1, lost := y.lost + 1 }
    ((s.tally n).lost + 1 ≠ (s.tally n).lossMark → lost.lossFlag n = true) ∧
      s.accept n d = if n = 209 then lost else lost.accept 209 (some (BitVec.ofNat 16 n.val))

/-- A pending list is ordered by rank, then first_time, then source number, and holds exactly the records routed to the bundle (R37,
R38). -/
def Obligations.PendingListOrder : Prop :=
  ∀ (s : State) (b : BundleId),
    (∀ n, n ∈ s.pendingList b ↔ (s.record n).isSome = true ∧ (s.route n).bundle = some b) ∧ (s.pendingList b).Nodup ∧
    (s.pendingList b).Pairwise fun m n => ∀ x y, s.record m = some x → s.record n = some y →
      (s.route m).rank < (s.route n).rank ∨ (s.route m).rank = (s.route n).rank ∧
        (x.firstTime < y.firstTime ∨ x.firstTime = y.firstTime ∧ m < n)

/-- RAISE: its checks, an entry that is OFF, and an enabled one; for a source without a record, the record that the events of the RAISE
leave (R18). -/
def Obligations.Raise : Prop :=
  ∀ (s : State) (r : SlotRead) (source : Half) (count : Byte) (has : Bool) (arg : Half), Takes s r →
    let cmd := cmdOf r 0x01
    let d := if has then some arg else none
    (¬ (192 ≤ source.toNat ∧ source.toNat ≤ 207) ∨ count = 0 →
      exec (.raise r source count has arg) s = .next ((s.taken r).complete cmd .badArgument 0)) ∧
    ∀ n : SourceId, source.toNat = n.val → 192 ≤ n.val → n.val ≤ 207 → count ≠ 0 →
      ((s.route n).enabled = false →
        exec (.raise r source count has arg) s = .next ((s.taken r).complete cmd .ok 0)) ∧
      ((s.route n).enabled = true →
        let t := ((s.taken r).acceptMany n d count.toNat).complete cmd .ok (result1 count.toNat)
        exec (.raise r source count has arg) s = .next t ∧
          (s.record n = none → t.record n = some ⟨count.toNat, s.timebase, s.timebase, s.interval n, d⟩ ∧
            t.interval n = 0 ∧
            t.tally n = { s.tally n with accepted := (s.tally n).accepted + BitVec.ofNat 32 count.toNat }))

/-- TIME_SET (R19): BAD_ARGUMENT above the greatest timebase value; otherwise the old value is the result, the timebase is loaded, no
other source's interval counter changes, and source 215 meets its occurrence on the new scale. TIME_READ (R20) completes OK with the
timebase in the low 48 bits of its result, and changes nothing else. -/
def Obligations.TimeSetAndRead : Prop :=
  (∀ (s : State) (r : SlotRead) (v : BitVec 64), Takes s r →
    let cmd := cmdOf r 0x02
    (281474976710655 < v.toNat →
      exec (.timeSet r v) s = .next ((s.taken r).complete cmd .badArgument 0) ∧
        ((s.taken r).complete cmd .badArgument 0).timebase = s.timebase) ∧
    (v.toNat ≤ 281474976710655 →
      let loaded := (s.taken r).setTimebase (v.setWidth 48)
      let t := (loaded.accept 215 (some (v.setWidth 16))).complete cmd .ok (s.timebase.setWidth 64)
      exec (.timeSet r v) s = .next t ∧ t.timebase.toNat = v.toNat ∧ (∀ n : SourceId, n ≠ 215 → n ≠ 209 → t.interval n = s.interval n) ∧
        Completes s t ⟨cmd, .ok, s.timebase.setWidth 64⟩)) ∧
  (∀ (s : State) (r : SlotRead), Takes s r →
    ∃ t, exec (.timeRead r) s = .next t ∧ Completes s t ⟨cmdOf r 0x03, .ok, s.timebase.setWidth 64⟩ ∧
      OnlyCommandPath s t ∧ Issues s t r.req [.completionWrite])

/-- NOP completes OK with result 0; a kind code that names no command completes BAD_KIND with the code as read, an occurrence for
source 208 with the tag as detail (R139). That the completion joins before that occurrence is the model's choice (log 38). -/
def Obligations.NopAndBadKind : Prop :=
  ∀ (s : State) (r : SlotRead), Takes s r →
    (∃ t, exec (.nop r) s = .next t ∧ Completes s t ⟨cmdOf r 0x00, .ok, 0⟩ ∧ OnlyCommandPath s t ∧
      Issues s t r.req [.completionWrite]) ∧
    ∀ kind, ∃ u t, u = (s.taken r).pushCompletion ⟨cmdOf r kind, .badKind, 0⟩ ∧ t = u.accept 208 (some r.tag) ∧
      exec (.badKind r kind) s = .next t ∧ Completes s t ⟨cmdOf r kind, .badKind, 0⟩ ∧ OnlyCommandPath s u

/-- SOURCE_CLEAR (R47): the record goes and the UNWRITTEN copy becomes VOID, both counted as cleared; a WRITTEN copy stands. That
its completion joins after those of the DRAINs and FENCEs that it ends is the model's reading (log 39). -/
def Obligations.SourceClear : Prop :=
  ∀ (s : State) (r : SlotRead) (source : Half), Takes s r →
    let cmd := cmdOf r 0x12
    (215 < source.toNat → exec (.sourceClear r source) s = .next ((s.taken r).complete cmd .badArgument 0)) ∧
    ∀ n : SourceId, source.toNat = n.val →
      let gone := s.pendingCount n
      let voided := State.voidableIn n s.copies
      ∃ t, exec (.sourceClear r source) s = .next t ∧ t.record n = none ∧
        t.tally n = { s.tally n with cleared := (s.tally n).cleared + BitVec.ofNat 32 gone + BitVec.ofNat 32 voided } ∧
        t.copies = State.voidIn n s.copies ∧ (∀ m, m ≠ n → t.record m = s.record m ∧ t.tally m = s.tally m) ∧
        t.intervals = s.intervals ∧ t.fieldSide = s.fieldSide ∧ t.roundRobin = s.roundRobin ∧ OnlyStates s t ∧
        CompletesLast s t ⟨cmd, .ok, resultCounts gone voided⟩

/-- TALLY_RESET restarts the accounts of one source, or of all, from the outstanding events (R49). -/
def Obligations.TallyReset : Prop :=
  ∀ (s : State) (r : SlotRead) (source : Half), Takes s r →
    let cmd := cmdOf r 0x13
    (215 < source.toNat → source ≠ 0xFFFF#16 →
      exec (.tallyReset r source) s = .next ((s.taken r).complete cmd .badArgument 0)) ∧
    ((source = 0xFFFF#16 ∨ source.toNat ≤ 215) →
      let named (n : SourceId) : Prop := source = 0xFFFF#16 ∨ source.toNat = n.val
      ∃ t, exec (.tallyReset r source) s = .next t ∧
        (∀ n, named n → t.tally n = ⟨BitVec.ofNat 32 (s.pendingCount n + s.inFlightCount n), 0, 0, 0, 0⟩ ∧
          t.lossFlag n = false) ∧
        (∀ n, ¬ named n → t.tally n = s.tally n) ∧
        (t.copies = s.copies.map fun c =>
          if source = 0xFFFF#16 ∨ source.toNat = c.source.val then { c with lossFlag := false, takenLoss := 0 } else c) ∧
        t.records = s.records ∧ t.intervals = s.intervals ∧ t.fieldSide = s.fieldSide ∧ t.bundles = s.bundles ∧
        Completes s t ⟨cmd, .ok, 0⟩)

/-- Every step keeps the balance of every source (R46). -/
def Obligations.BalanceKept : Prop :=
  ∀ s t : State, step s = .next t → Balanced s → Balanced t

/-- Every step keeps: the counts of records and copies within 1 to 65535 (R35, R43); a line STABLE exactly while its levels agree,
outside a device reset (R6, R7); one request outstanding at a time for each issuer that looks before it issues (R151), with the
deferred table at four commands at most (R144) and the stale count at 255 at most (R97); at most one in-flight copy of a source (R37);
for every target that is not DETACHED, produced less cached consumed within the ring size, with the slots that an assembly in flight
reserves (R77, R114); the reservations within the completion free slots (R137, R141). -/
def Obligations.BoundsKept : Prop :=
  (∀ s t : State, step s = .next t → CountsInRange s → CountsInRange t) ∧
  (∀ s t : State, step s = .next t → LinesSettled s → LinesSettled t) ∧
  (∀ s t : State, step s = .next t → OneRequestEach s → TablesBounded s → OneRequestEach t ∧ TablesBounded t) ∧
  (∀ s t : State, step s = .next t → CopiesDistinct s → CopiesDistinct t) ∧
  (∀ s t : State, step s = .next t → RingsInRange s → RingsInRange t) ∧
  (∀ s t : State, step s = .next t → OneRequestEach s → ReservationsFit s → ReservationsFit t)

/-! ### The route table -/

/-- ROUTE_SET's arguments (R24): a bad one gives BAD_ARGUMENT, an occurrence for source 208 judged by the unchanged entry, and nothing
else; with none bad, filter whatever it is, the five fields are those of the new entry. That the trigger of sources 192 to 215 is
checked as well is the model's reading of R24 against R164 (log 13), and that a rejected command's completion joins before source 208's
occurrence is its choice (log 38). -/
def Obligations.RouteArguments : Prop :=
  ∀ (s : State) (r : SlotRead) (source : Half) (enabled trigger : Byte) (filter : Half) (bundle rank : Byte) (discard : Bool),
    Takes s r →
    let bad := 215 < source.toNat ∨ 1 < enabled.toNat ∨ 4 < trigger.toNat ∨ (47 < bundle.toNat ∧ bundle ≠ 0xFF#8) ∨
      15 < rank.toNat
    (bad → ∃ u, OnlyCommandPath s u ∧ Completes s u ⟨cmdOf r 0x10, .badArgument, 0⟩ ∧
      Issues s u r.req [.completionWrite] ∧
      exec (.routeSet r source enabled trigger filter bundle rank discard) s = .next (u.accept 208 (some r.tag))) ∧
    (¬ bad → ∃ (n : SourceId) (t : State), source.toNat = n.val ∧
      exec (.routeSet r source enabled trigger filter bundle rank discard) s = .next t ∧
      boolCode (t.route n).enabled = enabled.toNat ∧ (t.route n).trigger.code = trigger.toNat ∧ (t.route n).filter = filter ∧
      bundleCode (t.route n).bundle = bundle.toNat ∧ (t.route n).rank.val = rank.toNat)

/-- A valid ROUTE_SET (R23, R25 to R29, R32): the entry, the discard, the place of the record, and the result. With DISCARD the record
is removed and the UNWRITTEN copy becomes VOID, both counts are added to cleared, and a record that the source has afterwards holds the
one event of the entry's own check; the accounts of every other source stay, but for source 209's, which a loss may reach. On a field
line: a filter change restarts or ends a running qualification (R10), and a level trigger newly enabled or newly written whose level is
active makes the level check at enabling, unless a qualification was ended (R12). What is accepted, and that nothing else is: the change
of the qualified level where a qualification is ended, judged by the new entry (R11); the level check's one event, which joins a record
that stands; nothing where the trigger is an edge trigger, the level is not active, or the source is no field line (R12). That the
completion joins after those of the DRAINs and FENCEs that the command ends is the model's reading (log 39). -/
def Obligations.RouteSet : Prop :=
  (∀ (s : State) (r : SlotRead) (source : Half) (enabled trigger : Byte) (filter : Half) (bundle rank : Byte) (discard : Bool)
    (n : SourceId) (e : RouteEntry), Takes s r → source.toNat = n.val → routeArgs enabled trigger filter bundle rank = some e →
    let cmd := cmdOf r 0x10
    let gone := if discard then s.pendingCount n else 0
    let voided := if discard then State.voidableIn n s.copies else 0
    ∃ t, exec (.routeSet r source enabled trigger filter bundle rank discard) s = .next t ∧ t.route n = e ∧
      (∀ m, m ≠ n → t.route m = s.route m) ∧
      t.copies = (if discard then State.voidIn n s.copies else s.copies) ∧
      (∀ b, n ∈ t.pendingList b ↔ (t.record n).isSome = true ∧ e.bundle = some b) ∧
      (n ∈ t.unroutedSet ↔ (t.record n).isSome = true ∧ e.bundle = none) ∧ t.timebase = s.timebase ∧
      (∀ l, lineOf n ≠ some l → t.line l = s.line l) ∧ OnlyStates s t ∧ t.roundRobin = s.roundRobin ∧
      CompletesLast s t ⟨cmd, .ok, resultCounts gone voided⟩ ∧
      (t.tally n).cleared = (s.tally n).cleared + BitVec.ofNat 32 gone + BitVec.ofNat 32 voided ∧
      (t.tally n).reported = (s.tally n).reported ∧
      (∀ m, m ≠ n → m ≠ 209 → t.record m = s.record m ∧ t.tally m = s.tally m ∧ t.interval m = s.interval m) ∧
      (discard = true →
        (t.record n = none ∨ ∃ level : Level, t.record n = some ⟨1, s.timebase, s.timebase, s.interval n, some level.detail⟩) ∧
        t.tally n = { s.tally n with
          accepted := (s.tally n).accepted + BitVec.ofNat 32 (t.pendingCount n)
          cleared := (s.tally n).cleared + BitVec.ofNat 32 gone + BitVec.ofNat 32 voided } ∧
        (∀ m, m ≠ n → t.record m = s.record m ∧ t.tally m = s.tally m ∧ t.interval m = s.interval m) ∧
        (e.filter = (s.route n).filter → e.enabled = (s.route n).enabled → e.trigger = (s.route n).trigger →
          t.record n = none ∧ t.interval n = s.interval n)) ∧
      (discard = false → e = s.route n → t = (s.taken r).complete cmd .ok 0) ∧
      (discard = false → e.filter = (s.route n).filter → e.enabled = (s.route n).enabled → e.trigger = (s.route n).trigger →
        t.accounts = s.accounts ∧ t.lines = s.lines)) ∧
  (∀ (s : State) (r : SlotRead) (source : Half) (enabled trigger : Byte) (filter : Half) (bundle rank : Byte) (discard : Bool)
    (n : SourceId) (l : LineId) (e : RouteEntry), Takes s r → source.toNat = n.val → lineOf n = some l →
    routeArgs enabled trigger filter bundle rank = some e →
    let x := s.line l
    let old := s.route n
    ∃ t, exec (.routeSet r source enabled trigger filter bundle rank discard) s = .next t ∧
      (x.qualification = .stable ∨ e.filter = old.filter → t.line l = x) ∧
      (x.qualification ≠ .stable → e.filter ≠ old.filter → e.filter ≠ 0 →
        t.line l = { x with qualification := .qualifying e.filter.toNat }) ∧
      (x.qualification ≠ .stable → e.filter ≠ old.filter → e.filter = 0 → t.line l = ⟨x.sampled, x.sampled, .stable⟩) ∧
      (discard = true ∨ s.record n = none → e.enabled = true → e.trigger.activeLevel = some x.qualified →
        old.enabled = false ∨ old.trigger ≠ e.trigger →
        x.qualification = .stable ∨ e.filter = old.filter ∨ e.filter ≠ 0 →
        t.record n = some ⟨1, s.timebase, s.timebase, s.interval n, some x.qualified.detail⟩) ∧
      (∀ rec : PendingRecord, discard = false → s.record n = some rec → 1 ≤ rec.count → rec.count ≤ 65534 → e.enabled = true →
        e.trigger.activeLevel = some x.qualified → old.enabled = false ∨ old.trigger ≠ e.trigger →
        x.qualification = .stable ∨ e.filter = old.filter ∨ e.filter ≠ 0 →
        t.record n = some { rec with count := rec.count + 1, lastTime := s.timebase, detail := some x.qualified.detail })) ∧
  (∀ (s : State) (r : SlotRead) (source : Half) (enabled trigger : Byte) (filter : Half) (bundle rank : Byte) (discard : Bool)
    (n : SourceId) (e : RouteEntry), Takes s r → source.toNat = n.val → routeArgs enabled trigger filter bundle rank = some e →
    let old := s.route n
    let base := if discard then s.discardSource n else s
    let written := base.setRoute n e
    ∃ t, exec (.routeSet r source enabled trigger filter bundle rank discard) s = .next t ∧
      (lineOf n = none → t.accounts = base.accounts) ∧
      ∀ l, lineOf n = some l →
        let x := s.line l
        let ends := x.qualification ≠ .stable ∧ e.filter ≠ old.filter ∧ e.filter = 0
        let checks := e.enabled = true ∧ e.trigger.activeLevel = some x.qualified ∧ (old.enabled = false ∨ old.trigger ≠ e.trigger)
        (ends → e.enabled = true → e.trigger.counts x.sampled = true →
          t.accounts = (written.accept n (some x.sampled.detail)).accounts) ∧
        (ends → e.enabled = false ∨ e.trigger.counts x.sampled = false → t.accounts = base.accounts) ∧
        (¬ ends → checks → t.accounts = (written.accept n (some x.qualified.detail)).accounts) ∧
        (¬ ends → ¬ checks → t.accounts = base.accounts))

/-- ROUTE_READ, BUNDLE_READ and TARGET_READ (R33, R69, R130, R140): bad arguments are rejected; otherwise one write of the snapshot is
issued, the command stays in hand, and nothing else changes. The answer of that write completes the command (R140). -/
def Obligations.ReadCommands : Prop :=
  (∀ (s : State) (r : SlotRead) (a : Addr), Takes s r →
    let u := s.taken r
    let reply (cmd : CmdId) (result : BitVec 64) (record : List Byte) (t : State) : Prop :=
      t.proc = { u.proc with hand := some (.reply cmd result) } ∧ OnlyCommandPath s t ∧
        t.requests = u.requests ++ [⟨s.nextRequest, .replyWrite, a, .write record, 2000⟩]
    (∀ source, 215 < source.toNat ∨ a = 0 ∨ a.toNat % 8 ≠ 0 →
      exec (.routeRead r source a) s = .next (u.complete (cmdOf r 0x11) .badArgument 0)) ∧
    (∀ bundle capacity, 47 < bundle.toNat ∨ 216 < capacity.toNat ∨ a = 0 ∨ a.toNat % 8 ≠ 0 →
      exec (.bundleRead r bundle capacity a) s = .next (u.complete (cmdOf r 0x21) .badArgument 0)) ∧
    (∀ target, 5 < target.toNat ∨ a = 0 ∨ a.toNat % 8 ≠ 0 →
      exec (.targetRead r target a) s = .next (u.complete (cmdOf r 0x34) .badArgument 0)) ∧
    (a ≠ 0 → a.toNat % 8 = 0 →
      (∀ (source : Half) (n : SourceId), source.toNat = n.val →
        ∃ t, exec (.routeRead r source a) s = .next t ∧ reply (cmdOf r 0x11) 0 (routeReply u n) t) ∧
      (∀ (bundle : Byte) (capacity : Half) (b : BundleId), bundle.toNat = b.val → capacity.toNat ≤ 216 →
        ∃ t, exec (.bundleRead r bundle capacity a) s = .next t ∧
          reply (cmdOf r 0x21) (result1 (s.pendingList b).length) (bundleReply u b capacity.toNat) t) ∧
      (∀ (target : Byte) (k : TargetId), target.toNat = k.val →
        ∃ t, exec (.targetRead r target a) s = .next t ∧
          reply (cmdOf r 0x34) (result1 (s.target k).produced.toNat) (targetReply u k) t))) ∧
  (∀ (s : State) (id : Nat) (answer : WriteAnswer) (cmd : CmdId) (result : BitVec 64), Awaits s id .replyWrite →
    s.proc.hand = some (.reply cmd result) →
    let c : Completion := if answer = .done then ⟨cmd, .ok, result⟩ else ⟨cmd, .replyFailed, 0⟩
    ∃ t, exec (.replyWriteAnswer id answer) s = .next t ∧ OnlyCommandPath s t ∧ Issues s t id [.completionWrite] ∧
      t.proc.hand = none ∧ t.proc.completions = s.proc.completions ++ [c] ∧ t.proc.deferred = s.proc.deferred ∧
      ((∃ why, s.proc.state = .halted why) → t.proc.state = s.proc.state) ∧
      ((∀ why, s.proc.state ≠ .halted why) → t.proc.state = if s.enable then .running else .stopped))

/-- The records that the part writes, field by field: the replies of ROUTE_READ, BUNDLE_READ and TARGET_READ (R33, R69, R130), and
completion, entry and header slots with the phase of their index, their results and their zero bytes (R81, R83, R86, R141; tables of
10), in the codes of 10. A field narrower than the item's Lean type carries the item as far as it fits: the bounds are premises. -/
def Obligations.RecordLayouts : Prop :=
  ([false, true].map boolCode = [0, 1] ∧ [Trigger.rise, .fall, .both, .high, .low].map Trigger.code = [0, 1, 2, 3, 4] ∧
    (∀ b : BundleId, bundleCode (some b) = b.val) ∧ bundleCode none = 0xFF ∧
    (∀ k : TargetId, targetCode (some k) = k.val) ∧ targetCode none = 0xFF ∧
    [Mode.single, .sweep].map Mode.code = [0, 1] ∧ [HoldMode.hold, .nohold].map HoldMode.code = [0, 1] ∧
    [BundleState.off, .idle, .ready, .assembling, .held].map BundleState.code = [0, 1, 2, 3, 4] ∧
    [WaitingReason.none, .targetAbsent, .targetQuiesced, .targetFaulted, .ringFull, .assemblerBusy].map WaitingReason.code =
      [0, 1, 2, 3, 4, 5] ∧
    (∀ left, [HoldTimer.stopped, .running left, .paused left].map HoldTimer.code = [0, 1, 2]) ∧
    [AssemblyKind.event, .reminder].map AssemblyKind.code = [1, 2] ∧
    [CopyState.unwritten, .written, .void].map CopyState.code = [1, 2, 3] ∧
    [TargetState.detached, .active, .quiesced, .faulted].map TargetState.code = [0, 1, 2, 3] ∧
    [FaultReason.none, .ringWrite, .consumerRead, .badConsumer, .signalWrite].map FaultReason.code = [0, 1, 2, 3, 4] ∧
    [HeaderKind.event, .reminder, .empty].map HeaderKind.code = [0, 1, 2] ∧
    [Status.ok, .badKind, .badArgument, .badState, .staleToken, .notHeld, .timedOut, .aborted, .notFound, .busError,
      .replyFailed].map Status.code = [0, 1, 2, 3, 4, 5, 6, 7, 8, 9, 10]) ∧
  ((∀ (s : State) (n : SourceId),
    let bytes := routeReply s n
    let e := s.route n
    let y := s.tally n
    bytes.length = 64 ∧ field bytes 0 1 = boolCode e.enabled ∧ field bytes 1 1 = e.trigger.code ∧
    field bytes 2 2 = e.filter.toNat ∧ field bytes 4 1 = bundleCode e.bundle ∧ field bytes 5 1 = e.rank.val ∧
    field bytes 15 1 = 0 ∧ field bytes 36 4 = y.accepted.toNat ∧ field bytes 40 4 = y.reported.toNat ∧
    field bytes 44 4 = y.cleared.toNat ∧ field bytes 48 4 = y.lost.toNat ∧ field bytes 52 12 = 0 ∧
    (s.record n = none → field bytes 6 1 = 0 ∧ field bytes 8 4 = 0 ∧ field bytes 16 20 = 0) ∧
    (∀ x, s.record n = some x →
      field bytes 6 1 = 1 + 2 * boolCode x.detail.isSome + 4 * boolCode (y.lost != y.lossMark) ∧
      (x.count ≤ 65535 → field bytes 8 2 = x.count) ∧ field bytes 10 2 = (x.detail.getD 0).toNat ∧
      field bytes 16 8 = x.firstTime.toNat ∧ field bytes 24 8 = x.lastTime.toNat ∧ field bytes 32 4 = x.interval.toNat) ∧
    ((∀ c ∈ s.copies, c.source ≠ n) → field bytes 7 1 = 0 ∧ field bytes 12 2 = 0 ∧ field bytes 14 1 = 0xFF) ∧
    ∀ a, s.assembly = some a → CopiesDistinct s → ∀ c ∈ a.copies, c.source = n → c.count ≤ 65535 →
      field bytes 7 1 = c.state.code ∧ field bytes 12 2 = (if c.state = .void then 0 else c.count) ∧
        field bytes 14 1 = a.bundle.val) ∧
  (∀ (s : State) (b : BundleId) (capacity : Nat),
    let bytes := bundleReply s b capacity
    let c := s.config b
    let x := s.run b
    let list := s.pendingList b
    let padded := (capacity + 7) / 8 * 8
    let byteOf (l : List SourceId) (k : Nat) : Nat := (l[k]?.map fun n => n.val).getD 0xFF
    bytes.length = 32 + padded ∧ field bytes 0 1 = boolCode c.enabled ∧ field bytes 1 1 = targetCode c.target ∧
    field bytes 2 1 = c.mode.code ∧ (c.sweepLimit ≤ 255 → field bytes 3 1 = c.sweepLimit) ∧ field bytes 4 1 = boolCode c.urgent ∧
    field bytes 5 1 = c.hold.code ∧ field bytes 6 2 = c.holdTimeout.toNat ∧
    (c.reminderLimit ≤ 255 → field bytes 8 1 = c.reminderLimit) ∧ field bytes 9 1 = x.state.code ∧
    field bytes 10 2 = x.token.toNat ∧ (x.heldSet.length ≤ 255 → field bytes 12 1 = x.heldSet.length) ∧
    (x.remindersPosted ≤ 255 → field bytes 13 1 = x.remindersPosted) ∧
    field bytes 14 1 = boolCode x.reminderDue + 2 * (if capacity < list.length then 1 else 0) ∧
    field bytes 15 1 = x.holdTimer.code ∧ (x.holdTimer = .stopped → field bytes 16 2 = 0) ∧
    (∀ us, x.holdTimer = .running us ∨ x.holdTimer = .paused us → us ≤ 65535000 → field bytes 16 2 = (us + 999) / 1000) ∧
    field bytes 18 1 = (s.waitingReason b).code ∧
    ((∀ a, s.assembly = some a → a.bundle ≠ b) → field bytes 19 1 = 0 ∧ field bytes 20 1 = 0) ∧
    (∀ a, s.assembly = some a → a.bundle = b →
      field bytes 19 1 = a.kind.code ∧ (a.copies.length ≤ 255 → field bytes 20 1 = a.copies.length)) ∧
    field bytes 21 1 = 0 ∧ field bytes 22 2 = list.length ∧ (∀ k, k < 8 → field bytes (24 + k) 1 = byteOf x.heldSet k) ∧
    (∀ k, k < capacity → field bytes (32 + k) 1 = byteOf list k) ∧
    ∀ k, capacity ≤ k → k < padded → field bytes (32 + k) 1 = 0) ∧
  ∀ (s : State) (k : TargetId),
    let bytes := targetReply s k
    let x := s.target k
    let left (timer : Timer) (v : Nat) : Prop := (timer = .stopped → v = 0) ∧ ∀ us, timer = .running us → us < 2 ^ 32 → v = us
    let inState (st : BundleState) : Nat :=
      (List.finRange 48).countP fun b : BundleId => (s.config b).target == some k && (s.run b).state == st
    bytes.length = 64 ∧ field bytes 0 1 = x.state.code ∧ field bytes 1 1 = x.faultReason.code ∧
    field bytes 2 1 = boolCode x.spaceWanted + 2 * boolCode (s.consumerReadInFlight k) + 4 * boolCode x.armed +
      8 * boolCode x.signalOwed + 16 * boolCode x.rearmCheckPending + 32 * boolCode x.detachPending +
      64 * boolCode (s.assemblyFor k) ∧
    field bytes 3 1 = inState .ready ∧ field bytes 4 1 = inState .held ∧ field bytes 5 1 = 0 ∧
    (x.ringSize ≤ 65535 → field bytes 6 2 = x.ringSize) ∧ field bytes 8 8 = x.ringAddress.toNat ∧
    field bytes 16 8 = x.consumerAddress.toNat ∧ field bytes 24 8 = x.signalAddress.toNat ∧
    field bytes 32 4 = x.signalData.toNat ∧ field bytes 36 4 = x.produced.toNat ∧ field bytes 40 4 = x.consumed.toNat ∧
    field bytes 44 2 = x.pollInterval.toNat ∧ field bytes 46 2 = x.holdoff.toNat ∧ left x.pollTimer (field bytes 48 4) ∧
    left x.holdoffTimer (field bytes 52 4) ∧
    (s.signalWritesOutstanding k < 2 ^ 32 → field bytes 56 4 = s.signalWritesOutstanding k) ∧ field bytes 60 4 = 0) ∧
  ((∀ (size : Nat) (i : Word), phase size i = true ↔ i.toNat / size % 2 = 0) ∧
  (∀ (ph : Bool) (c : Completion), (completionBytes ph c).length = 16 ∧ field (completionBytes ph c) 0 1 = boolCode ph ∧
    field (completionBytes ph c) 1 1 = c.cmd.kind.toNat ∧ field (completionBytes ph c) 2 2 = c.cmd.tag.toNat ∧
    field (completionBytes ph c) 4 1 = c.status.code ∧ field (completionBytes ph c) 5 3 = 0 ∧
    field (completionBytes ph c) 8 8 = c.result.toNat) ∧
  (∀ (ph : Bool) (cmd : CmdId) (status : Status) (x y z : Nat),
    let bytes (result : BitVec 64) := completionBytes ph ⟨cmd, status, result⟩
    (x < 2 ^ 64 → field (bytes (result1 x)) 8 8 = x) ∧
    (x ≤ 65535 → y ≤ 65535 → field (bytes (resultCounts x y)) 8 2 = x ∧ field (bytes (resultCounts x y)) 10 2 = y ∧
      field (bytes (resultCounts x y)) 12 4 = 0) ∧
    (x ≤ 65535 → y ≤ 65535 → z < 2 ^ 32 → field (bytes (resultFlush x y z)) 8 2 = x ∧
      field (bytes (resultFlush x y z)) 10 2 = y ∧ field (bytes (resultFlush x y z)) 12 4 = z) ∧
    (x ≤ 255 → y ≤ 255 → field (bytes (resultAck x y)) 8 1 = x ∧ field (bytes (resultAck x y)) 9 1 = y ∧
      field (bytes (resultAck x y)) 10 6 = 0)) ∧
  (∀ (ph : Bool) (c : Copy), (entryBytes ph c).length = 32 ∧ field (entryBytes ph c) 0 1 % 2 = boolCode ph ∧
    field (entryBytes ph c) 1 1 = 0 ∧ field (entryBytes ph c) 28 4 = 0 ∧
    (c.state = .void → field (entryBytes ph c) 0 1 = boolCode ph ∧ field (entryBytes ph c) 2 2 = 65535 ∧
      field (entryBytes ph c) 4 28 = 0) ∧
    (c.state ≠ .void → field (entryBytes ph c) 0 1 = boolCode ph + 2 * boolCode c.lossFlag + 4 * boolCode c.detail.isSome ∧
      field (entryBytes ph c) 2 2 = c.source.val ∧ (c.count ≤ 65535 → field (entryBytes ph c) 4 2 = c.count) ∧
      field (entryBytes ph c) 6 2 = (c.detail.getD 0).toNat ∧ field (entryBytes ph c) 8 8 = c.firstTime.toNat ∧
      field (entryBytes ph c) 16 8 = c.lastTime.toNat ∧ field (entryBytes ph c) 24 4 = c.interval.toNat)) ∧
  ∀ (ph : Bool) (now : Time) (a : Assembly), (headerBytes ph now a).length = 32 ∧
    field (headerBytes ph now a) 0 1 = boolCode ph + 2 * a.headerKind.code + 8 * boolCode a.flagUrgent +
      16 * boolCode a.flagMore + 32 * boolCode a.flagPartial ∧
    field (headerBytes ph now a) 1 1 = a.bundle.val ∧
    field (headerBytes ph now a) 2 2 = (if a.headerKind = .empty then 0 else a.token.toNat) ∧
    (a.copies.length ≤ 255 → field (headerBytes ph now a) 4 1 = a.copies.length) ∧
    (a.reminderNumber ≤ 255 → field (headerBytes ph now a) 5 1 = a.reminderNumber) ∧
    field (headerBytes ph now a) 6 2 = 0 ∧ field (headerBytes ph now a) 8 8 = now.toNat ∧ field (headerBytes ph now a) 16 16 = 0)

/-! ### Bundles -/

/-- BUNDLE_SET's arguments (R65): a bad one gives BAD_ARGUMENT, whatever the bundle's state, an occurrence for source 208, and nothing
else; with none bad, hold timeout whatever it is, the eight fields are those of the command. That a rejected command's completion joins
before source 208's occurrence is the model's choice (log 38). -/
def Obligations.BundleArguments : Prop :=
  ∀ (s : State) (r : SlotRead) (bundle enabled target mode sweepLimit urgent hold reminderLimit : Byte) (holdTimeout : Half),
    let bad := 47 < bundle.toNat ∨ 1 < enabled.toNat ∨ (5 < target.toNat ∧ target ≠ 0xFF#8) ∨ 1 < mode.toNat ∨
      sweepLimit = 0 ∨ 8 < sweepLimit.toNat ∨ 1 < urgent.toNat ∨ 1 < hold.toNat ∨ 7 < reminderLimit.toNat
    (Takes s r → bad → ∃ u, OnlyCommandPath s u ∧ Completes s u ⟨cmdOf r 0x20, .badArgument, 0⟩ ∧
      Issues s u r.req [.completionWrite] ∧
      exec (.bundleSet r bundle enabled target mode sweepLimit urgent hold reminderLimit holdTimeout) s =
        .next (u.accept 208 (some r.tag))) ∧
    (¬ bad → ∃ (b : BundleId) (c : BundleConfig), bundleArg bundle = some b ∧ b.val = bundle.toNat ∧
      bundleArgs enabled target mode sweepLimit urgent hold reminderLimit holdTimeout = some c ∧
      boolCode c.enabled = enabled.toNat ∧ targetCode c.target = target.toNat ∧ c.mode.code = mode.toNat ∧
      c.sweepLimit = sweepLimit.toNat ∧ boolCode c.urgent = urgent.toNat ∧ c.hold.code = hold.toNat ∧
      c.holdTimeout = holdTimeout ∧ c.reminderLimit = reminderLimit.toNat)

/-- A BUNDLE_SET with valid arguments, by the bundle's state (R66, R67): applied, BAD_STATE, or the processor waits. That an
applied one's completion joins after those of the DRAINs and FENCEs that it ends is the model's reading (log 39). -/
def Obligations.BundleSetByState : Prop :=
  ∀ (s : State) (r : SlotRead) (bundle enabled target mode sweepLimit urgent hold reminderLimit : Byte) (holdTimeout : Half)
    (b : BundleId) (c : BundleConfig), Takes s r → bundle.toNat = b.val →
    bundleArgs enabled target mode sweepLimit urgent hold reminderLimit holdTimeout = some c →
    let i := Instr.bundleSet r bundle enabled target mode sweepLimit urgent hold reminderLimit holdTimeout
    let cmd := cmdOf r 0x20
    let x := s.run b
    let moves := c.target ≠ (s.config b).target
    let settled := if s.pendingList b = [] then BundleState.idle else .ready
    let pauses := c.urgent = false ∧ ∃ t, c.target = some t ∧ (s.target t).state = .quiesced
    (x.state = .off ∨ x.state = .idle ∨ x.state = .ready ∨ (c.enabled = true ∧ ¬ moves) →
      ∃ t, exec i s = .next t ∧ t.config b = c ∧ (∀ k, k ≠ b → t.config k = s.config k ∧ t.run k = s.run k) ∧
        (t.run b).state =
          (if c.enabled then (if x.state = .off then settled else x.state)
            else if x.state = .idle ∨ x.state = .ready then .off else x.state) ∧
        { t.run b with state := x.state, holdTimer := x.holdTimer } = x ∧
        (pauses → (t.run b).holdTimer = x.holdTimer.judged true) ∧ (¬ pauses → (t.run b).holdTimer = x.holdTimer.judged false) ∧
        t.fieldSide = s.fieldSide ∧ t.accounts = s.accounts ∧ t.assembler = s.assembler ∧
        CompletesLast s t ⟨cmd, .ok, result1 (t.run b).state.code⟩) ∧
    (((x.state = .assembling ∨ x.state = .held) ∧ c.enabled = false) ∨ (x.state = .held ∧ moves) →
      exec i s = .next ((s.taken r).complete cmd .badState 0)) ∧
    (x.state = .assembling → c.enabled = true → moves →
      ∃ t, exec i s = .next t ∧ OnlyCommandPath s t ∧ t.requests = (s.taken r).requests ∧
        t.proc = { (s.taken r).proc with state := .waiting .assembly, hand := some (.assembly cmd b c) })

/-- BUNDLE_FLUSH (R71): the whole list is discarded, the UNWRITTEN copies of the bundle's assembly become VOID, and the context is
unchanged but for READY becoming IDLE. That its completion joins after those of the DRAINs and FENCEs that it ends is the model's
reading (log 39). -/
def Obligations.BundleFlush : Prop :=
  ∀ (s : State) (r : SlotRead) (bundle : Byte), Takes s r →
    (47 < bundle.toNat → exec (.bundleFlush r bundle) s = .next ((s.taken r).complete (cmdOf r 0x22) .badArgument 0)) ∧
    ∀ b : BundleId, bundle.toNat = b.val →
      let reached := s.flushedCopies b
      let voided := reached.filter fun c => c.state == .unwritten
      let cleared := ((s.pendingList b).map s.pendingCount).sum + (voided.map fun c => c.count).sum
      ∃ t, exec (.bundleFlush r bundle) s = .next t ∧ t.pendingList b = [] ∧
        (∀ n, t.record n = if n ∈ s.pendingList b then none else s.record n) ∧
        (∀ n, t.tally n =
          { s.tally n with
            cleared := (s.tally n).cleared + BitVec.ofNat 32 (if n ∈ s.pendingList b then s.pendingCount n else 0) +
              BitVec.ofNat 32 (State.voidableIn n reached) }) ∧
        (reached = [] → t.assembly = s.assembly) ∧
        (reached ≠ [] → t.copies = s.copies.map fun c => if c.state = .unwritten then { c with state := .void } else c) ∧
        OnlyStates s t ∧ (∀ k, k ≠ b → (t.run k).state = (s.run k).state) ∧
        ((s.run b).state ≠ .ready → (t.run b).state = (s.run b).state) ∧ ((s.run b).state = .ready → (t.run b).state = .idle) ∧
        t.fieldSide = s.fieldSide ∧ t.intervals = s.intervals ∧
        CompletesLast s t ⟨cmdOf r 0x22, .ok, resultFlush (s.pendingList b).length voided.length cleared⟩

/-- Every step keeps the bundles' states in step with their lists (R54, R55), and their held sets and assemblies in step with their
states: held set, reminders and hold timer at their reset values outside HELD, a HELD bundle's token never 0 (R52, R54, R62, R96). And
the bundles go on standing as their configuration and targets want it: state OFF exactly while enabled is OFF (R51, R54), the target of
a HELD bundle never DETACHED (R95), a hold timer that is not STOPPED PAUSED exactly while its bundle is not urgent and its target
QUIESCED (R103), and the bundle of an EVENT assembly in flight on the assembly's target (R66, R67). -/
def Obligations.BundlesStayInStep : Prop :=
  (∀ s t : State, step s = .next t → ListsInStep s → ListsInStep t) ∧
  (∀ s t : State, step s = .next t → HoldsInStep s → HoldsInStep t) ∧
  (∀ s t : State, step s = .next t → HoldsInStep s → RingsInRange s → BundlesStand s → BundlesStand t)

/-! ### Holds -/

/-- ACK, by bundle, state and token (R96, R98, R99), and ACK_PORT with its stale count (R96, R97, R99). That an ACK's result counts a
re-assertion event that is lost to saturation too is the model's reading (log 23); so is that an ACK's completion joins after those of
the DRAINs and FENCEs that its release ends (log 39). Its choice is that the command in hand that waits for an entry is judged after an
ACK_PORT's release (log 36). -/
def Obligations.Acknowledges : Prop :=
  (∀ (s : State) (r : SlotRead) (bundle : Byte) (token : Half), Takes s r →
    let cmd := cmdOf r 0x23
    let u := s.taken r
    (47 < bundle.toNat → exec (.ack r bundle token) s = .next (u.complete cmd .badArgument 0)) ∧
    ∀ b : BundleId, bundle.toNat = b.val →
      ((s.run b).state ≠ .held →
        exec (.ack r bundle token) s =
          .next ((u.accept 212 (some (BitVec.ofNat 16 b.val))).complete cmd .notHeld (result1 (s.run b).state.code))) ∧
      ((s.run b).state = .held → token ≠ (s.run b).token →
        exec (.ack r bundle token) s =
          .next ((u.accept 212 (some (BitVec.ofNat 16 b.val))).complete cmd .staleToken (result1 (s.run b).token.toNat))) ∧
      ((s.run b).state = .held → token = (s.run b).token →
        let released := (s.run b).heldSet
        ∃ t, t = (u.release b).complete cmd .ok (resultAck released.length (released.countP s.levelActive)) ∧
          exec (.ack r bundle token) s = .next t ∧ (t.run b).state ≠ .held ∧
          CompletesLast s t ⟨cmd, .ok, resultAck released.length (released.countP s.levelActive)⟩)) ∧
  (∀ (s : State) (bundle : Byte) (token : Half), s.resetting = false →
    let grown := min (s.staleCount + 1) 255
    (47 < bundle.toNat → exec (.ackPort bundle token) s = .next { s with staleCount := grown }) ∧
    ∀ b : BundleId, bundle.toNat = b.val →
      ((s.run b).state ≠ .held ∨ token ≠ (s.run b).token →
        exec (.ackPort bundle token) s =
          .next { s.accept 212 (some (BitVec.ofNat 16 b.val)) with staleCount := grown }) ∧
      ((s.run b).state = .held → token = (s.run b).token →
        exec (.ackPort bundle token) s = .next (s.release b).settleHand ∧
          (s.release b).settleHand.staleCount = s.staleCount))

/-- A release (R100): timer stopped, reminders dropped, the re-assertion checks in entry order, held set emptied, and the bundle on
READY or IDLE by its list after them; token and configuration stay. A hold timer expires (R104): a reminder falls due, or the hold is
released and source 210 accepts an event. That the DRAINs are judged with the release, before source 210's event, is the model's
reading (log 11), and its choice that the command in hand that waits for an entry is judged again after that event (log 36). -/
def Obligations.ReleaseAndHoldTimer : Prop :=
  (∀ (s : State) (b : BundleId), (s.run b).state = .held →
    let u := (s.updRun b fun x => { x with holdTimer := .stopped, reminderDue := false, remindersPosted := 0 }).reassert
      (s.run b).heldSet
    let t := s.release b
    t.run b =
        ⟨if t.pendingList b = [] then .idle else .ready, (s.run b).token, [], 0, false, .stopped⟩ ∧
      t.accounts = u.accounts ∧ (∀ k, k ≠ b → t.run k = u.run k) ∧ t.bundleConfig = s.bundleConfig ∧
      t.fieldSide = s.fieldSide ∧ t.assembler = s.assembler) ∧
  (∀ (s : State) (b : BundleId), s.resetting = false → (s.run b).state = .held → (s.run b).holdTimer = .running 0 →
    ((s.run b).remindersPosted < (s.config b).reminderLimit →
      ∃ t, exec (.holdTimerExpiry b) s = .next t ∧ t.run b = { s.run b with holdTimer := .stopped, reminderDue := true } ∧
        (∀ k, k ≠ b → t.run k = s.run k) ∧ t.bundleConfig = s.bundleConfig ∧ t.fieldSide = s.fieldSide ∧
        t.accounts = s.accounts ∧ t.assembler = s.assembler ∧ t.proc = s.proc) ∧
    ((s.config b).reminderLimit ≤ (s.run b).remindersPosted →
      exec (.holdTimerExpiry b) s = .next ((s.release b).accept 210 (some (BitVec.ofNat 16 b.val))).settleHand))

/-! ### The assembler -/

/-- Which bundles are eligible (R74), and which one the assembler chooses (R76): the lowest urgent one, else the first in the search
that begins after the round-robin position; it chooses only while no assembly is in flight (R73, R75). A target's free slots (R74,
R114), and the waiting reasons: the first condition of the table that holds (R63), a target with detach pending counting as DETACHED
(R113). -/
def Obligations.ChoiceOfBundle : Prop :=
  ∀ s : State,
    (∀ b, s.eligible b = true ↔ (s.config b).enabled = true ∧ ∃ t, (s.config b).target = some t ∧
      (s.target t).detachPending = false ∧
      ((s.target t).state = .active ∨ ((s.target t).state = .quiesced ∧ (s.config b).urgent = true)) ∧
      (((s.run b).state = .ready ∧ 2 ≤ (s.target t).freeSlots) ∨
        ((s.run b).state = .held ∧ (s.run b).reminderDue = true ∧ 1 ≤ (s.target t).freeSlots))) ∧
    (s.choice = none ↔ ∀ b, s.eligible b = false) ∧
    (∀ b, s.choice = some b ↔ s.eligible b = true ∧
      (((s.config b).urgent = true ∧ ∀ k, s.eligible k = true → (s.config k).urgent = true → b ≤ k) ∨
        ((∀ k, s.eligible k = true → (s.config k).urgent = false) ∧
          ∀ k, s.eligible k = true → b - (s.roundRobin + 1) ≤ k - (s.roundRobin + 1)))) ∧
    (s.assembly = none → s.chosen = s.choice) ∧ (s.assembly ≠ none → s.chosen = none) ∧
    (∀ k, (s.target k).freeSlots = (s.target k).ringSize - ((s.target k).produced - (s.target k).consumed).toNat) ∧
    ∀ b,
      let x := s.run b
      let slots := if x.state = .ready then 2 else 1
      (¬ (x.state = .ready ∨ (x.state = .held ∧ x.reminderDue = true)) → s.waitingReason b = .none) ∧
      (x.state = .ready ∨ (x.state = .held ∧ x.reminderDue = true) →
        ((s.config b).target = none → s.waitingReason b = .targetAbsent) ∧
        ∀ k, (s.config b).target = some k →
          let y := s.target k
          s.waitingReason b =
            if y.state = .detached ∨ y.detachPending = true then .targetAbsent
            else if y.state = .faulted then .targetFaulted
            else if y.state = .quiesced ∧ (s.config b).urgent = false then .targetQuiesced
            else if y.freeSlots < slots then .ringFull
            else .assemblerBusy)

/-- The start of an EVENT assembly of the chosen READY bundle (R43, R62, R76 to R79), with the configuration captured (R56, R73). -/
def Obligations.EventAssemblyStart : Prop :=
  ∀ (s : State) (b : BundleId) (t : TargetId), s.resetting = false → s.chosen = some b → (s.config b).target = some t →
    (s.run b).state = .ready →
    let l := s.pendingList b
    let limit := if (s.config b).mode = .single then 1 else (s.config b).sweepLimit
    let room := (s.target t).freeSlots - 1
    let n := min l.length (min limit room)
    ∃ u a, exec .eventAssemblyStart s = .next u ∧ u.assembly = some a ∧ a.kind = .event ∧ a.bundle = b ∧ a.target = t ∧
      a.base = (s.target t).produced ∧ a.copies.map (fun c => c.source) = l.take n ∧
      (∀ c ∈ a.copies, c.state = .unwritten ∧ c.lossFlag = s.lossFlag c.source ∧ c.takenLoss = (s.tally c.source).lost ∧
        ∃ x, s.record c.source = some x ∧ c.count = x.count ∧ c.firstTime = x.firstTime ∧ c.lastTime = x.lastTime ∧
          c.interval = x.interval ∧ (lineOf c.source = none → c.detail = x.detail) ∧
          ∀ m, lineOf c.source = some m → c.detail = some (s.line m).qualified.detail) ∧
      a.token = (if (s.run b).token = 0xFFFF#16 then 1 else (s.run b).token + 1) ∧ a.reminderNumber = 0 ∧
      a.flagUrgent = (s.config b).urgent ∧ (a.flagMore = true ↔ n < l.length) ∧
      (a.flagPartial = true ↔ room < l.length ∧ room < limit) ∧ a.position = .entry 1 ∧
      a.captured = ⟨(s.config b).mode, (s.config b).sweepLimit, (s.config b).hold, (s.config b).urgent⟩ ∧
      u.run b = { s.run b with state := .assembling } ∧ (∀ k, k ≠ b → u.run k = s.run k) ∧
      (∀ m, u.record m = if m ∈ l.take n then none else s.record m) ∧ u.tallies = s.tallies ∧ u.intervals = s.intervals ∧
      u.roundRobin = (if (s.config b).urgent then s.roundRobin else b) ∧ u.bundleConfig = s.bundleConfig ∧
      u.fieldSide = s.fieldSide ∧ u.targets = s.targets ∧ u.proc = s.proc ∧ u.requests = s.requests

/-- The start of a REMINDER assembly of the chosen HELD bundle (R80), with the configuration captured (R56, R73). -/
def Obligations.ReminderAssemblyStart : Prop :=
  ∀ (s : State) (b : BundleId) (t : TargetId), s.resetting = false → s.chosen = some b → (s.config b).target = some t →
    (s.run b).state = .held →
    ∃ u a, exec .reminderAssemblyStart s = .next u ∧ u.assembly = some a ∧ a.kind = .reminder ∧ a.bundle = b ∧ a.target = t ∧
      a.base = (s.target t).produced ∧ a.copies = [] ∧ a.token = (s.run b).token ∧
      a.reminderNumber = (s.run b).remindersPosted + 1 ∧ a.flagUrgent = (s.config b).urgent ∧
      (a.flagMore = true ↔ s.pendingList b ≠ []) ∧ a.flagPartial = false ∧ a.position = .header ∧
      a.captured = ⟨(s.config b).mode, (s.config b).sweepLimit, (s.config b).hold, (s.config b).urgent⟩ ∧
      u.run b = { s.run b with reminderDue := false } ∧ (∀ k, k ≠ b → u.run k = s.run k) ∧ u.accounts = s.accounts ∧
      u.roundRobin = (if (s.config b).urgent then s.roundRobin else b) ∧ u.bundleConfig = s.bundleConfig ∧
      u.fieldSide = s.fieldSide ∧ u.targets = s.targets ∧ u.proc = s.proc ∧ u.requests = s.requests

/-- The slots are written one at a time, entry 1 first and the header last, each with the phase of its own index, and a copy is WRITTEN
from the issue of its entry (R81, R82, R86). -/
def Obligations.WritesInOrder : Prop :=
  (∀ (s : State) (a : Assembly), s.resetting = false → s.assembly = some a → s.inFlight .assembly = false →
    exec .firstWriteIssue s = .next s.issueWrite) ∧
  (∀ (s : State) (id k : Nat) (a : Assembly), Awaits s id .assembly → s.assembly = some a → a.position = .entry k →
    let next : WritePosition := if k < a.copies.length then .entry (k + 1) else .header
    exec (.entryWriteDone id) s = .next ((s.endRequest id).setAssembly (some { a with position := next })).issueWrite) ∧
  (∀ (s : State) (k : Nat) (a : Assembly) (c : Copy), s.assembly = some a → a.position = .entry k → a.copies[k - 1]? = some c →
    let x := s.target a.target
    let i := a.base + BitVec.ofNat 32 k
    let written := if c.state = .void then c else { c with state := .written }
    s.issueWrite = { s with
      assembly := some { a with copies := a.copies.set (k - 1) written }
      requests := s.requests ++ [⟨s.nextRequest, .assembly,
        x.ringAddress + BitVec.ofNat 64 (i.toNat % x.ringSize * 32), .write (entryBytes (phase x.ringSize i) c), 2000⟩]
      nextRequest := s.nextRequest + 1 }) ∧
  ∀ (s : State) (a : Assembly), s.assembly = some a → a.position = .header →
    let x := s.target a.target
    s.issueWrite = { s with
      requests := s.requests ++ [⟨s.nextRequest, .assembly,
        x.ringAddress + BitVec.ofNat 64 (a.base.toNat % x.ringSize * 32),
        .write (headerBytes (phase x.ringSize a.base) s.timebase a), 2000⟩]
      nextRequest := s.nextRequest + 1 }

/-- A commit (R88, R89): accounts, then target, then bundle; the assembly ends, the in-flight counts are reported, and the produced
index advances. The target step: after the produced index, the signal rules at the post (R119), then source 213's occurrence for an
EVENT notification with PARTIAL set (R89), then space wanted (R115). The model's readings and choices: every copy that is not VOID is
reported (log 26); space wanted comes last in the target step (log 34); what the end of the assembly ends comes after the bundle's step
(log 15), and a DRAIN met once the bundle has moved, before its re-assertion checks, completes with that (log 11). -/
def Obligations.Commit : Prop :=
  (∀ (s : State) (id : Nat) (a : Assembly), Awaits s id .assembly → s.assembly = some a → a.position = .header →
    let reported := a.copies.foldl State.reportCopy ((s.endRequest id).setAssembly none)
    ∃ t, exec (.commit id) s = .next t ∧ t = (((reported.commitTarget a).moveBundle a).recheckReported a).afterAssembly a
        ((reported.commitTarget a).moveBundle a).drainedTargets ∧ t.assembly = none ∧
      (∀ n, (t.tally n).reported = (s.tally n).reported + BitVec.ofNat 32 (inFlightCountIn n a.copies)) ∧
      ((a.copies.map fun c => c.source).Nodup → ∀ c ∈ a.copies, c.state ≠ .void → (t.tally c.source).lossMark = c.takenLoss) ∧
      (∀ k, (t.target k).produced =
        (s.target k).produced + if k = a.target then BitVec.ofNat 32 (1 + a.copies.length) else 0) ∧
      t.fieldSide = s.fieldSide ∧ t.roundRobin = s.roundRobin) ∧
  (∀ (s : State) (a : Assembly),
    let u := (s.updTarget a.target fun x => { x with produced := x.produced + BitVec.ofNat 32 (1 + a.copies.length) }).signalRules
      a.target
    let pressed := a.kind = .event ∧ (∃ c ∈ a.copies, c.state ≠ .void) ∧ a.flagPartial = true
    (pressed → s.commitTarget a = (u.accept 213 (some (BitVec.ofNat 16 a.target.val))).rejudgeSpace a.target) ∧
    (¬ pressed → s.commitTarget a = u.rejudgeSpace a.target)) ∧
  ∀ (s : State) (c : Copy),
    (c.state = .void → s.reportCopy c = s) ∧
    (c.state ≠ .void → s.reportCopy c = s.updTally c.source fun y =>
      { y with reported := y.reported + BitVec.ofNat 32 c.count, lossMark := c.takenLoss })

/-- What the commit of an assembly does to its bundle (R57, R58, R59, R61, R102), from the state in which step 3 of R88 finds it; a
NOHOLD bundle settles before its re-assertion checks are made. The DRAINs that the settling ends (R128) complete after this step, with
what else the end of the assembly ends (logs 11 and 15). -/
def Obligations.CommitSettlesBundle : Prop :=
  ∀ (s : State) (a : Assembly),
    let b := a.bundle
    let x := s.run b
    let t := s.commitBundle a
    let us := (s.config b).holdTimeout.toNat * 1000
    let pauses := (s.config b).urgent = false ∧ ∃ k, (s.config b).target = some k ∧ (s.target k).state = .quiesced
    let started (timer : HoldTimer) : Prop := timer = if us = 0 then .stopped else if pauses then .paused us else .running us
    let reported := (a.copies.filter fun c => c.state != .void).map fun c => c.source
    let settled := if s.pendingList b = [] then BundleState.idle else .ready
    (a.kind = .event → (∃ c ∈ a.copies, c.state ≠ .void) → a.captured.hold = .hold →
      (∃ timer, started timer ∧ t.run b = ⟨.held, a.token, reported, 0, false, timer⟩) ∧ t.accounts = s.accounts) ∧
    (a.kind = .event → (∃ c ∈ a.copies, c.state ≠ .void) → a.captured.hold = .nohold →
      let u := (s.updRun b fun y => { y with token := a.token }).settleByList b
      u.run b = { x with state := settled, token := a.token } ∧ s.moveBundle a = u ∧ t = u.reassert reported) ∧
    (a.kind = .event → (∀ c ∈ a.copies, c.state = .void) →
      t.run b = { x with state := settled } ∧ t.accounts = s.accounts) ∧
    (a.kind = .reminder → x.state = .held → x.token = a.token →
      (∃ timer, started timer ∧ t.run b = { x with remindersPosted := x.remindersPosted + 1, holdTimer := timer }) ∧
        t.accounts = s.accounts) ∧
    (a.kind = .reminder → x.state ≠ .held ∨ x.token ≠ a.token → t = s) ∧
    ∀ k, k ≠ b → a.kind = .reminder ∨ a.captured.hold = .hold ∨ (∀ c ∈ a.copies, c.state = .void) → t.run k = s.run k

/-- An abort (R91, R92): the copies return, the bundle settles, the target is faulted; nothing is reported and no produced index moves.
The return of a copy (R44), and what the abort does to the bundle (R60, R61). That what the end of the assembly ends comes after the
target's fault is the model's reading (log 15), and so is that a DRAIN met once the bundle has settled, before that fault, completes with
it (log 11). -/
def Obligations.AssemblyAbort : Prop :=
  (∀ (s : State) (id : Nat) (a : Assembly), Awaits s id .assembly → s.assembly = some a →
    let returned := a.copies.foldl State.returnCopy ((s.endRequest id).setAssembly none)
    ∃ t, exec (.assemblyAbort id) s = .next t ∧
      t = ((returned.abortBundle a).faultTarget a.target .ringWrite).afterAssembly a (returned.abortBundle a).drainedTargets ∧
      t.assembly = none ∧
      (∀ n, (t.tally n).reported = (s.tally n).reported ∧ (t.tally n).lossMark = (s.tally n).lossMark ∧
        (t.tally n).cleared = (s.tally n).cleared) ∧
      (∀ k, (t.target k).produced = (s.target k).produced) ∧ (∀ b, (t.run b).token = (s.run b).token) ∧
      t.fieldSide = s.fieldSide ∧ t.roundRobin = s.roundRobin) ∧
  ((∀ (s : State) (c : Copy), c.state = .void → s.returnCopy c = s) ∧
  (∀ (s : State) (c : Copy), c.state ≠ .void → s.record c.source = none →
    let t := s.returnCopy c
    t.record c.source = some ⟨c.count, c.firstTime, c.lastTime, c.interval, c.detail⟩ ∧
      (∀ m, m ≠ c.source → t.record m = s.record m) ∧ t.tallies = s.tallies ∧ t.intervals = s.intervals ∧ OnlyStates s t) ∧
  (∀ (s : State) (c : Copy) (x : PendingRecord), c.state ≠ .void → s.record c.source = some x → c.count + x.count ≤ 65535 →
    s.returnCopy c = s.setRecord c.source (some ⟨c.count + x.count, c.firstTime, x.lastTime, c.interval, x.detail⟩)) ∧
  (∀ (s : State) (c : Copy) (x : PendingRecord), c.state ≠ .void → s.record c.source = some x → 65535 < c.count + x.count →
    let excess := c.count + x.count - 65535
    let merged := (s.setRecord c.source (some ⟨65535, c.firstTime, x.lastTime, c.interval, x.detail⟩)).updTally c.source fun y =>
      { y with lost := y.lost + BitVec.ofNat 32 excess }
    s.returnCopy c = if c.source = 209 then merged else merged.acceptMany 209 (some (BitVec.ofNat 16 c.source.val)) excess) ∧
  (∀ (s : State) (a : Assembly), a.kind = .event →
    (s.abortBundle a).run a.bundle =
      { s.run a.bundle with state := if s.pendingList a.bundle = [] then .idle else .ready }) ∧
  (∀ (s : State) (a : Assembly), a.kind = .reminder →
    s.abortBundle a =
      if (s.run a.bundle).state = .held ∧ (s.run a.bundle).token = a.token then
        s.updRun a.bundle fun x => { x with reminderDue := true }
      else s))

/-! ### Targets -/

/-- TARGET_ATTACH (R123, R165): the checks in their order, then the read of the consumer word with the command in hand; the answer of
that read gives the context of a target attached (R124), or the command fails and the target stays DETACHED. -/
def Obligations.TargetAttach : Prop :=
  (∀ (s : State) (r : SlotRead) (poll holdoff : Half) (descriptor : BitVec 64) (offset data : Word) (signal : Addr), Takes s r →
    let i := Instr.targetAttach r poll holdoff descriptor offset data signal
    let cmd := cmdOf r 0x30
    let u := s.taken r
    let code := descriptor.toNat / 8 % 16
    let ring : Addr := BitVec.ofNat 64 (descriptor.toNat / 512 * 512)
    let size := 16 * 2 ^ code
    let consumer := ring + offset.signExtend 64
    let bad := 8 < code ∨ ring.toNat % (size * 32) ≠ 0 ∨ consumer.toNat % 4 ≠ 0 ∨ signal.toNat % 4 ≠ 0
    (5 < descriptor.toNat % 8 → exec i s = .next (u.complete cmd .badArgument 0)) ∧
    ∀ k : TargetId, descriptor.toNat % 8 = k.val →
      ((s.target k).state ≠ .detached → exec i s = .next (u.complete cmd .badState 0)) ∧
      ((s.target k).state = .detached → bad → exec i s = .next (u.complete cmd .badArgument 0)) ∧
      ((s.target k).state = .detached → ¬ bad →
        ∃ t, exec i s = .next t ∧ OnlyCommandPath s t ∧
          t.proc = { u.proc with hand := some (.attach cmd ⟨k, ring, size, consumer, poll, signal, data, holdoff⟩) } ∧
          t.requests = u.requests ++ [⟨s.nextRequest, .attachRead, consumer, .read 4, 2000⟩])) ∧
  (∀ (s : State) (id : Nat) (cmd : CmdId) (a : AttachArgs), Awaits s id .attachRead → s.proc.hand = some (.attach cmd a) →
    (∃ t, exec (.targetAttachReadAnswer id (.done 0)) s = .next t ∧
      t.target a.target = ⟨.active, a.ringAddress, a.ringSize, a.consumerAddress, 0, 0, a.pollInterval, false, .stopped,
        a.signalAddress, a.signalData, true, a.holdoff, .stopped, false, false, false, .none⟩ ∧
      (∀ k, k ≠ a.target → t.target k = s.target k) ∧ t.fieldSide = s.fieldSide ∧ t.accounts = s.accounts ∧
      t.bundles = s.bundles ∧ t.assembler = s.assembler ∧ t.proc.hand = none ∧
      t.proc.completions = s.proc.completions ++ [⟨cmd, .ok, 0⟩]) ∧
    (∀ v, v ≠ 0 → ∃ t, exec (.targetAttachReadAnswer id (.done v)) s = .next t ∧
      t = ((s.endRequest id).complete cmd .badArgument (result1 v.toNat)).handDone ∧
      (∀ k, (t.target k).state = (s.target k).state) ∧
      t.proc.hand = none ∧ t.proc.completions = s.proc.completions ++ [⟨cmd, .badArgument, result1 v.toNat⟩]) ∧
    ∃ t, exec (.targetAttachReadAnswer id .refused) s = .next t ∧ OnlyCommandPath s t ∧ t.proc.hand = none ∧
      t.proc.completions = s.proc.completions ++ [⟨cmd, .busError, 0⟩])

/-- TARGET_QUIESCE and TARGET_RESUME (R103, R115, R125). A hold timer that is not STOPPED is PAUSED, with the time it has left, while
its bundle is not urgent and the bundle's target is QUIESCED, and RUNNING otherwise (R102, R103). -/
def Obligations.QuiesceAndResume : Prop :=
  ((∀ pause : Bool, HoldTimer.stopped.judged pause = .stopped) ∧
    (∀ (left : Nat) (x : HoldTimer), x = .running left ∨ x = .paused left →
      x.judged true = .paused left ∧ x.judged false = .running left) ∧
    ∀ (s : State) (b : BundleId), s.pausesHold b = true ↔
      (s.config b).urgent = false ∧ ∃ k, (s.config b).target = some k ∧ (s.target k).state = .quiesced) ∧
  ∀ (s : State) (r : SlotRead) (target : Byte), Takes s r →
    let moves (i : Instr) (cmd : CmdId) (source dest : TargetState) : Prop :=
      (5 < target.toNat → exec i s = .next ((s.taken r).complete cmd .badArgument 0)) ∧
      ∀ k : TargetId, target.toNat = k.val →
        ((s.target k).state ≠ source → exec i s = .next ((s.taken r).complete cmd .badState 0)) ∧
        ((s.target k).state = source →
          ∃ t, exec i s = .next t ∧ (t.target k).state = dest ∧ (t.target k).spaceWanted = t.shortOfSpace k ∧
            { t.target k with
              state := source, spaceWanted := (s.target k).spaceWanted, pollTimer := (s.target k).pollTimer } = s.target k ∧
            (∀ m, m ≠ k → t.target m = s.target m) ∧
            (∀ b, t.run b = { s.run b with holdTimer := (s.run b).holdTimer.judged (t.pausesHold b) }) ∧
            t.bundleConfig = s.bundleConfig ∧ t.fieldSide = s.fieldSide ∧ t.accounts = s.accounts ∧
            t.assembler = s.assembler ∧ Completes s t ⟨cmd, .ok, 0⟩)
    moves (.targetQuiesce r target) (cmdOf r 0x32) .active .quiesced ∧
      moves (.targetResume r target) (cmdOf r 0x33) .quiesced .active

/-- TARGET_DETACH as it is taken (R126, R144): at once, into the deferred table, or waiting for an entry of it. A target is busy while
an assembly for it, a consumer-word read of it or a signal write of it is outstanding (R126). That the completion of a detach carried out
at once joins after those of the DRAINs and FENCEs that it ends is the model's reading (log 39). -/
def Obligations.TargetDetach : Prop :=
  ∀ (s : State) (r : SlotRead) (target : Byte), Takes s r →
    let cmd := cmdOf r 0x31
    let u := s.taken r
    (5 < target.toNat → exec (.targetDetach r target) s = .next (u.complete cmd .badArgument 0)) ∧
    (∀ (v : State) (k : TargetId), v.targetBusy k = true ↔ (∃ a, v.assembly = some a ∧ a.target = k) ∨
      ∃ q ∈ v.requests, q.issuer = .consumerRead k ∨ q.issuer = .signal k) ∧
    ∀ k : TargetId, target.toNat = k.val →
      ((s.target k).state = .detached → exec (.targetDetach r target) s = .next (u.complete cmd .ok 0)) ∧
      ((s.target k).state ≠ .detached → u.targetBusy k = false →
        ∃ t, exec (.targetDetach r target) s = .next t ∧ (t.target k).state = .detached ∧
          t.accounts = (u.performDetach k).accounts ∧ t.bundles = (u.performDetach k).bundles ∧
          t.targets = (u.performDetach k).targets ∧ CompletesLast s t ⟨cmd, .ok, result1 (s.heldBundles k).length⟩) ∧
      ((s.target k).state ≠ .detached → u.targetBusy k = true → s.proc.deferred.length < 4 →
        ∃ t, exec (.targetDetach r target) s = .next t ∧
          t.proc = { u.proc with deferred := s.proc.deferred ++ [⟨cmd, .detach k, .stopped⟩] } ∧
          (t.target k).detachPending = true ∧ (t.target k).state = (s.target k).state ∧ t.accounts = s.accounts ∧
          t.bundles = s.bundles) ∧
      ((s.target k).state ≠ .detached → u.targetBusy k = true → 4 ≤ s.proc.deferred.length →
        ∃ t, exec (.targetDetach r target) s = .next t ∧ OnlyCommandPath s t ∧
          t.proc = { u.proc with state := .waiting .tableEntry, hand := some (.tableEntry cmd (.detach k)) })

/-- A detach carried out (R127): every HELD bundle of the target is released with its re-assertion checks (R100, R101), which make the
accounts what they are, and settles on READY or IDLE by its list; the target is DETACHED, its other fields kept; source 210 accepts
nothing. An IDLE bundle that a check gives a record becomes READY, and no other bundle changes. With one HELD bundle the accounts are
those of its release. That several are released in bundle order, the lowest first, is the model's choice (log 33). -/
def Obligations.DetachCarriedOut : Prop :=
  ∀ (s : State) (k : TargetId),
    let t := s.performDetach k
    t.target k = { s.target k with
      state := .detached, detachPending := false, armed := false, spaceWanted := false, signalOwed := false,
      rearmCheckPending := false, pollTimer := .stopped, holdoffTimer := .stopped } ∧
    (∀ b, b ∈ s.heldBundles k ↔ (s.config b).target = some k ∧ (s.run b).state = .held) ∧
    (∀ b, b ∈ s.heldBundles k →
      t.run b = ⟨if t.pendingList b = [] then .idle else .ready, (s.run b).token, [], 0, false, .stopped⟩) ∧
    (∀ b, b ∉ s.heldBundles k → ((s.run b).state ≠ .idle → t.run b = s.run b) ∧
      ((s.run b).state = .idle → { t.run b with state := .idle } = s.run b ∧
        (s.pendingList b = [] → (t.run b).state = if t.pendingList b = [] then .idle else .ready))) ∧
    t.accounts = (s.reassert ((s.heldBundles k).flatMap fun b => (s.run b).heldSet)).accounts ∧
    (∀ b, s.heldBundles k = [b] → t.accounts = (s.release b).accounts) ∧
    t.bundleConfig = s.bundleConfig ∧ t.tally 210 = s.tally 210 ∧ t.record 210 = s.record 210 ∧ t.fieldSide = s.fieldSide ∧
    t.assembler = s.assembler ∧ t.proc = s.proc

/-- DRAIN and FENCE as they are taken (R128, R144, R145). -/
def Obligations.DrainAndFence : Prop :=
  ∀ (s : State) (r : SlotRead), Takes s r →
    let u := s.taken r
    let waits (i : Instr) (cmd : CmdId) (what : DeferKind) (timer : Timer) : Prop :=
      (s.proc.deferred.length < 4 →
        ∃ t, exec i s = .next t ∧ OnlyCommandPath s t ∧ t.requests = u.requests ∧
          t.proc = { u.proc with deferred := s.proc.deferred ++ [⟨cmd, what, timer⟩] }) ∧
      (4 ≤ s.proc.deferred.length →
        ∃ t, exec i s = .next t ∧ OnlyCommandPath s t ∧ t.requests = u.requests ∧
          t.proc = { u.proc with state := .waiting .tableEntry, hand := some (.tableEntry cmd what) })
    (∀ target timeout, 5 < target.toNat →
      exec (.drain r target timeout) s = .next (u.complete (cmdOf r 0x35) .badArgument 0)) ∧
    (∀ (target : Byte) (timeout : Half) (k : TargetId), target.toNat = k.val →
      let met := ∀ b, (s.config b).target = some k → (s.config b).enabled = true → (s.run b).state = .idle
      (met → exec (.drain r target timeout) s = .next (u.complete (cmdOf r 0x35) .ok 0)) ∧
      (¬ met → waits (.drain r target timeout) (cmdOf r 0x35) (.drain k timeout)
        (if timeout = 0 then .stopped else .running (timeout.toNat * 1000)))) ∧
    (s.proc.deferred = [] → exec (.fence r) s = .next (u.complete (cmdOf r 0x40) .ok 0)) ∧
    (s.proc.deferred ≠ [] → waits (.fence r) (cmdOf r 0x40) .fence .stopped)

/-- One event ends the waits of deferred commands (R126, R128, R145): a DRAIN ends when the condition of its target is met, a
TARGET_DETACH when its target has been detached, a FENCE when no older entry is left. Those that end complete OK in table order, oldest
first, with result 0 but for the first TARGET_DETACH, whose result is the number of holds released; the others stay, in their order. A
DRAIN's timer expires: it completes TIMED_OUT with the number of enabled bundles of the target that are not IDLE, the FENCEs it held
back follow, and the freed entry serves the command that waits for one (R128, R129, R144). That a DRAIN whose condition was met earlier
within the event (`met`) ends too is the model's reading (log 11), and that the command that waits for an entry is judged after the
FENCEs is its choice (log 36). -/
def Obligations.DeferredWaitsEnd : Prop :=
  (∀ (s : State) (gone : Option TargetId) (holds : Nat) (met : List TargetId),
    let t := s.sweepDeferredFor gone holds met
    let ends (d : Deferred) : Bool :=
      match d.what with
      | .detach k => gone == some k
      | .drain k _ => s.drained k || met.contains k
      | .fence => false
    let table := s.proc.deferred
    let front := table.takeWhile fun d => ends d || d.what == .fence
    let back := table.dropWhile fun d => ends d || d.what == .fence
    let ended := front ++ back.filter ends
    let plain (d : Deferred) : Completion := ⟨d.cmd, .ok, 0⟩
    t.proc.deferred = back.filter (fun d => !ends d) ∧
    ((∀ d ∈ ended, ∀ k, d.what ≠ .detach k) → t.proc.completions = s.proc.completions ++ ended.map plain) ∧
    (∀ (before : List Deferred) (d : Deferred) (after : List Deferred) (k : TargetId), ended = before ++ d :: after →
      d.what = .detach k → (∀ x ∈ before, ∀ k, x.what ≠ .detach k) →
      t.proc.completions = s.proc.completions ++ before.map plain ++ ⟨d.cmd, .ok, result1 holds⟩ :: after.map plain) ∧
    OnlyCommandPath s t) ∧
  (∀ s : State, s.sweepDeferred = s.sweepDeferredFor none 0 []) ∧
  (∀ (s : State) (k : TargetId), (s.drained k = true ↔
      ∀ b, (s.config b).target = some k → (s.config b).enabled = true → (s.run b).state = .idle) ∧
    (k ∈ s.drainedTargets ↔ s.drained k = true) ∧
    s.notIdle k = (List.finRange 48).countP fun b : BundleId =>
      (s.config b).target == some k && (s.config b).enabled && (s.run b).state != .idle) ∧
  (∀ (s : State) (entry : Fin 4) (cmd : CmdId) (k : TargetId) (timeout : Half), s.resetting = false →
    s.proc.deferred[entry.val]? = some ⟨cmd, .drain k timeout, .running 0⟩ →
    exec (.drainTimerExpiry entry) s =
      .next (((s.updProc fun p => { p with deferred := p.deferred.eraseIdx entry.val }).pushCompletion
        ⟨cmd, .timedOut, result1 (s.notIdle k)⟩).sweepDeferred).settleHand)

/-- The answer of a consumer-word read (R116), what a valid or early one does to the target (R115), the pending rearm check that is made
after it and applies the signal rules where the ring holds unconsumed notifications (R122), and what a fault cause does
(R118): a target in service enters FAULTED and source 211 meets its occurrence; one that is not changes nothing. That the end of a
reservation is 1 plus the entry count past the produced index, and the order inside a valid answer, are the model's readings (logs 18
and 31). -/
def Obligations.ConsumerWordAndFault : Prop :=
  ((∀ (s : State) (id : Nat) (k : TargetId), Awaits s id (.consumerRead k) →
    let u := s.endRequest id
    let x := s.target k
    let early (v : Word) : Prop := ∃ a, s.assembly = some a ∧ a.target = k ∧ (v - x.produced).toNat ≤ 1 + a.copies.length
    (x.state = .active ∨ x.state = .quiesced →
      (∀ v, (v - x.consumed).toNat ≤ (x.produced - x.consumed).toNat →
        exec (.consumerWordReadAnswer id (.done v)) s = .next ((u.consumedMoved k v).afterTargetAnswer k)) ∧
      (∀ v, (x.produced - x.consumed).toNat < (v - x.consumed).toNat → early v →
        exec (.consumerWordReadAnswer id (.done v)) s = .next ((u.consumedMoved k x.produced).afterTargetAnswer k)) ∧
      (∀ v, (x.produced - x.consumed).toNat < (v - x.consumed).toNat → ¬ early v →
        exec (.consumerWordReadAnswer id (.done v)) s = .next ((u.faultTarget k .badConsumer).afterTargetAnswer k)) ∧
      exec (.consumerWordReadAnswer id .refused) s = .next ((u.faultTarget k .consumerRead).afterTargetAnswer k)) ∧
    (x.state = .detached ∨ x.state = .faulted →
      ∀ answer, exec (.consumerWordReadAnswer id answer) s = .next (u.afterTargetAnswer k))) ∧
  ∀ (s : State) (k : TargetId) (v : Word),
    let t := s.consumedMoved k v
    (t.target k).consumed = v ∧ (t.target k).produced = (s.target k).produced ∧ (t.target k).state = (s.target k).state ∧
      (t.target k).rearmCheckPending = false ∧ (t.target k).spaceWanted = t.shortOfSpace k ∧
      (∀ m, m ≠ k → t.target m = s.target m) ∧ t.fieldSide = s.fieldSide ∧ t.accounts = s.accounts ∧ t.bundles = s.bundles ∧
      t.proc = s.proc ∧
      let moved := (s.updTarget k fun x => { x with consumed := v }).rejudgeSpace k
      let checked := moved.updTarget k fun x => { x with rearmCheckPending := false }
      ((s.target k).rearmCheckPending = false → t = moved) ∧
      ((s.target k).rearmCheckPending = true → (s.target k).produced = v → t = checked) ∧
      ((s.target k).rearmCheckPending = true → (s.target k).produced ≠ v → t = checked.signalRules k)) ∧
  (∀ (s : State) (k : TargetId) (reason : FaultReason),
    let t := s.faultTarget k reason
    let x := s.target k
    ((x.state = .active ∨ x.state = .quiesced) →
      t.target k = { x with
        state := .faulted, faultReason := reason, spaceWanted := false, pollTimer := .stopped, holdoffTimer := .stopped,
        signalOwed := false, rearmCheckPending := false } ∧
      t.accounts = (s.accept 211 (some (BitVec.ofNat 16 k.val))).accounts ∧ t.bundleConfig = s.bundleConfig ∧
      t.fieldSide = s.fieldSide ∧ t.assembler = s.assembler ∧ t.proc = s.proc ∧
      ∀ b, (t.run b).holdTimer = (s.run b).holdTimer.judged (t.pausesHold b)) ∧
    (x.state = .detached ∨ x.state = .faulted → t = s))

/-- The signal rules and what issuing a signal does (R119); the answer of a signal write and the expiry of a holdoff timer (R120). -/
def Obligations.Signals : Prop :=
  (∀ (s : State) (k : TargetId),
    let x := s.target k
    let served := (x.state = .active ∨ x.state = .quiesced) ∧ x.armed = true
    (¬ served → s.signalRules k = s) ∧
    (served → x.holdoffTimer = .stopped → s.signalRules k = s.issueSignal k) ∧
    (served → x.holdoffTimer ≠ .stopped → s.signalRules k = s.updTarget k fun y => { y with signalOwed := true }) ∧
    let t := s.issueSignal k
    t.target k = { x with
      armed := false, signalOwed := false,
      holdoffTimer := if x.holdoff = 0 then .stopped else .running x.holdoff.toNat } ∧
    (∀ m, m ≠ k → t.target m = s.target m) ∧ t.signalWritesOutstanding k = s.signalWritesOutstanding k + 1 ∧
    t.requests = s.requests ++ [⟨s.nextRequest, .signal k, x.signalAddress, .write (leBytes 4 x.signalData.toNat), 2000⟩] ∧
    t.accounts = s.accounts ∧ t.bundles = s.bundles ∧ t.proc = s.proc ∧ t.fieldSide = s.fieldSide ∧ t.assembler = s.assembler) ∧
  ((∀ (s : State) (id : Nat) (k : TargetId), Awaits s id (.signal k) →
    exec (.signalWriteAnswer id .done) s = .next ((s.endRequest id).afterTargetAnswer k) ∧
    exec (.signalWriteAnswer id .refused) s = .next (((s.endRequest id).faultTarget k .signalWrite).afterTargetAnswer k)) ∧
  ∀ (s : State) (k : TargetId), s.resetting = false → (s.target k).holdoffTimer = .running 0 →
    let u := s.updTarget k fun x => { x with holdoffTimer := .stopped }
    ((s.target k).signalOwed = true → exec (.holdoffTimerExpiry k) s = .next (u.issueSignal k)) ∧
    ((s.target k).signalOwed = false → exec (.holdoffTimerExpiry k) s = .next u))

/-- ATTENTION (R121, R122): REFRESH on one target, REARM on one target, and the targets that a code names; space wanted and the poll
timer (R115). That ALL serves target 0 first is the model's choice (log 35). -/
def Obligations.AttentionAndSpace : Prop :=
  ((∀ (s : State) (k : TargetId),
    let x := s.target k
    ((x.state = .active ∨ x.state = .quiesced) ∧ x.detachPending = false ∧ s.consumerReadInFlight k = false →
      s.refreshTarget k = s.issueRequest (.consumerRead k) x.consumerAddress (.read 4)) ∧
    ((x.state = .detached ∨ x.state = .faulted) ∨ x.detachPending = true ∨ s.consumerReadInFlight k = true →
      s.refreshTarget k = s) ∧
    (x.state = .detached ∨ x.state = .faulted → ∀ refresh, s.rearmTarget refresh k = s) ∧
    (x.state = .active ∨ x.state = .quiesced →
      let u := s.updTarget k fun y => { y with armed := true }
      let unread := x.produced ≠ x.consumed
      (unread → s.rearmTarget false k = u.signalRules k) ∧ (¬ unread → s.rearmTarget false k = u) ∧
      (x.detachPending = false ∨ s.consumerReadInFlight k = true →
        s.rearmTarget true k = (u.refreshTarget k).updTarget k fun y => { y with rearmCheckPending := true }) ∧
      (x.detachPending = true → s.consumerReadInFlight k = false → s.rearmTarget true k = s.rearmTarget false k))) ∧
  ∀ (s : State) (code : BitVec 4) (refresh : Bool), s.resetting = false →
    (∀ k : TargetId, code.toNat = k.val →
      exec (.attentionRefresh code) s = .next (s.refreshTarget k) ∧
      exec (.attentionRearm code refresh) s = .next (s.rearmTarget refresh k)) ∧
    (code = 15 →
      exec (.attentionRefresh code) s = .next ([0, 1, 2, 3, 4, 5].foldl State.refreshTarget s) ∧
      exec (.attentionRearm code refresh) s = .next ([0, 1, 2, 3, 4, 5].foldl (State.rearmTarget refresh) s)) ∧
    (6 ≤ code.toNat → code.toNat ≤ 14 →
      exec (.attentionRefresh code) s = .next s ∧ exec (.attentionRearm code refresh) s = .next s)) ∧
  ((∀ (s : State) (k : TargetId),
    let x := s.target k
    let started : Timer := if x.pollInterval = 0 then .stopped else .running x.pollInterval.toNat
    (s.shortOfSpace k = true ↔ ∃ b, (s.config b).target = some k ∧ s.waitingReason b = .ringFull) ∧
    (s.shortOfSpace k = x.spaceWanted → s.rejudgeSpace k = s) ∧
    (s.shortOfSpace k = true → x.spaceWanted = false →
      s.rejudgeSpace k =
        (s.updTarget k fun y => { y with spaceWanted := true, pollTimer := started }).issueConsumerRead k) ∧
    (s.shortOfSpace k = false → x.spaceWanted = true →
      s.rejudgeSpace k = s.updTarget k fun y => { y with spaceWanted := false, pollTimer := .stopped })) ∧
  ∀ (s : State) (k : TargetId), s.resetting = false → (s.target k).pollTimer = .running 0 →
    let x := s.target k
    let u := s.updTarget k fun y =>
      { y with pollTimer := if y.spaceWanted = true ∧ y.pollInterval ≠ 0 then .running y.pollInterval.toNat else .stopped }
    exec (.pollTimerExpiry k) s = .next
      (if (x.state = .active ∨ x.state = .quiesced) ∧ x.detachPending = false ∧ s.consumerReadInFlight k = false then
        u.issueRequest (.consumerRead k) x.consumerAddress (.read 4)
      else u))

/-! ### The command path -/

/-- The processor takes a command (R137, R138): the read of the slot at the taken index, or WAITING and a read of the completion
consumer word where no completion slot can be reserved. The read refused halts it, and an answer that finds it no longer RUNNING, a
refusal or any of the commands, is discarded (R137). That COMMAND_TAKE changes nothing where the processor cannot take a command is the
model's choice (log 5). -/
def Obligations.CommandTake : Prop :=
  (∀ (s : State) (su : SetupBlock), s.resetting = false → s.proc.setup = some su →
    let p := s.proc
    let wants := p.state = .running ∧ p.hand = none ∧ s.inFlight .commandRead = false ∧ p.producer ≠ p.taken
    let reservable := p.deferred.length + p.completions.length < su.cplSize.toNat - (p.cplProduced - p.cplConsumed).toNat
    (¬ wants → exec .commandTake s = .next s) ∧
    (wants → reservable → exec .commandTake s = .next (s.issueRequest .commandRead
      (su.cmdRing + BitVec.ofNat 64 (p.taken.toNat % su.cmdSize.toNat * 32)) (.read 32))) ∧
    (wants → ¬ reservable →
      let u := s.updProc fun q => { q with state := .waiting .completionSpace }
      exec .commandTake s = .next (if s.inFlight .completionConsumerRead then u
        else u.issueRequest .completionConsumerRead su.cplConsumer (.read 4)))) ∧
  (∀ (s : State) (r : SlotRead), Awaits s r.req .commandRead →
    (s.proc.state = .running → exec (.commandReadRefused r.req) s = .next ((s.endRequest r.req).halt .cmdRead)) ∧
    (s.proc.state ≠ .running → exec (.commandReadRefused r.req) s = .next (s.endRequest r.req) ∧
      ∀ i, slotReadOf i = some r → exec i s = .next (s.endRequest r.req)))

/-- A completion joins the queue behind those decided before it, and is written at once when no completion write is outstanding;
BAD_KIND, BAD_ARGUMENT and BAD_STATE are occurrences for source 208 with the tag as detail (R139, R141). The answers of a completion
write and of a completion signal (R141, R142). That a rejected command's completion joins before source 208's occurrence is the model's
choice (log 38). -/
def Obligations.Completions : Prop :=
  (∀ (s : State) (cmd : CmdId) (status : Status) (result : BitVec 64),
    let c : Completion := ⟨cmd, status, result⟩
    let joined := s.pushCompletion c
    (s.complete cmd status result =
      if status = .badKind ∨ status = .badArgument ∨ status = .badState then joined.accept 208 (some cmd.tag) else joined) ∧
    joined.proc = { s.proc with completions := s.proc.completions ++ [c] } ∧ OnlyCommandPath s joined ∧
    (∀ su, s.proc.setup = some su → s.proc.completions = [] → s.inFlight .completionWrite = false →
      joined.requests = s.requests ++ [⟨s.nextRequest, .completionWrite,
        su.cplRing + BitVec.ofNat 64 (s.proc.cplProduced.toNat % su.cplSize.toNat * 16),
        .write (completionBytes (phase su.cplSize.toNat s.proc.cplProduced) c), 2000⟩]) ∧
    (s.inFlight .completionWrite = true ∨ s.proc.setup = none → joined.requests = s.requests)) ∧
  ((∀ (s : State) (id : Nat) (c : Completion) (rest : List Completion) (su : SetupBlock), Awaits s id .completionWrite →
    s.proc.completions = c :: rest → s.proc.setup = some su →
    let u := s.endRequest id
    (∃ t, exec (.completionWriteAnswer id .done) s = .next t ∧ OnlyCommandPath s t ∧
      t.proc = { s.proc with completions := rest, cplProduced := s.proc.cplProduced + 1 } ∧
      Issues s t id [.completionSignal, .completionWrite] ∧
      (u.inFlight .completionSignal = false →
        ((∃ q ∈ t.requests, q.issuer = .completionSignal) ↔ c.cmd.signal = true ∧ su.cplSignal ≠ 0) ∧
        ∀ q ∈ t.requests, q.issuer = .completionSignal →
          q.address = su.cplSignal ∧ q.access = .write (leBytes 4 su.signalData.toNat)) ∧
      (u.inFlight .completionWrite = false → ∀ d later, rest = d :: later →
        ∃ q ∈ t.requests, q.issuer = .completionWrite ∧
          q.address = su.cplRing + BitVec.ofNat 64 ((s.proc.cplProduced + 1).toNat % su.cplSize.toNat * 16) ∧
          q.access = .write (completionBytes (phase su.cplSize.toNat (s.proc.cplProduced + 1)) d))) ∧
    exec (.completionWriteAnswer id .refused) s =
      .next (((u.updProc fun p => { p with completions := rest }).halt .cplWrite).issueCompletion)) ∧
  ∀ (s : State) (id : Nat), Awaits s id .completionSignal →
    exec (.completionSignalAnswer id .done) s = .next (s.endRequest id) ∧
    exec (.completionSignalAnswer id .refused) s = .next ((s.endRequest id).halt .cplWrite))

/-- The answer of a completion consumer word read (R138). -/
def Obligations.CompletionConsumerAnswer : Prop :=
  (∀ (s : State) (id : Nat), Awaits s id .completionConsumerRead →
    let u := s.endRequest id
    let p := s.proc
    ((∃ why, p.state = .halted why) → ∀ answer, exec (.completionConsumerReadAnswer id answer) s = .next u) ∧
    ((∀ why, p.state ≠ .halted why) →
      (∀ v, (v - p.cplConsumed).toNat ≤ (p.cplProduced - p.cplConsumed).toNat →
        exec (.completionConsumerReadAnswer id (.done v)) s = .next (u.cplConsumedMoved v)) ∧
      (∀ v, (p.cplProduced - p.cplConsumed).toNat < (v - p.cplConsumed).toNat →
        (v - p.cplProduced).toNat ≤ u.outstanding .completionWrite →
        exec (.completionConsumerReadAnswer id (.done v)) s = .next (u.cplConsumedMoved p.cplProduced)) ∧
      (∀ v, (p.cplProduced - p.cplConsumed).toNat < (v - p.cplConsumed).toNat →
        u.outstanding .completionWrite < (v - p.cplProduced).toNat →
        exec (.completionConsumerReadAnswer id (.done v)) s = .next (u.halt .badCplConsumer)) ∧
      exec (.completionConsumerReadAnswer id .refused) s = .next (u.halt .badCplConsumer))) ∧
  ∀ (s : State) (v : Word),
    let u := s.updProc fun q => { q with cplConsumed := v }
    (s.proc.state = .waiting .completionSpace → u.canReserve = true →
      s.cplConsumedMoved v = (u.updProc fun q => { q with state := .running }).takeCommand) ∧
    (s.proc.state ≠ .waiting .completionSpace ∨ u.canReserve = false → s.cplConsumedMoved v = u)

/-- The setup read and its answer (R133, R136), and a halt cause (R147): the processor enters HALTED with the reason and source 208
meets its occurrence; in HALTED nothing changes. That a setup that loads in HALTED is held, the processor staying HALTED whether its
check passes or fails, is the model's reading (log 24). -/
def Obligations.SetupAndHalt : Prop :=
  ((∀ (s : State) (id : Nat), Awaits s id .setupRead →
    let u := s.endRequest id
    exec (.setupReadAnswer id .refused) s = .next (u.halt .setupRead) ∧
    (∀ b, setupValid b = false → exec (.setupReadAnswer id (.done b)) s = .next (u.halt .badSetup)) ∧
    (∀ b, setupValid b = true → (s.proc.producer - s.proc.taken).toNat ≤ b.cmdSize.toNat →
      (∀ why, s.proc.state ≠ .halted why) →
      exec (.setupReadAnswer id (.done b)) s = .next (u.updProc fun p =>
        { p with setup := some b, state := if s.enable then .running else .stopped })) ∧
    (∀ b, setupValid b = true → (∃ why, s.proc.state = .halted why) →
      exec (.setupReadAnswer id (.done b)) s = .next (u.updProc fun p => { p with setup := some b })) ∧
    (∀ b, setupValid b = true → b.cmdSize.toNat < (s.proc.producer - s.proc.taken).toNat →
      exec (.setupReadAnswer id (.done b)) s =
        .next ((u.updProc fun p => { p with setup := some b }).halt .badProducer))) ∧
  (∀ b : SetupBlock, setupValid b = true ↔
    (∃ k, k ≤ 8 ∧ b.cmdSize.toNat = 16 * 2 ^ k) ∧ (∃ k, k ≤ 8 ∧ b.cplSize.toNat = 16 * 2 ^ k) ∧
      b.cmdRing.toNat % (b.cmdSize.toNat * 32) = 0 ∧ b.cplRing.toNat % (b.cplSize.toNat * 16) = 0 ∧
      b.cplConsumer.toNat % 4 = 0 ∧ b.cplSignal.toNat % 4 = 0) ∧
  ∀ s : State,
    let address := s.setupAddrHi ++ s.setupAddrLo
    (address.toNat % 8 = 0 → s.issueSetupRead = s.issueRequest .setupRead address (.read 48)) ∧
    (address.toNat % 8 ≠ 0 → s.issueSetupRead = s.halt .badSetup)) ∧
  (∀ (s : State) (reason : HaltReason),
    ((∀ why, s.proc.state ≠ .halted why) →
      s.halt reason = (s.updProc fun p => { p with state := .halted reason }).accept 208 (some (BitVec.ofNat 16 reason.code)) ∧
        (s.halt reason).proc = { s.proc with state := .halted reason }) ∧
    ((∃ why, s.proc.state = .halted why) → s.halt reason = s))

/-- ENABLE takes a value (R148): back at 1 before the command in hand has finished, it cancels the stop. CMD_RESTART, the end of its
drain, and the answers of command-path requests that come during it, which only end their request (R149). That RESTART_DRAIN_COMPLETE
changes nothing where no restart goes on or a request of the command path remains is the model's choice (log 5). -/
def Obligations.EnableAndRestart : Prop :=
  (∀ (s : State) (value : Bool), s.resetting = false →
    let i := Instr.enable value
    let u := { s with enable := value }
    let at' (st : ProcState) : State := u.updProc fun p => { p with state := st }
    (value = s.enable → exec i s = .next s) ∧
    (value = true → s.enable = false → s.proc.state = .stopped → s.proc.setup.isSome → exec i s = .next (at' .running)) ∧
    (value = true → s.enable = false → s.proc.state = .stopped → s.proc.setup = none → s.inFlight .setupRead = false →
      s.proc.restarting = false → exec i s = .next u.issueSetupRead) ∧
    (value = true → s.enable = false → s.proc.state = .stopped → s.proc.setup = none →
      s.inFlight .setupRead = true ∨ s.proc.restarting = true → exec i s = .next u) ∧
    (value = false → s.enable = true → s.proc.state = .running → s.proc.hand = none → exec i s = .next (at' .stopped)) ∧
    (value = false → s.enable = true → s.proc.state = .waiting .completionSpace → exec i s = .next (at' .stopped)) ∧
    (value = false → s.enable = true → (s.proc.state = .running ∧ s.proc.hand ≠ none) ∨
      s.proc.state = .waiting .tableEntry ∨ s.proc.state = .waiting .assembly → exec i s = .next u) ∧
    (value = true → s.enable = false → s.proc.state = .running ∨ (∃ cause, s.proc.state = .waiting cause) →
      exec i s = .next u) ∧
    (value ≠ s.enable → (∃ why, s.proc.state = .halted why) → exec i s = .next u)) ∧
  (∀ (s : State) (id : Nat) (q : Request), s.resetting = false → s.proc.restarting = true → s.requestOf id = some q →
    q.issuer.commandPath = true → OnlyEnds s id q.issuer) ∧
  (∀ s : State, s.resetting = false →
    (∃ t, exec .cmdRestart s = .next t ∧ t.proc = ⟨.stopped, none, 0, 0, none, [], [], 0, 0, true⟩ ∧
      (∀ k, (t.target k).detachPending = false ∧ (t.target k).state = (s.target k).state) ∧ t.enable = s.enable ∧
      t.fieldSide = s.fieldSide ∧ t.accounts = s.accounts ∧ t.bundles = s.bundles ∧ t.assembler = s.assembler ∧
      ∀ q ∈ s.requests, q ∈ t.requests) ∧
    (s.proc.restarting = true → (∀ q ∈ s.requests, q.issuer.commandPath = false) →
      exec .restartDrainComplete s = .next (s.updProc fun p => { p with restarting := false }).issueSetupRead) ∧
    (s.proc.restarting = false ∨ (∃ q ∈ s.requests, q.issuer.commandPath = true) → exec .restartDrainComplete s = .next s))

/-- A CMD_PRODUCER write (R136), and CPL_REFRESH (R138). The model's readings: a write that leaves the value as it was issues no read
(log 32), and one that equals the taken index makes a processor that waits for completion space RUNNING, after the read (log 14). -/
def Obligations.ProducerAndRefresh : Prop :=
  ∀ (s : State) (value : Word), s.resetting = false →
    let u := s.updProc fun p => { p with producer := value }
    let read (su : SetupBlock) (x : State) : State :=
      if s.inFlight .completionConsumerRead then x else x.issueRequest .completionConsumerRead su.cplConsumer (.read 4)
    ((∃ why, s.proc.state = .halted why) ∨ s.proc.setup = none → exec (.cmdProducer value) s = .next u) ∧
    ((∀ why, s.proc.state ≠ .halted why) → ∀ su, s.proc.setup = some su →
      (su.cmdSize.toNat < (value - s.proc.taken).toNat → exec (.cmdProducer value) s = .next (u.halt .badProducer)) ∧
      ((value - s.proc.taken).toNat ≤ su.cmdSize.toNat → s.proc.state ≠ .waiting .completionSpace ∨ value = s.proc.producer →
        exec (.cmdProducer value) s = .next u) ∧
      ((value - s.proc.taken).toNat ≤ su.cmdSize.toNat → s.proc.state = .waiting .completionSpace → value ≠ s.proc.producer →
        value ≠ s.proc.taken → exec (.cmdProducer value) s = .next (read su u)) ∧
      (s.proc.state = .waiting .completionSpace → value ≠ s.proc.producer → value = s.proc.taken →
        exec (.cmdProducer value) s = .next ((read su u).updProc fun p => { p with state := .running }))) ∧
    ((∃ why, s.proc.state = .halted why) ∨ s.proc.setup = none → exec .cplRefresh s = .next s) ∧
    ((∀ why, s.proc.state ≠ .halted why) → ∀ su, s.proc.setup = some su → exec .cplRefresh s = .next (read su s))

/-- ABORT (R146): the oldest deferred command with the tag leaves the table as ABORTED with result 0, then complete, OK with result 0,
the FENCEs left with nothing older (R145), then the ABORT with the kind code of the command aborted. Detach pending of an aborted
TARGET_DETACH's target becomes no, unless another TARGET_DETACH of it is in the table, and space wanted follows (R115, R127). A DRAIN
whose condition is already met would end with the FENCEs (R128; log 11). -/
def Obligations.Abort : Prop :=
  ∀ (s : State) (r : SlotRead) (tag : Half), Takes s r →
    let cmd := cmdOf r 0x41
    ((∀ d ∈ s.proc.deferred, d.cmd.tag ≠ tag) → exec (.abort r tag) s = .next ((s.taken r).complete cmd .notFound 0)) ∧
    ∀ (older later : List Deferred) (d : Deferred), s.proc.deferred = older ++ d :: later → d.cmd.tag = tag →
      (∀ x ∈ older, x.cmd.tag ≠ tag) →
      let table := older ++ later
      let ends (x : Deferred) : Bool :=
        match x.what with
        | .drain k _ => s.drained k
        | .detach _ | .fence => false
      let front := table.takeWhile fun x => ends x || x.what == .fence
      let back := table.dropWhile fun x => ends x || x.what == .fence
      let plain (x : Deferred) : Completion := ⟨x.cmd, .ok, 0⟩
      ∃ t, exec (.abort r tag) s = .next t ∧
        t.proc.completions = s.proc.completions ++ [⟨d.cmd, .aborted, 0⟩] ++ (front ++ back.filter ends).map plain ++
          [⟨cmd, .ok, result1 d.cmd.kind.toNat⟩] ∧
        t.proc.deferred = back.filter (fun x => !ends x) ∧
        ((∀ x ∈ table, ends x = false) →
          t.proc.deferred = table.dropWhile (fun x => x.what == .fence) ∧
          t.proc.completions = s.proc.completions ++ [⟨d.cmd, .aborted, 0⟩] ++ (table.takeWhile fun x => x.what == .fence).map plain ++
            [⟨cmd, .ok, result1 d.cmd.kind.toNat⟩]) ∧
        t.proc.taken = s.proc.taken + 1 ∧ t.proc.hand = s.proc.hand ∧ t.proc.state = s.proc.state ∧
        (∀ k, d.what = .detach k → (∀ x ∈ table, x.what ≠ .detach k) →
          (t.target k).detachPending = false ∧ ((s.target k).detachPending = true → (t.target k).spaceWanted = t.shortOfSpace k)) ∧
        (∀ k, d.what ≠ .detach k ∨ (∃ x ∈ table, x.what = .detach k) → t.target k = s.target k) ∧
        (∀ k, { t.target k with
          detachPending := (s.target k).detachPending, spaceWanted := (s.target k).spaceWanted
          pollTimer := (s.target k).pollTimer } = s.target k) ∧
        t.fieldSide = s.fieldSide ∧ t.accounts = s.accounts ∧ t.bundles = s.bundles ∧ t.assembler = s.assembler

/-! ### The host link -/

/-- CLEAR_COUNTS (R156): the stale count, and nothing else, becomes 0; with a stale ACK_PORT write the order decides; it is ignored
during a device reset. -/
def Obligations.ClearCounts : Prop :=
  (∀ s : State, s.resetting = false →
    exec .clearCounts s = .next { s with staleCount := 0 } ∧
    ∀ (bundle : Byte) (token : Half),
      (∀ b : BundleId, bundle.toNat = b.val → (s.run b).state ≠ .held ∨ token ≠ (s.run b).token) →
      (∃ t, exec (.ackPort bundle token) s = .next t ∧ exec .clearCounts t = .next { t with staleCount := 0 }) ∧
      (∃ u, exec (.ackPort bundle token) { s with staleCount := 0 } = .next u ∧ u.staleCount = 1)) ∧
  ∀ s : State, s.resetting = true → exec .clearCounts s = .next s ∧
    ∀ value : Word, value.getLsbD 1 = false → exec (.registerWrite 0x04 32 value) s = .next s

/-- A host write of the window (R153, R154, R157, R161), in terms of the rows for the single registers; what host reads answer (R153,
R155, R161), with STATUS's items at their places and in the codes of 10. That an ATTENTION write with CPL_REFRESH does it after REFRESH
or REARM is the model's choice (log 35). -/
def Obligations.RegisterWindow : Prop :=
  (∀ (s : State) (value : Word),
    let i (offset : Nat) := Instr.registerWrite offset 32 value
    (∀ offset bits, bits ≠ 32 → exec (.registerWrite offset bits value) s = .next s) ∧
    (∀ offset, offset ∉ [0x04, 0x0C, 0x10, 0x14, 0x18, 0x1C] → exec (i offset) s = .next s) ∧
    (s.resetting = true → ∀ offset, exec (i offset) s = .next s) ∧
    (s.resetting = false →
      (value.getLsbD 1 = true → exec (i 0x04) s = exec .deviceReset s) ∧
      (value.getLsbD 1 = false → value.getLsbD 2 = false → value.getLsbD 3 = false →
        exec (i 0x04) s = exec (.enable (value.getLsbD 0)) s) ∧
      (value.getLsbD 1 = false → value.getLsbD 2 = true → value.getLsbD 3 = false →
        ∃ t, exec (.enable (value.getLsbD 0)) s = .next t ∧ exec (i 0x04) s = exec .cmdRestart t) ∧
      (value.getLsbD 1 = false → value.getLsbD 2 = true → value.getLsbD 3 = true →
        ∃ t, exec (.enable (value.getLsbD 0)) { s with staleCount := 0 } = .next t ∧ exec (i 0x04) s = exec .cmdRestart t) ∧
      (value.getLsbD 1 = false → value.getLsbD 2 = false → value.getLsbD 3 = true →
        exec (i 0x04) s = exec (.enable (value.getLsbD 0)) { s with staleCount := 0 }) ∧
      exec (i 0x0C) s = .next { s with setupAddrLo := value } ∧ exec (i 0x10) s = .next { s with setupAddrHi := value } ∧
      exec (i 0x14) s = exec (.cmdProducer value) s ∧
      (value.getLsbD 10 = false → value.getLsbD 9 = true →
        exec (i 0x18) s = exec (.attentionRearm (value.setWidth 4) (value.getLsbD 8)) s) ∧
      (value.getLsbD 10 = false → value.getLsbD 9 = false → value.getLsbD 8 = true →
        exec (i 0x18) s = exec (.attentionRefresh (value.setWidth 4)) s) ∧
      (value.getLsbD 10 = true → value.getLsbD 9 = false → value.getLsbD 8 = false → exec (i 0x18) s = exec .cplRefresh s) ∧
      (value.getLsbD 10 = true → value.getLsbD 9 = true →
        ∃ t, exec (.attentionRearm (value.setWidth 4) (value.getLsbD 8)) s = .next t ∧ exec (i 0x18) s = exec .cplRefresh t) ∧
      (value.getLsbD 10 = true → value.getLsbD 9 = false → value.getLsbD 8 = true →
        ∃ t, exec (.attentionRefresh (value.setWidth 4)) s = .next t ∧ exec (i 0x18) s = exec .cplRefresh t) ∧
      (value.getLsbD 10 = false → value.getLsbD 9 = false → value.getLsbD 8 = false → exec (i 0x18) s = .next s) ∧
      exec (i 0x1C) s = exec (.ackPort (value.extractLsb' 16 8) (value.setWidth 16)) s)) ∧
  (ProcState.stopped.code = 0 ∧ ProcState.running.code = 1 ∧ (∀ cause, (ProcState.waiting cause).code = 2) ∧
    (∀ why, (ProcState.halted why).code = 3 ∧ (ProcState.halted why).haltCode = why.code) ∧ ProcState.stopped.haltCode = 0 ∧
    ProcState.running.haltCode = 0 ∧ (∀ cause, (ProcState.waiting cause).haltCode = 0) ∧
    [HaltReason.setupRead, .badSetup, .badProducer, .badCplConsumer, .cmdRead, .cplWrite].map HaltReason.code =
      [1, 2, 3, 4, 5, 6]) ∧
  (∀ s : State,
    s.windowRead 0x00 32 = 0xEC360001#32 ∧ s.windowRead 0x08 32 = s.statusWord ∧
    (∀ offset bits, bits ≠ 32 → s.windowRead offset bits = 0) ∧
    (∀ offset, offset ∉ [0x00, 0x04, 0x08, 0x0C, 0x10, 0x14] → s.windowRead offset 32 = 0) ∧
    (s.resetting = true → ∀ offset, offset ≠ 0x00 → offset ≠ 0x08 → s.windowRead offset 32 = 0) ∧
    (s.resetting = false → s.windowRead 0x04 32 = (if s.enable then 1 else 0) ∧ s.windowRead 0x0C 32 = s.setupAddrLo ∧
      s.windowRead 0x10 32 = s.setupAddrHi ∧ s.windowRead 0x14 32 = s.proc.producer) ∧
    (s.staleCount ≤ 255 →
      (s.statusWord.extractLsb' 0 2).toNat = s.proc.state.code ∧ (s.statusWord.extractLsb' 4 3).toNat = s.proc.state.haltCode ∧
      (∀ k : TargetId, s.statusWord.getLsbD (8 + k.val) = true ↔ (s.target k).state = .faulted) ∧
      (s.statusWord.extractLsb' 16 8).toNat = s.staleCount ∧ s.statusWord.getLsbD 31 = s.resetting))

/-- Resets (R158, R160, R162, R163): a device reset or a link loss only sets RESETTING; it ends, with every block at its reset values,
once no request remains. Power-on begins such a reset: RESETTING yes, nothing outstanding, the timebase 0; RESET_END, the part's own
next step on an empty queue (log 2), ends it with RESETTING no and the timebase 0. During a device reset (R158, R159, R161): a line's sampled level
follows its pin, an answer or a timeout only ends its request, and no timer, register write or start has an effect. The model's
choices: RESET_END outside its moment changes nothing (log 5), and at POWER_ON every block has its reset values already at the beginning of
the reset, the requests are dropped, and the queue, the model's counters and the pins' levels are kept (log 20). -/
def Obligations.Resets : Prop :=
  (∀ s : State,
    exec .deviceReset s = .next { s with resetting := true } ∧ exec .linkLoss s = .next { s with resetting := true } ∧
    (s.resetting = false ∨ s.requests ≠ [] → exec .resetEnd s = .next s) ∧
    let fresh (now : Time) (t : State) : Prop :=
      t.timebase = now ∧ (∀ l, t.line l = ⟨(s.line l).sampled, (s.line l).sampled, .stable⟩) ∧
        { t with
          pending := State.reset.pending, timebase := State.reset.timebase, lines := State.reset.lines
          nextRequest := State.reset.nextRequest, choices := State.reset.choices } = State.reset ∧
        t.own = s.own
    (s.resetting = true → s.requests = [] → ∃ t, exec .resetEnd s = .next t ∧ fresh s.timebase t) ∧
    ∃ t, exec .powerOn s = .next t ∧ t.resetting = true ∧ t.requests = [] ∧ t.nextRequest = s.nextRequest ∧
      fresh 0 { t with resetting := false } ∧ (∃ u, exec .resetEnd t = .next u ∧ fresh 0 u) ∧
      (s.pending = [] → step t = .next { t with pending := [.resetEnd], choices := t.choices + 1 })) ∧
  (∀ s : State, s.resetting = true →
    (∀ l, exec (.sampledLevelChange l) s = .next (s.setLine l { s.line l with sampled := (s.line l).sampled.other })) ∧
    (∀ id, exec (.drainedAnswerDiscard id) s = .next (s.endRequest id)) ∧
    (∀ id q, s.requestOf id = some q → q.timeout = 0 → exec (.hostRequestTimeout id) s = .next (s.endRequest id)) ∧
    (∀ i ∈ [Instr.deviceReset, .linkLoss, .enable true, .enable false, .cmdRestart, .restartDrainComplete, .clearCounts,
        .cplRefresh, .commandTake, .eventAssemblyStart, .reminderAssemblyStart, .firstWriteIssue], exec i s = .next s) ∧
    (∀ l, exec (.qualificationExpiry l) s = .next s) ∧ (∀ b, exec (.holdTimerExpiry b) s = .next s) ∧
    (∀ k, exec (.pollTimerExpiry k) s = .next s ∧ exec (.holdoffTimerExpiry k) s = .next s) ∧
    (∀ e, exec (.drainTimerExpiry e) s = .next s) ∧ (∀ v, exec (.cmdProducer v) s = .next s) ∧
    (∀ b token, exec (.ackPort b token) s = .next s) ∧
    (∀ code refresh, exec (.attentionRefresh code) s = .next s ∧ exec (.attentionRearm code refresh) s = .next s) ∧
    ∀ id q, s.requestOf id = some q → OnlyEnds s id q.issuer)

/-- Requests without an answer in time (R151, R152): when the 2 ms have run, the issuer is handed REFUSED; an answer that finds no
record changes nothing. The model's choices: that a timeout that is not due changes nothing (logs 4 and 5), and so LATE_ANSWER_DISCARD
with a record and DRAINED_ANSWER_DISCARD outside a reset (log 5). -/
def Obligations.RequestTimeouts : Prop :=
  (∀ (s : State) (id : Nat) (q : Request), s.requestOf id = some q → q.timeout = 0 → s.resetting = false →
    ∃ t, exec (.hostRequestTimeout id) s = .next t ∧ .next t =
      match q.issuer with
      | .assembly => exec (.assemblyAbort id) s
      | .consumerRead _ => exec (.consumerWordReadAnswer id .refused) s
      | .signal _ => exec (.signalWriteAnswer id .refused) s
      | .commandRead => exec (.commandReadRefused id) s
      | .replyWrite => exec (.replyWriteAnswer id .refused) s
      | .attachRead => exec (.targetAttachReadAnswer id .refused) s
      | .completionWrite => exec (.completionWriteAnswer id .refused) s
      | .completionSignal => exec (.completionSignalAnswer id .refused) s
      | .completionConsumerRead => exec (.completionConsumerReadAnswer id .refused) s
      | .setupRead => exec (.setupReadAnswer id .refused) s) ∧
  (∀ (s : State) (id : Nat) (q : Request), s.requestOf id = some q → q.timeout ≠ 0 → exec (.hostRequestTimeout id) s = .next s) ∧
  (∀ (s : State) (id : Nat), exec (.lateAnswerDiscard id) s = .next s) ∧
  (∀ (s : State) (id : Nat), s.requestOf id = none →
    (∀ a, exec (.replyWriteAnswer id a) s = .next s) ∧ (∀ a, exec (.signalWriteAnswer id a) s = .next s) ∧
    (∀ a, exec (.consumerWordReadAnswer id a) s = .next s) ∧ (∀ a, exec (.setupReadAnswer id a) s = .next s) ∧
    (∀ a, exec (.targetAttachReadAnswer id a) s = .next s) ∧ (∀ a, exec (.completionWriteAnswer id a) s = .next s) ∧
    (∀ a, exec (.completionSignalAnswer id a) s = .next s) ∧ (∀ a, exec (.completionConsumerReadAnswer id a) s = .next s) ∧
    exec (.entryWriteDone id) s = .next s ∧ exec (.commit id) s = .next s ∧ exec (.assemblyAbort id) s = .next s ∧
    (∀ i r, slotReadOf i = some r → r.req = id → exec i s = .next s) ∧
    exec (.commandReadRefused id) s = .next s ∧ exec (.hostRequestTimeout id) s = .next s) ∧
  ∀ (s : State) (id : Nat), s.resetting = false → exec (.drainedAnswerDiscard id) s = .next s

/-- The invariants of the other statements hold in the state after power-on. -/
def Obligations.InvariantsHoldAtReset : Prop :=
  Balanced State.reset ∧ ListsInStep State.reset ∧ HoldsInStep State.reset ∧ CountsInRange State.reset ∧
    OneRequestEach State.reset ∧ TablesBounded State.reset ∧ LinesSettled State.reset ∧ CopiesDistinct State.reset ∧
    RingsInRange State.reset ∧ ReservationsFit State.reset ∧ BundlesStand State.reset

/-! ### The command slot -/

/-- Every command of the ring, with every value of its operands, is the command that its slot's 32 bytes hold (R137, R139, R164;
command slot table of 10). -/
def Obligations.SlotRoundTrip : Prop :=
  ∀ (i : Instr) (req : Nat) (slot : List Byte), i.wellFormed = true → encodeSlot i = some (req, slot) →
    slot.length = 32 ∧ decodeSlot req slot = some i

/-! ### The ends of waits -/

/-- What ends with an event, beyond the event's own effect. After the answer of a target's read or signal: a pending detach is carried
out once nothing of the target is outstanding (R126, R127), and then the command in hand that waits for an entry of the deferred table
is judged again by its own rule, if there is one (R144). After the end of an assembly: the deferred commands first, and then the
command in hand, a BUNDLE_SET that waited for this end (R67) or a command that waits for an entry. The order is the model's reading
(log 15), and so is that a DRAIN met by the write of the BUNDLE_SET's fields completes even where the detach after it unmeets it
(log 11). -/
def Obligations.WaitsEnd : Prop :=
  (∀ (s : State) (k : TargetId) (met : List TargetId),
    let due := (s.target k).detachPending = true ∧ s.targetBusy k = false
    let carried (met : List TargetId) : State := (s.performDetach k).sweepDeferredFor (some k) (s.heldBundles k).length met
    (due → s.afterTargetAnswer k = (carried []).settleHand) ∧ (¬ due → s.afterTargetAnswer k = s.settleHand) ∧
    (due → s.endWaits k met = carried met) ∧ (¬ due → s.endWaits k met = s.sweepDeferredFor none 0 met)) ∧
  ((∀ s : State, (∀ cmd what, s.proc.hand ≠ some (.tableEntry cmd what)) ∨ 4 ≤ s.proc.deferred.length → s.settleHand = s) ∧
    ∀ (s : State) (cmd : CmdId) (what : DeferKind), s.proc.hand = some (.tableEntry cmd what) → s.proc.deferred.length < 4 →
      let u := s.updProc fun p => { p with hand := none }
      let entered (timer : Timer) : State := u.updProc fun p => { p with deferred := p.deferred ++ [⟨cmd, what, timer⟩] }
      (what = .fence → s.proc.deferred = [] → s.settleHand = (u.complete cmd .ok 0).handDone) ∧
      (what = .fence → s.proc.deferred ≠ [] → s.settleHand = (entered .stopped).handDone) ∧
      (∀ k timeout, what = .drain k timeout →
        (s.drained k = true → s.settleHand = (u.complete cmd .ok 0).handDone) ∧
        (s.drained k = false →
          s.settleHand = (entered (if timeout = 0 then .stopped else .running (timeout.toNat * 1000))).handDone)) ∧
      ∀ k, what = .detach k →
        ((s.target k).state = .detached → s.settleHand = (u.complete cmd .ok 0).handDone) ∧
        ((s.target k).state ≠ .detached → s.targetBusy k = true →
          s.settleHand =
            (((entered .stopped).updTarget k fun x => { x with detachPending := true }).rejudgeSpace k).handDone) ∧
        ((s.target k).state ≠ .detached → s.targetBusy k = false →
          s.settleHand = (((u.performDetach k).sweepDeferredFor (some k) 0 []).complete cmd .ok
            (result1 (s.heldBundles k).length)).handDone)) ∧
  (∀ s : State, s.handDone = (s.updProc fun p => { p with hand := none, state := s.handDone.proc.state }) ∧
    ((∃ why, s.proc.state = .halted why) → s.handDone.proc.state = s.proc.state) ∧
    ((∀ why, s.proc.state ≠ .halted why) → s.handDone.proc.state = if s.enable then .running else .stopped)) ∧
  ∀ (s : State) (a : Assembly) (met : List TargetId),
    ((∀ cmd b c, s.proc.hand ≠ some (.assembly cmd b c)) → s.afterAssembly a met = (s.endWaits a.target met).settleHand) ∧
    ∀ (cmd : CmdId) (b : BundleId) (c : BundleConfig), s.proc.hand = some (.assembly cmd b c) →
      let x := s.run b
      let applies := x.state = .off ∨ x.state = .idle ∨ x.state = .ready ∨ (c.enabled = true ∧ c.target = (s.config b).target)
      let settled := if s.pendingList b = [] then BundleState.idle else .ready
      let w := s.writeBundleSet b c
      (x.state = .assembling → s.afterAssembly a met = s.endWaits a.target met) ∧
      (x.state ≠ .assembling → applies →
        s.afterAssembly a met = ((w.endWaits a.target (met ++ w.drainedTargets)).complete cmd .ok
          (result1 (w.run b).state.code)).handDone) ∧
      (x.state ≠ .assembling → ¬ applies →
        s.afterAssembly a met = ((s.endWaits a.target met).complete cmd .badState 0).handDone) ∧
      w.config b = c ∧ (∀ k, k ≠ b → w.config k = s.config k ∧ w.run k = s.run k) ∧
      (w.run b).state =
        (if c.enabled then (if x.state = .off then settled else x.state)
          else if x.state = .idle ∨ x.state = .ready then .off else x.state) ∧
      { w.run b with state := x.state, holdTimer := x.holdTimer } = x ∧
      (w.run b).holdTimer = x.holdTimer.judged (w.pausesHold b) ∧ w.accounts = s.accounts ∧ w.fieldSide = s.fieldSide ∧
      w.assembler = s.assembler ∧ w.proc = s.proc
end

