-- ==== Sys2Proof/Laws/Answers.lean ====
section
/-! SUPPORT. Sys2Proof/Laws/Answers.lean: what an answer, a command and a live step do when the state lets them through, and when it
does not. -/
namespace Sys2Proof.Machine

open State

theorem live_eq {f : State → State} {s : State} (h : s.resetting = false) : live f s = f s := by simp [live, h]

theorem live_resetting {f : State → State} {s : State} (h : s.resetting = true) : live f s = s := by simp [live, h]

/-- An awaited answer ends its request and reaches its issuer (R151). -/
theorem answer_awaited {s : State} {id : Nat} {who : Issuer} {mine : Issuer → Bool} {handler : Issuer → State → State}
    (h : Awaits s id who) (hm : mine who = true) : s.answer id mine handler = handler who (s.endRequest id) := by
  obtain ⟨h1, h2, h3⟩ := h
  rw [Option.map_eq_some_iff] at h1
  obtain ⟨r, hr, rfl⟩ := h1
  simp only [State.answer, hr, hm, h2, Bool.false_or, if_true]
  cases hp : r.issuer.commandPath with
  | false => simp
  | true => simp [h3 hp]

/-- An answer that finds no record changes nothing (R152). -/
theorem answer_late {s : State} {id : Nat} {mine : Issuer → Bool} {handler : Issuer → State → State} (h : s.requestOf id = none) :
    s.answer id mine handler = s := by simp [State.answer, h]

/-- A discarded answer only ends its request: during a device reset (R159), and for the command path during a restart (R149). -/
theorem answer_discarded {s : State} {id : Nat} {q : Request} {mine : Issuer → Bool} {handler : Issuer → State → State}
    (h : s.requestOf id = some q) (hm : mine q.issuer = true)
    (hd : s.resetting = true ∨ (s.proc.restarting = true ∧ q.issuer.commandPath = true)) :
    s.answer id mine handler = s.endRequest id := by
  unfold State.answer
  simp only [h, hm, if_true]
  rw [if_pos]
  rcases hd with a | ⟨a, b⟩ <;> simp [*]

/-- A command that the processor takes is executed on the state with the read ended and the taken index advanced (R137). -/
theorem command_taken {s : State} {r : SlotRead} {execute : State → State} (h : Takes s r) :
    s.commandAnswer r execute = execute (s.taken r) := by
  unfold State.commandAnswer
  rw [answer_awaited h.1 (by decide)]
  have hr : (s.endRequest r.req).proc.state = .running := h.2
  rw [if_pos hr]
  rfl

/-- A command that finds the processor no longer RUNNING only ends its read (R137). -/
theorem command_discarded {s : State} {r : SlotRead} {execute : State → State} (h : Awaits s r.req .commandRead)
    (hs : s.proc.state ≠ .running) : s.commandAnswer r execute = s.endRequest r.req := by
  unfold State.commandAnswer
  rw [answer_awaited h rfl]
  have hr : (s.endRequest r.req).proc.state ≠ .running := hs
  rw [if_neg hr]

/-- Each command of the ring is the answer of its slot's read (R137). -/
theorem exec_slot {i : Instr} {r : SlotRead} (h : slotReadOf i = some r) :
    ∃ execute : State → State, ∀ s, exec i s = .next (s.commandAnswer r execute) := by
  cases i <;> simp only [slotReadOf, Option.some.injEq, reduceCtorEq] at h <;> subst h <;> exact ⟨_, fun _ => rfl⟩

/-! ### What an answer, a command or a live step keeps -/

/-- An answer keeps what the end of a request and its handler keep. -/
theorem answer_kept {α : Type} (g : State → α) (he : ∀ (u : State) id, g (u.endRequest id) = g u) {s : State} {i : Nat}
    {p : Issuer → Bool} {f : Issuer → State → State} (h : ∀ w u, p w = true → g (f w u) = g u) : g (s.answer i p f) = g s := by
  unfold State.answer
  split
  · split
    · rename_i hw
      split
      · exact he _ _
      · rw [h _ _ hw, he]
    · rfl
  · rfl

/-- A command keeps what the taking of it and its execution keep. -/
theorem command_kept {α : Type} (g : State → α) (he : ∀ (u : State) id, g (u.endRequest id) = g u)
    (hp : ∀ (u : State) f, g (u.updProc f) = g u) {s : State} {r : SlotRead} {f : State → State} (h : ∀ u, g (f u) = g u) :
    g (s.commandAnswer r f) = g s := by
  refine answer_kept g he fun w u _ => ?_
  split
  · rw [h, hp]
  · rfl

theorem live_kept {α : Type} (g : State → α) {s : State} {f : State → State} (h : g (f s) = g s) : g (live f s) = g s := by
  unfold live
  split
  · rfl
  · exact h

end Sys2Proof.Machine
end

