-- ==== Sys2Proof/Laws/State.lean ====
section
/-! SUPPORT. Sys2Proof/Laws/State.lean: what each writer of Access.lean does to each field and to each reader of State, one lemma
per field, and what the readers answer after the writer of their own array. -/
namespace Sys2Proof.Machine.State

variable (s : State)

/-! ### setLine -/

@[simp] theorem setLine_pending (l : LineId) (x : Line) : (s.setLine l x).pending = s.pending := rfl
@[simp] theorem setLine_timebase (l : LineId) (x : Line) : (s.setLine l x).timebase = s.timebase := rfl
@[simp] theorem setLine_routes (l : LineId) (x : Line) : (s.setLine l x).routes = s.routes := rfl
@[simp] theorem setLine_intervals (l : LineId) (x : Line) : (s.setLine l x).intervals = s.intervals := rfl
@[simp] theorem setLine_records (l : LineId) (x : Line) : (s.setLine l x).records = s.records := rfl
@[simp] theorem setLine_tallies (l : LineId) (x : Line) : (s.setLine l x).tallies = s.tallies := rfl
@[simp] theorem setLine_bundleConfig (l : LineId) (x : Line) : (s.setLine l x).bundleConfig = s.bundleConfig := rfl
@[simp] theorem setLine_bundleRun (l : LineId) (x : Line) : (s.setLine l x).bundleRun = s.bundleRun := rfl
@[simp] theorem setLine_assembly (l : LineId) (x : Line) : (s.setLine l x).assembly = s.assembly := rfl
@[simp] theorem setLine_roundRobin (l : LineId) (x : Line) : (s.setLine l x).roundRobin = s.roundRobin := rfl
@[simp] theorem setLine_targets (l : LineId) (x : Line) : (s.setLine l x).targets = s.targets := rfl
@[simp] theorem setLine_proc (l : LineId) (x : Line) : (s.setLine l x).proc = s.proc := rfl
@[simp] theorem setLine_enable (l : LineId) (x : Line) : (s.setLine l x).enable = s.enable := rfl
@[simp] theorem setLine_setupAddrLo (l : LineId) (x : Line) : (s.setLine l x).setupAddrLo = s.setupAddrLo := rfl
@[simp] theorem setLine_setupAddrHi (l : LineId) (x : Line) : (s.setLine l x).setupAddrHi = s.setupAddrHi := rfl
@[simp] theorem setLine_staleCount (l : LineId) (x : Line) : (s.setLine l x).staleCount = s.staleCount := rfl
@[simp] theorem setLine_resetting (l : LineId) (x : Line) : (s.setLine l x).resetting = s.resetting := rfl
@[simp] theorem setLine_requests (l : LineId) (x : Line) : (s.setLine l x).requests = s.requests := rfl
@[simp] theorem setLine_nextRequest (l : LineId) (x : Line) : (s.setLine l x).nextRequest = s.nextRequest := rfl
@[simp] theorem setLine_choices (l : LineId) (x : Line) : (s.setLine l x).choices = s.choices := rfl
@[simp] theorem setLine_route (l : LineId) (x : Line) (k' : SourceId) : (s.setLine l x).route k' = s.route k' := rfl
@[simp] theorem setLine_interval (l : LineId) (x : Line) (k' : SourceId) : (s.setLine l x).interval k' = s.interval k' := rfl
@[simp] theorem setLine_record (l : LineId) (x : Line) (k' : SourceId) : (s.setLine l x).record k' = s.record k' := rfl
@[simp] theorem setLine_tally (l : LineId) (x : Line) (k' : SourceId) : (s.setLine l x).tally k' = s.tally k' := rfl
@[simp] theorem setLine_config (l : LineId) (x : Line) (k' : BundleId) : (s.setLine l x).config k' = s.config k' := rfl
@[simp] theorem setLine_run (l : LineId) (x : Line) (k' : BundleId) : (s.setLine l x).run k' = s.run k' := rfl
@[simp] theorem setLine_target (l : LineId) (x : Line) (k' : TargetId) : (s.setLine l x).target k' = s.target k' := rfl

/-! ### setRoute -/

@[simp] theorem setRoute_pending (n : SourceId) (e : RouteEntry) : (s.setRoute n e).pending = s.pending := rfl
@[simp] theorem setRoute_timebase (n : SourceId) (e : RouteEntry) : (s.setRoute n e).timebase = s.timebase := rfl
@[simp] theorem setRoute_lines (n : SourceId) (e : RouteEntry) : (s.setRoute n e).lines = s.lines := rfl
@[simp] theorem setRoute_intervals (n : SourceId) (e : RouteEntry) : (s.setRoute n e).intervals = s.intervals := rfl
@[simp] theorem setRoute_records (n : SourceId) (e : RouteEntry) : (s.setRoute n e).records = s.records := rfl
@[simp] theorem setRoute_tallies (n : SourceId) (e : RouteEntry) : (s.setRoute n e).tallies = s.tallies := rfl
@[simp] theorem setRoute_bundleConfig (n : SourceId) (e : RouteEntry) : (s.setRoute n e).bundleConfig = s.bundleConfig := rfl
@[simp] theorem setRoute_bundleRun (n : SourceId) (e : RouteEntry) : (s.setRoute n e).bundleRun = s.bundleRun := rfl
@[simp] theorem setRoute_assembly (n : SourceId) (e : RouteEntry) : (s.setRoute n e).assembly = s.assembly := rfl
@[simp] theorem setRoute_roundRobin (n : SourceId) (e : RouteEntry) : (s.setRoute n e).roundRobin = s.roundRobin := rfl
@[simp] theorem setRoute_targets (n : SourceId) (e : RouteEntry) : (s.setRoute n e).targets = s.targets := rfl
@[simp] theorem setRoute_proc (n : SourceId) (e : RouteEntry) : (s.setRoute n e).proc = s.proc := rfl
@[simp] theorem setRoute_enable (n : SourceId) (e : RouteEntry) : (s.setRoute n e).enable = s.enable := rfl
@[simp] theorem setRoute_setupAddrLo (n : SourceId) (e : RouteEntry) : (s.setRoute n e).setupAddrLo = s.setupAddrLo := rfl
@[simp] theorem setRoute_setupAddrHi (n : SourceId) (e : RouteEntry) : (s.setRoute n e).setupAddrHi = s.setupAddrHi := rfl
@[simp] theorem setRoute_staleCount (n : SourceId) (e : RouteEntry) : (s.setRoute n e).staleCount = s.staleCount := rfl
@[simp] theorem setRoute_resetting (n : SourceId) (e : RouteEntry) : (s.setRoute n e).resetting = s.resetting := rfl
@[simp] theorem setRoute_requests (n : SourceId) (e : RouteEntry) : (s.setRoute n e).requests = s.requests := rfl
@[simp] theorem setRoute_nextRequest (n : SourceId) (e : RouteEntry) : (s.setRoute n e).nextRequest = s.nextRequest := rfl
@[simp] theorem setRoute_choices (n : SourceId) (e : RouteEntry) : (s.setRoute n e).choices = s.choices := rfl
@[simp] theorem setRoute_line (n : SourceId) (e : RouteEntry) (k' : LineId) : (s.setRoute n e).line k' = s.line k' := rfl
@[simp] theorem setRoute_interval (n : SourceId) (e : RouteEntry) (k' : SourceId) : (s.setRoute n e).interval k' = s.interval k' := rfl
@[simp] theorem setRoute_record (n : SourceId) (e : RouteEntry) (k' : SourceId) : (s.setRoute n e).record k' = s.record k' := rfl
@[simp] theorem setRoute_tally (n : SourceId) (e : RouteEntry) (k' : SourceId) : (s.setRoute n e).tally k' = s.tally k' := rfl
@[simp] theorem setRoute_config (n : SourceId) (e : RouteEntry) (k' : BundleId) : (s.setRoute n e).config k' = s.config k' := rfl
@[simp] theorem setRoute_run (n : SourceId) (e : RouteEntry) (k' : BundleId) : (s.setRoute n e).run k' = s.run k' := rfl
@[simp] theorem setRoute_target (n : SourceId) (e : RouteEntry) (k' : TargetId) : (s.setRoute n e).target k' = s.target k' := rfl

/-! ### setInterval -/

@[simp] theorem setInterval_pending (n : SourceId) (x : Word) : (s.setInterval n x).pending = s.pending := rfl
@[simp] theorem setInterval_timebase (n : SourceId) (x : Word) : (s.setInterval n x).timebase = s.timebase := rfl
@[simp] theorem setInterval_lines (n : SourceId) (x : Word) : (s.setInterval n x).lines = s.lines := rfl
@[simp] theorem setInterval_routes (n : SourceId) (x : Word) : (s.setInterval n x).routes = s.routes := rfl
@[simp] theorem setInterval_records (n : SourceId) (x : Word) : (s.setInterval n x).records = s.records := rfl
@[simp] theorem setInterval_tallies (n : SourceId) (x : Word) : (s.setInterval n x).tallies = s.tallies := rfl
@[simp] theorem setInterval_bundleConfig (n : SourceId) (x : Word) : (s.setInterval n x).bundleConfig = s.bundleConfig := rfl
@[simp] theorem setInterval_bundleRun (n : SourceId) (x : Word) : (s.setInterval n x).bundleRun = s.bundleRun := rfl
@[simp] theorem setInterval_assembly (n : SourceId) (x : Word) : (s.setInterval n x).assembly = s.assembly := rfl
@[simp] theorem setInterval_roundRobin (n : SourceId) (x : Word) : (s.setInterval n x).roundRobin = s.roundRobin := rfl
@[simp] theorem setInterval_targets (n : SourceId) (x : Word) : (s.setInterval n x).targets = s.targets := rfl
@[simp] theorem setInterval_proc (n : SourceId) (x : Word) : (s.setInterval n x).proc = s.proc := rfl
@[simp] theorem setInterval_enable (n : SourceId) (x : Word) : (s.setInterval n x).enable = s.enable := rfl
@[simp] theorem setInterval_setupAddrLo (n : SourceId) (x : Word) : (s.setInterval n x).setupAddrLo = s.setupAddrLo := rfl
@[simp] theorem setInterval_setupAddrHi (n : SourceId) (x : Word) : (s.setInterval n x).setupAddrHi = s.setupAddrHi := rfl
@[simp] theorem setInterval_staleCount (n : SourceId) (x : Word) : (s.setInterval n x).staleCount = s.staleCount := rfl
@[simp] theorem setInterval_resetting (n : SourceId) (x : Word) : (s.setInterval n x).resetting = s.resetting := rfl
@[simp] theorem setInterval_requests (n : SourceId) (x : Word) : (s.setInterval n x).requests = s.requests := rfl
@[simp] theorem setInterval_nextRequest (n : SourceId) (x : Word) : (s.setInterval n x).nextRequest = s.nextRequest := rfl
@[simp] theorem setInterval_choices (n : SourceId) (x : Word) : (s.setInterval n x).choices = s.choices := rfl
@[simp] theorem setInterval_line (n : SourceId) (x : Word) (k' : LineId) : (s.setInterval n x).line k' = s.line k' := rfl
@[simp] theorem setInterval_route (n : SourceId) (x : Word) (k' : SourceId) : (s.setInterval n x).route k' = s.route k' := rfl
@[simp] theorem setInterval_record (n : SourceId) (x : Word) (k' : SourceId) : (s.setInterval n x).record k' = s.record k' := rfl
@[simp] theorem setInterval_tally (n : SourceId) (x : Word) (k' : SourceId) : (s.setInterval n x).tally k' = s.tally k' := rfl
@[simp] theorem setInterval_config (n : SourceId) (x : Word) (k' : BundleId) : (s.setInterval n x).config k' = s.config k' := rfl
@[simp] theorem setInterval_run (n : SourceId) (x : Word) (k' : BundleId) : (s.setInterval n x).run k' = s.run k' := rfl
@[simp] theorem setInterval_target (n : SourceId) (x : Word) (k' : TargetId) : (s.setInterval n x).target k' = s.target k' := rfl

/-! ### setRecord -/

@[simp] theorem setRecord_pending (n : SourceId) (r : Option PendingRecord) : (s.setRecord n r).pending = s.pending := rfl
@[simp] theorem setRecord_timebase (n : SourceId) (r : Option PendingRecord) : (s.setRecord n r).timebase = s.timebase := rfl
@[simp] theorem setRecord_lines (n : SourceId) (r : Option PendingRecord) : (s.setRecord n r).lines = s.lines := rfl
@[simp] theorem setRecord_routes (n : SourceId) (r : Option PendingRecord) : (s.setRecord n r).routes = s.routes := rfl
@[simp] theorem setRecord_intervals (n : SourceId) (r : Option PendingRecord) : (s.setRecord n r).intervals = s.intervals := rfl
@[simp] theorem setRecord_tallies (n : SourceId) (r : Option PendingRecord) : (s.setRecord n r).tallies = s.tallies := rfl
@[simp] theorem setRecord_bundleConfig (n : SourceId) (r : Option PendingRecord) : (s.setRecord n r).bundleConfig = s.bundleConfig := rfl
@[simp] theorem setRecord_bundleRun (n : SourceId) (r : Option PendingRecord) : (s.setRecord n r).bundleRun = s.bundleRun := rfl
@[simp] theorem setRecord_assembly (n : SourceId) (r : Option PendingRecord) : (s.setRecord n r).assembly = s.assembly := rfl
@[simp] theorem setRecord_roundRobin (n : SourceId) (r : Option PendingRecord) : (s.setRecord n r).roundRobin = s.roundRobin := rfl
@[simp] theorem setRecord_targets (n : SourceId) (r : Option PendingRecord) : (s.setRecord n r).targets = s.targets := rfl
@[simp] theorem setRecord_proc (n : SourceId) (r : Option PendingRecord) : (s.setRecord n r).proc = s.proc := rfl
@[simp] theorem setRecord_enable (n : SourceId) (r : Option PendingRecord) : (s.setRecord n r).enable = s.enable := rfl
@[simp] theorem setRecord_setupAddrLo (n : SourceId) (r : Option PendingRecord) : (s.setRecord n r).setupAddrLo = s.setupAddrLo := rfl
@[simp] theorem setRecord_setupAddrHi (n : SourceId) (r : Option PendingRecord) : (s.setRecord n r).setupAddrHi = s.setupAddrHi := rfl
@[simp] theorem setRecord_staleCount (n : SourceId) (r : Option PendingRecord) : (s.setRecord n r).staleCount = s.staleCount := rfl
@[simp] theorem setRecord_resetting (n : SourceId) (r : Option PendingRecord) : (s.setRecord n r).resetting = s.resetting := rfl
@[simp] theorem setRecord_requests (n : SourceId) (r : Option PendingRecord) : (s.setRecord n r).requests = s.requests := rfl
@[simp] theorem setRecord_nextRequest (n : SourceId) (r : Option PendingRecord) : (s.setRecord n r).nextRequest = s.nextRequest := rfl
@[simp] theorem setRecord_choices (n : SourceId) (r : Option PendingRecord) : (s.setRecord n r).choices = s.choices := rfl
@[simp] theorem setRecord_line (n : SourceId) (r : Option PendingRecord) (k' : LineId) : (s.setRecord n r).line k' = s.line k' := rfl
@[simp] theorem setRecord_route (n : SourceId) (r : Option PendingRecord) (k' : SourceId) : (s.setRecord n r).route k' = s.route k' := rfl
@[simp] theorem setRecord_interval (n : SourceId) (r : Option PendingRecord) (k' : SourceId) : (s.setRecord n r).interval k' = s.interval k' := rfl
@[simp] theorem setRecord_tally (n : SourceId) (r : Option PendingRecord) (k' : SourceId) : (s.setRecord n r).tally k' = s.tally k' := rfl
@[simp] theorem setRecord_config (n : SourceId) (r : Option PendingRecord) (k' : BundleId) : (s.setRecord n r).config k' = s.config k' := rfl
@[simp] theorem setRecord_run (n : SourceId) (r : Option PendingRecord) (k' : BundleId) : (s.setRecord n r).run k' = s.run k' := rfl
@[simp] theorem setRecord_target (n : SourceId) (r : Option PendingRecord) (k' : TargetId) : (s.setRecord n r).target k' = s.target k' := rfl

/-! ### updTally -/

@[simp] theorem updTally_pending (n : SourceId) (f : Tallies → Tallies) : (s.updTally n f).pending = s.pending := rfl
@[simp] theorem updTally_timebase (n : SourceId) (f : Tallies → Tallies) : (s.updTally n f).timebase = s.timebase := rfl
@[simp] theorem updTally_lines (n : SourceId) (f : Tallies → Tallies) : (s.updTally n f).lines = s.lines := rfl
@[simp] theorem updTally_routes (n : SourceId) (f : Tallies → Tallies) : (s.updTally n f).routes = s.routes := rfl
@[simp] theorem updTally_intervals (n : SourceId) (f : Tallies → Tallies) : (s.updTally n f).intervals = s.intervals := rfl
@[simp] theorem updTally_records (n : SourceId) (f : Tallies → Tallies) : (s.updTally n f).records = s.records := rfl
@[simp] theorem updTally_bundleConfig (n : SourceId) (f : Tallies → Tallies) : (s.updTally n f).bundleConfig = s.bundleConfig := rfl
@[simp] theorem updTally_bundleRun (n : SourceId) (f : Tallies → Tallies) : (s.updTally n f).bundleRun = s.bundleRun := rfl
@[simp] theorem updTally_assembly (n : SourceId) (f : Tallies → Tallies) : (s.updTally n f).assembly = s.assembly := rfl
@[simp] theorem updTally_roundRobin (n : SourceId) (f : Tallies → Tallies) : (s.updTally n f).roundRobin = s.roundRobin := rfl
@[simp] theorem updTally_targets (n : SourceId) (f : Tallies → Tallies) : (s.updTally n f).targets = s.targets := rfl
@[simp] theorem updTally_proc (n : SourceId) (f : Tallies → Tallies) : (s.updTally n f).proc = s.proc := rfl
@[simp] theorem updTally_enable (n : SourceId) (f : Tallies → Tallies) : (s.updTally n f).enable = s.enable := rfl
@[simp] theorem updTally_setupAddrLo (n : SourceId) (f : Tallies → Tallies) : (s.updTally n f).setupAddrLo = s.setupAddrLo := rfl
@[simp] theorem updTally_setupAddrHi (n : SourceId) (f : Tallies → Tallies) : (s.updTally n f).setupAddrHi = s.setupAddrHi := rfl
@[simp] theorem updTally_staleCount (n : SourceId) (f : Tallies → Tallies) : (s.updTally n f).staleCount = s.staleCount := rfl
@[simp] theorem updTally_resetting (n : SourceId) (f : Tallies → Tallies) : (s.updTally n f).resetting = s.resetting := rfl
@[simp] theorem updTally_requests (n : SourceId) (f : Tallies → Tallies) : (s.updTally n f).requests = s.requests := rfl
@[simp] theorem updTally_nextRequest (n : SourceId) (f : Tallies → Tallies) : (s.updTally n f).nextRequest = s.nextRequest := rfl
@[simp] theorem updTally_choices (n : SourceId) (f : Tallies → Tallies) : (s.updTally n f).choices = s.choices := rfl
@[simp] theorem updTally_line (n : SourceId) (f : Tallies → Tallies) (k' : LineId) : (s.updTally n f).line k' = s.line k' := rfl
@[simp] theorem updTally_route (n : SourceId) (f : Tallies → Tallies) (k' : SourceId) : (s.updTally n f).route k' = s.route k' := rfl
@[simp] theorem updTally_interval (n : SourceId) (f : Tallies → Tallies) (k' : SourceId) : (s.updTally n f).interval k' = s.interval k' := rfl
@[simp] theorem updTally_record (n : SourceId) (f : Tallies → Tallies) (k' : SourceId) : (s.updTally n f).record k' = s.record k' := rfl
@[simp] theorem updTally_config (n : SourceId) (f : Tallies → Tallies) (k' : BundleId) : (s.updTally n f).config k' = s.config k' := rfl
@[simp] theorem updTally_run (n : SourceId) (f : Tallies → Tallies) (k' : BundleId) : (s.updTally n f).run k' = s.run k' := rfl
@[simp] theorem updTally_target (n : SourceId) (f : Tallies → Tallies) (k' : TargetId) : (s.updTally n f).target k' = s.target k' := rfl

/-! ### setConfig -/

@[simp] theorem setConfig_pending (b : BundleId) (c : BundleConfig) : (s.setConfig b c).pending = s.pending := rfl
@[simp] theorem setConfig_timebase (b : BundleId) (c : BundleConfig) : (s.setConfig b c).timebase = s.timebase := rfl
@[simp] theorem setConfig_lines (b : BundleId) (c : BundleConfig) : (s.setConfig b c).lines = s.lines := rfl
@[simp] theorem setConfig_routes (b : BundleId) (c : BundleConfig) : (s.setConfig b c).routes = s.routes := rfl
@[simp] theorem setConfig_intervals (b : BundleId) (c : BundleConfig) : (s.setConfig b c).intervals = s.intervals := rfl
@[simp] theorem setConfig_records (b : BundleId) (c : BundleConfig) : (s.setConfig b c).records = s.records := rfl
@[simp] theorem setConfig_tallies (b : BundleId) (c : BundleConfig) : (s.setConfig b c).tallies = s.tallies := rfl
@[simp] theorem setConfig_bundleRun (b : BundleId) (c : BundleConfig) : (s.setConfig b c).bundleRun = s.bundleRun := rfl
@[simp] theorem setConfig_assembly (b : BundleId) (c : BundleConfig) : (s.setConfig b c).assembly = s.assembly := rfl
@[simp] theorem setConfig_roundRobin (b : BundleId) (c : BundleConfig) : (s.setConfig b c).roundRobin = s.roundRobin := rfl
@[simp] theorem setConfig_targets (b : BundleId) (c : BundleConfig) : (s.setConfig b c).targets = s.targets := rfl
@[simp] theorem setConfig_proc (b : BundleId) (c : BundleConfig) : (s.setConfig b c).proc = s.proc := rfl
@[simp] theorem setConfig_enable (b : BundleId) (c : BundleConfig) : (s.setConfig b c).enable = s.enable := rfl
@[simp] theorem setConfig_setupAddrLo (b : BundleId) (c : BundleConfig) : (s.setConfig b c).setupAddrLo = s.setupAddrLo := rfl
@[simp] theorem setConfig_setupAddrHi (b : BundleId) (c : BundleConfig) : (s.setConfig b c).setupAddrHi = s.setupAddrHi := rfl
@[simp] theorem setConfig_staleCount (b : BundleId) (c : BundleConfig) : (s.setConfig b c).staleCount = s.staleCount := rfl
@[simp] theorem setConfig_resetting (b : BundleId) (c : BundleConfig) : (s.setConfig b c).resetting = s.resetting := rfl
@[simp] theorem setConfig_requests (b : BundleId) (c : BundleConfig) : (s.setConfig b c).requests = s.requests := rfl
@[simp] theorem setConfig_nextRequest (b : BundleId) (c : BundleConfig) : (s.setConfig b c).nextRequest = s.nextRequest := rfl
@[simp] theorem setConfig_choices (b : BundleId) (c : BundleConfig) : (s.setConfig b c).choices = s.choices := rfl
@[simp] theorem setConfig_line (b : BundleId) (c : BundleConfig) (k' : LineId) : (s.setConfig b c).line k' = s.line k' := rfl
@[simp] theorem setConfig_route (b : BundleId) (c : BundleConfig) (k' : SourceId) : (s.setConfig b c).route k' = s.route k' := rfl
@[simp] theorem setConfig_interval (b : BundleId) (c : BundleConfig) (k' : SourceId) : (s.setConfig b c).interval k' = s.interval k' := rfl
@[simp] theorem setConfig_record (b : BundleId) (c : BundleConfig) (k' : SourceId) : (s.setConfig b c).record k' = s.record k' := rfl
@[simp] theorem setConfig_tally (b : BundleId) (c : BundleConfig) (k' : SourceId) : (s.setConfig b c).tally k' = s.tally k' := rfl
@[simp] theorem setConfig_run (b : BundleId) (c : BundleConfig) (k' : BundleId) : (s.setConfig b c).run k' = s.run k' := rfl
@[simp] theorem setConfig_target (b : BundleId) (c : BundleConfig) (k' : TargetId) : (s.setConfig b c).target k' = s.target k' := rfl

/-! ### updRun -/

@[simp] theorem updRun_pending (b : BundleId) (f : BundleRun → BundleRun) : (s.updRun b f).pending = s.pending := rfl
@[simp] theorem updRun_timebase (b : BundleId) (f : BundleRun → BundleRun) : (s.updRun b f).timebase = s.timebase := rfl
@[simp] theorem updRun_lines (b : BundleId) (f : BundleRun → BundleRun) : (s.updRun b f).lines = s.lines := rfl
@[simp] theorem updRun_routes (b : BundleId) (f : BundleRun → BundleRun) : (s.updRun b f).routes = s.routes := rfl
@[simp] theorem updRun_intervals (b : BundleId) (f : BundleRun → BundleRun) : (s.updRun b f).intervals = s.intervals := rfl
@[simp] theorem updRun_records (b : BundleId) (f : BundleRun → BundleRun) : (s.updRun b f).records = s.records := rfl
@[simp] theorem updRun_tallies (b : BundleId) (f : BundleRun → BundleRun) : (s.updRun b f).tallies = s.tallies := rfl
@[simp] theorem updRun_bundleConfig (b : BundleId) (f : BundleRun → BundleRun) : (s.updRun b f).bundleConfig = s.bundleConfig := rfl
@[simp] theorem updRun_assembly (b : BundleId) (f : BundleRun → BundleRun) : (s.updRun b f).assembly = s.assembly := rfl
@[simp] theorem updRun_roundRobin (b : BundleId) (f : BundleRun → BundleRun) : (s.updRun b f).roundRobin = s.roundRobin := rfl
@[simp] theorem updRun_targets (b : BundleId) (f : BundleRun → BundleRun) : (s.updRun b f).targets = s.targets := rfl
@[simp] theorem updRun_proc (b : BundleId) (f : BundleRun → BundleRun) : (s.updRun b f).proc = s.proc := rfl
@[simp] theorem updRun_enable (b : BundleId) (f : BundleRun → BundleRun) : (s.updRun b f).enable = s.enable := rfl
@[simp] theorem updRun_setupAddrLo (b : BundleId) (f : BundleRun → BundleRun) : (s.updRun b f).setupAddrLo = s.setupAddrLo := rfl
@[simp] theorem updRun_setupAddrHi (b : BundleId) (f : BundleRun → BundleRun) : (s.updRun b f).setupAddrHi = s.setupAddrHi := rfl
@[simp] theorem updRun_staleCount (b : BundleId) (f : BundleRun → BundleRun) : (s.updRun b f).staleCount = s.staleCount := rfl
@[simp] theorem updRun_resetting (b : BundleId) (f : BundleRun → BundleRun) : (s.updRun b f).resetting = s.resetting := rfl
@[simp] theorem updRun_requests (b : BundleId) (f : BundleRun → BundleRun) : (s.updRun b f).requests = s.requests := rfl
@[simp] theorem updRun_nextRequest (b : BundleId) (f : BundleRun → BundleRun) : (s.updRun b f).nextRequest = s.nextRequest := rfl
@[simp] theorem updRun_choices (b : BundleId) (f : BundleRun → BundleRun) : (s.updRun b f).choices = s.choices := rfl
@[simp] theorem updRun_line (b : BundleId) (f : BundleRun → BundleRun) (k' : LineId) : (s.updRun b f).line k' = s.line k' := rfl
@[simp] theorem updRun_route (b : BundleId) (f : BundleRun → BundleRun) (k' : SourceId) : (s.updRun b f).route k' = s.route k' := rfl
@[simp] theorem updRun_interval (b : BundleId) (f : BundleRun → BundleRun) (k' : SourceId) : (s.updRun b f).interval k' = s.interval k' := rfl
@[simp] theorem updRun_record (b : BundleId) (f : BundleRun → BundleRun) (k' : SourceId) : (s.updRun b f).record k' = s.record k' := rfl
@[simp] theorem updRun_tally (b : BundleId) (f : BundleRun → BundleRun) (k' : SourceId) : (s.updRun b f).tally k' = s.tally k' := rfl
@[simp] theorem updRun_config (b : BundleId) (f : BundleRun → BundleRun) (k' : BundleId) : (s.updRun b f).config k' = s.config k' := rfl
@[simp] theorem updRun_target (b : BundleId) (f : BundleRun → BundleRun) (k' : TargetId) : (s.updRun b f).target k' = s.target k' := rfl

/-! ### updTarget -/

@[simp] theorem updTarget_pending (t : TargetId) (f : Target → Target) : (s.updTarget t f).pending = s.pending := rfl
@[simp] theorem updTarget_timebase (t : TargetId) (f : Target → Target) : (s.updTarget t f).timebase = s.timebase := rfl
@[simp] theorem updTarget_lines (t : TargetId) (f : Target → Target) : (s.updTarget t f).lines = s.lines := rfl
@[simp] theorem updTarget_routes (t : TargetId) (f : Target → Target) : (s.updTarget t f).routes = s.routes := rfl
@[simp] theorem updTarget_intervals (t : TargetId) (f : Target → Target) : (s.updTarget t f).intervals = s.intervals := rfl
@[simp] theorem updTarget_records (t : TargetId) (f : Target → Target) : (s.updTarget t f).records = s.records := rfl
@[simp] theorem updTarget_tallies (t : TargetId) (f : Target → Target) : (s.updTarget t f).tallies = s.tallies := rfl
@[simp] theorem updTarget_bundleConfig (t : TargetId) (f : Target → Target) : (s.updTarget t f).bundleConfig = s.bundleConfig := rfl
@[simp] theorem updTarget_bundleRun (t : TargetId) (f : Target → Target) : (s.updTarget t f).bundleRun = s.bundleRun := rfl
@[simp] theorem updTarget_assembly (t : TargetId) (f : Target → Target) : (s.updTarget t f).assembly = s.assembly := rfl
@[simp] theorem updTarget_roundRobin (t : TargetId) (f : Target → Target) : (s.updTarget t f).roundRobin = s.roundRobin := rfl
@[simp] theorem updTarget_proc (t : TargetId) (f : Target → Target) : (s.updTarget t f).proc = s.proc := rfl
@[simp] theorem updTarget_enable (t : TargetId) (f : Target → Target) : (s.updTarget t f).enable = s.enable := rfl
@[simp] theorem updTarget_setupAddrLo (t : TargetId) (f : Target → Target) : (s.updTarget t f).setupAddrLo = s.setupAddrLo := rfl
@[simp] theorem updTarget_setupAddrHi (t : TargetId) (f : Target → Target) : (s.updTarget t f).setupAddrHi = s.setupAddrHi := rfl
@[simp] theorem updTarget_staleCount (t : TargetId) (f : Target → Target) : (s.updTarget t f).staleCount = s.staleCount := rfl
@[simp] theorem updTarget_resetting (t : TargetId) (f : Target → Target) : (s.updTarget t f).resetting = s.resetting := rfl
@[simp] theorem updTarget_requests (t : TargetId) (f : Target → Target) : (s.updTarget t f).requests = s.requests := rfl
@[simp] theorem updTarget_nextRequest (t : TargetId) (f : Target → Target) : (s.updTarget t f).nextRequest = s.nextRequest := rfl
@[simp] theorem updTarget_choices (t : TargetId) (f : Target → Target) : (s.updTarget t f).choices = s.choices := rfl
@[simp] theorem updTarget_line (t : TargetId) (f : Target → Target) (k' : LineId) : (s.updTarget t f).line k' = s.line k' := rfl
@[simp] theorem updTarget_route (t : TargetId) (f : Target → Target) (k' : SourceId) : (s.updTarget t f).route k' = s.route k' := rfl
@[simp] theorem updTarget_interval (t : TargetId) (f : Target → Target) (k' : SourceId) : (s.updTarget t f).interval k' = s.interval k' := rfl
@[simp] theorem updTarget_record (t : TargetId) (f : Target → Target) (k' : SourceId) : (s.updTarget t f).record k' = s.record k' := rfl
@[simp] theorem updTarget_tally (t : TargetId) (f : Target → Target) (k' : SourceId) : (s.updTarget t f).tally k' = s.tally k' := rfl
@[simp] theorem updTarget_config (t : TargetId) (f : Target → Target) (k' : BundleId) : (s.updTarget t f).config k' = s.config k' := rfl
@[simp] theorem updTarget_run (t : TargetId) (f : Target → Target) (k' : BundleId) : (s.updTarget t f).run k' = s.run k' := rfl

/-! ### updProc -/

@[simp] theorem updProc_pending (f : Processor → Processor) : (s.updProc f).pending = s.pending := rfl
@[simp] theorem updProc_timebase (f : Processor → Processor) : (s.updProc f).timebase = s.timebase := rfl
@[simp] theorem updProc_lines (f : Processor → Processor) : (s.updProc f).lines = s.lines := rfl
@[simp] theorem updProc_routes (f : Processor → Processor) : (s.updProc f).routes = s.routes := rfl
@[simp] theorem updProc_intervals (f : Processor → Processor) : (s.updProc f).intervals = s.intervals := rfl
@[simp] theorem updProc_records (f : Processor → Processor) : (s.updProc f).records = s.records := rfl
@[simp] theorem updProc_tallies (f : Processor → Processor) : (s.updProc f).tallies = s.tallies := rfl
@[simp] theorem updProc_bundleConfig (f : Processor → Processor) : (s.updProc f).bundleConfig = s.bundleConfig := rfl
@[simp] theorem updProc_bundleRun (f : Processor → Processor) : (s.updProc f).bundleRun = s.bundleRun := rfl
@[simp] theorem updProc_assembly (f : Processor → Processor) : (s.updProc f).assembly = s.assembly := rfl
@[simp] theorem updProc_roundRobin (f : Processor → Processor) : (s.updProc f).roundRobin = s.roundRobin := rfl
@[simp] theorem updProc_targets (f : Processor → Processor) : (s.updProc f).targets = s.targets := rfl
@[simp] theorem updProc_enable (f : Processor → Processor) : (s.updProc f).enable = s.enable := rfl
@[simp] theorem updProc_setupAddrLo (f : Processor → Processor) : (s.updProc f).setupAddrLo = s.setupAddrLo := rfl
@[simp] theorem updProc_setupAddrHi (f : Processor → Processor) : (s.updProc f).setupAddrHi = s.setupAddrHi := rfl
@[simp] theorem updProc_staleCount (f : Processor → Processor) : (s.updProc f).staleCount = s.staleCount := rfl
@[simp] theorem updProc_resetting (f : Processor → Processor) : (s.updProc f).resetting = s.resetting := rfl
@[simp] theorem updProc_requests (f : Processor → Processor) : (s.updProc f).requests = s.requests := rfl
@[simp] theorem updProc_nextRequest (f : Processor → Processor) : (s.updProc f).nextRequest = s.nextRequest := rfl
@[simp] theorem updProc_choices (f : Processor → Processor) : (s.updProc f).choices = s.choices := rfl
@[simp] theorem updProc_line (f : Processor → Processor) (k' : LineId) : (s.updProc f).line k' = s.line k' := rfl
@[simp] theorem updProc_route (f : Processor → Processor) (k' : SourceId) : (s.updProc f).route k' = s.route k' := rfl
@[simp] theorem updProc_interval (f : Processor → Processor) (k' : SourceId) : (s.updProc f).interval k' = s.interval k' := rfl
@[simp] theorem updProc_record (f : Processor → Processor) (k' : SourceId) : (s.updProc f).record k' = s.record k' := rfl
@[simp] theorem updProc_tally (f : Processor → Processor) (k' : SourceId) : (s.updProc f).tally k' = s.tally k' := rfl
@[simp] theorem updProc_config (f : Processor → Processor) (k' : BundleId) : (s.updProc f).config k' = s.config k' := rfl
@[simp] theorem updProc_run (f : Processor → Processor) (k' : BundleId) : (s.updProc f).run k' = s.run k' := rfl
@[simp] theorem updProc_target (f : Processor → Processor) (k' : TargetId) : (s.updProc f).target k' = s.target k' := rfl

/-! ### issueRequest -/

@[simp] theorem issueRequest_pending (w : Issuer) (a : Addr) (k : Access) : (s.issueRequest w a k).pending = s.pending := rfl
@[simp] theorem issueRequest_timebase (w : Issuer) (a : Addr) (k : Access) : (s.issueRequest w a k).timebase = s.timebase := rfl
@[simp] theorem issueRequest_lines (w : Issuer) (a : Addr) (k : Access) : (s.issueRequest w a k).lines = s.lines := rfl
@[simp] theorem issueRequest_routes (w : Issuer) (a : Addr) (k : Access) : (s.issueRequest w a k).routes = s.routes := rfl
@[simp] theorem issueRequest_intervals (w : Issuer) (a : Addr) (k : Access) : (s.issueRequest w a k).intervals = s.intervals := rfl
@[simp] theorem issueRequest_records (w : Issuer) (a : Addr) (k : Access) : (s.issueRequest w a k).records = s.records := rfl
@[simp] theorem issueRequest_tallies (w : Issuer) (a : Addr) (k : Access) : (s.issueRequest w a k).tallies = s.tallies := rfl
@[simp] theorem issueRequest_bundleConfig (w : Issuer) (a : Addr) (k : Access) : (s.issueRequest w a k).bundleConfig = s.bundleConfig := rfl
@[simp] theorem issueRequest_bundleRun (w : Issuer) (a : Addr) (k : Access) : (s.issueRequest w a k).bundleRun = s.bundleRun := rfl
@[simp] theorem issueRequest_assembly (w : Issuer) (a : Addr) (k : Access) : (s.issueRequest w a k).assembly = s.assembly := rfl
@[simp] theorem issueRequest_roundRobin (w : Issuer) (a : Addr) (k : Access) : (s.issueRequest w a k).roundRobin = s.roundRobin := rfl
@[simp] theorem issueRequest_targets (w : Issuer) (a : Addr) (k : Access) : (s.issueRequest w a k).targets = s.targets := rfl
@[simp] theorem issueRequest_proc (w : Issuer) (a : Addr) (k : Access) : (s.issueRequest w a k).proc = s.proc := rfl
@[simp] theorem issueRequest_enable (w : Issuer) (a : Addr) (k : Access) : (s.issueRequest w a k).enable = s.enable := rfl
@[simp] theorem issueRequest_setupAddrLo (w : Issuer) (a : Addr) (k : Access) : (s.issueRequest w a k).setupAddrLo = s.setupAddrLo := rfl
@[simp] theorem issueRequest_setupAddrHi (w : Issuer) (a : Addr) (k : Access) : (s.issueRequest w a k).setupAddrHi = s.setupAddrHi := rfl
@[simp] theorem issueRequest_staleCount (w : Issuer) (a : Addr) (k : Access) : (s.issueRequest w a k).staleCount = s.staleCount := rfl
@[simp] theorem issueRequest_resetting (w : Issuer) (a : Addr) (k : Access) : (s.issueRequest w a k).resetting = s.resetting := rfl
@[simp] theorem issueRequest_choices (w : Issuer) (a : Addr) (k : Access) : (s.issueRequest w a k).choices = s.choices := rfl
@[simp] theorem issueRequest_line (w : Issuer) (a : Addr) (k : Access) (k' : LineId) : (s.issueRequest w a k).line k' = s.line k' := rfl
@[simp] theorem issueRequest_route (w : Issuer) (a : Addr) (k : Access) (k' : SourceId) : (s.issueRequest w a k).route k' = s.route k' := rfl
@[simp] theorem issueRequest_interval (w : Issuer) (a : Addr) (k : Access) (k' : SourceId) : (s.issueRequest w a k).interval k' = s.interval k' := rfl
@[simp] theorem issueRequest_record (w : Issuer) (a : Addr) (k : Access) (k' : SourceId) : (s.issueRequest w a k).record k' = s.record k' := rfl
@[simp] theorem issueRequest_tally (w : Issuer) (a : Addr) (k : Access) (k' : SourceId) : (s.issueRequest w a k).tally k' = s.tally k' := rfl
@[simp] theorem issueRequest_config (w : Issuer) (a : Addr) (k : Access) (k' : BundleId) : (s.issueRequest w a k).config k' = s.config k' := rfl
@[simp] theorem issueRequest_run (w : Issuer) (a : Addr) (k : Access) (k' : BundleId) : (s.issueRequest w a k).run k' = s.run k' := rfl
@[simp] theorem issueRequest_target (w : Issuer) (a : Addr) (k : Access) (k' : TargetId) : (s.issueRequest w a k).target k' = s.target k' := rfl

/-! ### endRequest -/

@[simp] theorem endRequest_pending (i : Nat) : (s.endRequest i).pending = s.pending := rfl
@[simp] theorem endRequest_timebase (i : Nat) : (s.endRequest i).timebase = s.timebase := rfl
@[simp] theorem endRequest_lines (i : Nat) : (s.endRequest i).lines = s.lines := rfl
@[simp] theorem endRequest_routes (i : Nat) : (s.endRequest i).routes = s.routes := rfl
@[simp] theorem endRequest_intervals (i : Nat) : (s.endRequest i).intervals = s.intervals := rfl
@[simp] theorem endRequest_records (i : Nat) : (s.endRequest i).records = s.records := rfl
@[simp] theorem endRequest_tallies (i : Nat) : (s.endRequest i).tallies = s.tallies := rfl
@[simp] theorem endRequest_bundleConfig (i : Nat) : (s.endRequest i).bundleConfig = s.bundleConfig := rfl
@[simp] theorem endRequest_bundleRun (i : Nat) : (s.endRequest i).bundleRun = s.bundleRun := rfl
@[simp] theorem endRequest_assembly (i : Nat) : (s.endRequest i).assembly = s.assembly := rfl
@[simp] theorem endRequest_roundRobin (i : Nat) : (s.endRequest i).roundRobin = s.roundRobin := rfl
@[simp] theorem endRequest_targets (i : Nat) : (s.endRequest i).targets = s.targets := rfl
@[simp] theorem endRequest_proc (i : Nat) : (s.endRequest i).proc = s.proc := rfl
@[simp] theorem endRequest_enable (i : Nat) : (s.endRequest i).enable = s.enable := rfl
@[simp] theorem endRequest_setupAddrLo (i : Nat) : (s.endRequest i).setupAddrLo = s.setupAddrLo := rfl
@[simp] theorem endRequest_setupAddrHi (i : Nat) : (s.endRequest i).setupAddrHi = s.setupAddrHi := rfl
@[simp] theorem endRequest_staleCount (i : Nat) : (s.endRequest i).staleCount = s.staleCount := rfl
@[simp] theorem endRequest_resetting (i : Nat) : (s.endRequest i).resetting = s.resetting := rfl
@[simp] theorem endRequest_nextRequest (i : Nat) : (s.endRequest i).nextRequest = s.nextRequest := rfl
@[simp] theorem endRequest_choices (i : Nat) : (s.endRequest i).choices = s.choices := rfl
@[simp] theorem endRequest_line (i : Nat) (k' : LineId) : (s.endRequest i).line k' = s.line k' := rfl
@[simp] theorem endRequest_route (i : Nat) (k' : SourceId) : (s.endRequest i).route k' = s.route k' := rfl
@[simp] theorem endRequest_interval (i : Nat) (k' : SourceId) : (s.endRequest i).interval k' = s.interval k' := rfl
@[simp] theorem endRequest_record (i : Nat) (k' : SourceId) : (s.endRequest i).record k' = s.record k' := rfl
@[simp] theorem endRequest_tally (i : Nat) (k' : SourceId) : (s.endRequest i).tally k' = s.tally k' := rfl
@[simp] theorem endRequest_config (i : Nat) (k' : BundleId) : (s.endRequest i).config k' = s.config k' := rfl
@[simp] theorem endRequest_run (i : Nat) (k' : BundleId) : (s.endRequest i).run k' = s.run k' := rfl
@[simp] theorem endRequest_target (i : Nat) (k' : TargetId) : (s.endRequest i).target k' = s.target k' := rfl

/-! ### setAssembly -/

@[simp] theorem setAssembly_pending (a : Option Assembly) : (s.setAssembly a).pending = s.pending := rfl
@[simp] theorem setAssembly_timebase (a : Option Assembly) : (s.setAssembly a).timebase = s.timebase := rfl
@[simp] theorem setAssembly_lines (a : Option Assembly) : (s.setAssembly a).lines = s.lines := rfl
@[simp] theorem setAssembly_routes (a : Option Assembly) : (s.setAssembly a).routes = s.routes := rfl
@[simp] theorem setAssembly_intervals (a : Option Assembly) : (s.setAssembly a).intervals = s.intervals := rfl
@[simp] theorem setAssembly_records (a : Option Assembly) : (s.setAssembly a).records = s.records := rfl
@[simp] theorem setAssembly_tallies (a : Option Assembly) : (s.setAssembly a).tallies = s.tallies := rfl
@[simp] theorem setAssembly_bundleConfig (a : Option Assembly) : (s.setAssembly a).bundleConfig = s.bundleConfig := rfl
@[simp] theorem setAssembly_bundleRun (a : Option Assembly) : (s.setAssembly a).bundleRun = s.bundleRun := rfl
@[simp] theorem setAssembly_roundRobin (a : Option Assembly) : (s.setAssembly a).roundRobin = s.roundRobin := rfl
@[simp] theorem setAssembly_targets (a : Option Assembly) : (s.setAssembly a).targets = s.targets := rfl
@[simp] theorem setAssembly_proc (a : Option Assembly) : (s.setAssembly a).proc = s.proc := rfl
@[simp] theorem setAssembly_enable (a : Option Assembly) : (s.setAssembly a).enable = s.enable := rfl
@[simp] theorem setAssembly_setupAddrLo (a : Option Assembly) : (s.setAssembly a).setupAddrLo = s.setupAddrLo := rfl
@[simp] theorem setAssembly_setupAddrHi (a : Option Assembly) : (s.setAssembly a).setupAddrHi = s.setupAddrHi := rfl
@[simp] theorem setAssembly_staleCount (a : Option Assembly) : (s.setAssembly a).staleCount = s.staleCount := rfl
@[simp] theorem setAssembly_resetting (a : Option Assembly) : (s.setAssembly a).resetting = s.resetting := rfl
@[simp] theorem setAssembly_requests (a : Option Assembly) : (s.setAssembly a).requests = s.requests := rfl
@[simp] theorem setAssembly_nextRequest (a : Option Assembly) : (s.setAssembly a).nextRequest = s.nextRequest := rfl
@[simp] theorem setAssembly_choices (a : Option Assembly) : (s.setAssembly a).choices = s.choices := rfl
@[simp] theorem setAssembly_line (a : Option Assembly) (k' : LineId) : (s.setAssembly a).line k' = s.line k' := rfl
@[simp] theorem setAssembly_route (a : Option Assembly) (k' : SourceId) : (s.setAssembly a).route k' = s.route k' := rfl
@[simp] theorem setAssembly_interval (a : Option Assembly) (k' : SourceId) : (s.setAssembly a).interval k' = s.interval k' := rfl
@[simp] theorem setAssembly_record (a : Option Assembly) (k' : SourceId) : (s.setAssembly a).record k' = s.record k' := rfl
@[simp] theorem setAssembly_tally (a : Option Assembly) (k' : SourceId) : (s.setAssembly a).tally k' = s.tally k' := rfl
@[simp] theorem setAssembly_config (a : Option Assembly) (k' : BundleId) : (s.setAssembly a).config k' = s.config k' := rfl
@[simp] theorem setAssembly_run (a : Option Assembly) (k' : BundleId) : (s.setAssembly a).run k' = s.run k' := rfl
@[simp] theorem setAssembly_target (a : Option Assembly) (k' : TargetId) : (s.setAssembly a).target k' = s.target k' := rfl

/-! ### setTurn -/

@[simp] theorem setTurn_pending (b : BundleId) : (s.setTurn b).pending = s.pending := rfl
@[simp] theorem setTurn_timebase (b : BundleId) : (s.setTurn b).timebase = s.timebase := rfl
@[simp] theorem setTurn_lines (b : BundleId) : (s.setTurn b).lines = s.lines := rfl
@[simp] theorem setTurn_routes (b : BundleId) : (s.setTurn b).routes = s.routes := rfl
@[simp] theorem setTurn_intervals (b : BundleId) : (s.setTurn b).intervals = s.intervals := rfl
@[simp] theorem setTurn_records (b : BundleId) : (s.setTurn b).records = s.records := rfl
@[simp] theorem setTurn_tallies (b : BundleId) : (s.setTurn b).tallies = s.tallies := rfl
@[simp] theorem setTurn_bundleConfig (b : BundleId) : (s.setTurn b).bundleConfig = s.bundleConfig := rfl
@[simp] theorem setTurn_bundleRun (b : BundleId) : (s.setTurn b).bundleRun = s.bundleRun := rfl
@[simp] theorem setTurn_assembly (b : BundleId) : (s.setTurn b).assembly = s.assembly := rfl
@[simp] theorem setTurn_targets (b : BundleId) : (s.setTurn b).targets = s.targets := rfl
@[simp] theorem setTurn_proc (b : BundleId) : (s.setTurn b).proc = s.proc := rfl
@[simp] theorem setTurn_enable (b : BundleId) : (s.setTurn b).enable = s.enable := rfl
@[simp] theorem setTurn_setupAddrLo (b : BundleId) : (s.setTurn b).setupAddrLo = s.setupAddrLo := rfl
@[simp] theorem setTurn_setupAddrHi (b : BundleId) : (s.setTurn b).setupAddrHi = s.setupAddrHi := rfl
@[simp] theorem setTurn_staleCount (b : BundleId) : (s.setTurn b).staleCount = s.staleCount := rfl
@[simp] theorem setTurn_resetting (b : BundleId) : (s.setTurn b).resetting = s.resetting := rfl
@[simp] theorem setTurn_requests (b : BundleId) : (s.setTurn b).requests = s.requests := rfl
@[simp] theorem setTurn_nextRequest (b : BundleId) : (s.setTurn b).nextRequest = s.nextRequest := rfl
@[simp] theorem setTurn_choices (b : BundleId) : (s.setTurn b).choices = s.choices := rfl
@[simp] theorem setTurn_line (b : BundleId) (k' : LineId) : (s.setTurn b).line k' = s.line k' := rfl
@[simp] theorem setTurn_route (b : BundleId) (k' : SourceId) : (s.setTurn b).route k' = s.route k' := rfl
@[simp] theorem setTurn_interval (b : BundleId) (k' : SourceId) : (s.setTurn b).interval k' = s.interval k' := rfl
@[simp] theorem setTurn_record (b : BundleId) (k' : SourceId) : (s.setTurn b).record k' = s.record k' := rfl
@[simp] theorem setTurn_tally (b : BundleId) (k' : SourceId) : (s.setTurn b).tally k' = s.tally k' := rfl
@[simp] theorem setTurn_config (b : BundleId) (k' : BundleId) : (s.setTurn b).config k' = s.config k' := rfl
@[simp] theorem setTurn_run (b : BundleId) (k' : BundleId) : (s.setTurn b).run k' = s.run k' := rfl
@[simp] theorem setTurn_target (b : BundleId) (k' : TargetId) : (s.setTurn b).target k' = s.target k' := rfl

/-! ### setTimebase -/

@[simp] theorem setTimebase_pending (v : Time) : (s.setTimebase v).pending = s.pending := rfl
@[simp] theorem setTimebase_lines (v : Time) : (s.setTimebase v).lines = s.lines := rfl
@[simp] theorem setTimebase_routes (v : Time) : (s.setTimebase v).routes = s.routes := rfl
@[simp] theorem setTimebase_intervals (v : Time) : (s.setTimebase v).intervals = s.intervals := rfl
@[simp] theorem setTimebase_records (v : Time) : (s.setTimebase v).records = s.records := rfl
@[simp] theorem setTimebase_tallies (v : Time) : (s.setTimebase v).tallies = s.tallies := rfl
@[simp] theorem setTimebase_bundleConfig (v : Time) : (s.setTimebase v).bundleConfig = s.bundleConfig := rfl
@[simp] theorem setTimebase_bundleRun (v : Time) : (s.setTimebase v).bundleRun = s.bundleRun := rfl
@[simp] theorem setTimebase_assembly (v : Time) : (s.setTimebase v).assembly = s.assembly := rfl
@[simp] theorem setTimebase_roundRobin (v : Time) : (s.setTimebase v).roundRobin = s.roundRobin := rfl
@[simp] theorem setTimebase_targets (v : Time) : (s.setTimebase v).targets = s.targets := rfl
@[simp] theorem setTimebase_proc (v : Time) : (s.setTimebase v).proc = s.proc := rfl
@[simp] theorem setTimebase_enable (v : Time) : (s.setTimebase v).enable = s.enable := rfl
@[simp] theorem setTimebase_setupAddrLo (v : Time) : (s.setTimebase v).setupAddrLo = s.setupAddrLo := rfl
@[simp] theorem setTimebase_setupAddrHi (v : Time) : (s.setTimebase v).setupAddrHi = s.setupAddrHi := rfl
@[simp] theorem setTimebase_staleCount (v : Time) : (s.setTimebase v).staleCount = s.staleCount := rfl
@[simp] theorem setTimebase_resetting (v : Time) : (s.setTimebase v).resetting = s.resetting := rfl
@[simp] theorem setTimebase_requests (v : Time) : (s.setTimebase v).requests = s.requests := rfl
@[simp] theorem setTimebase_nextRequest (v : Time) : (s.setTimebase v).nextRequest = s.nextRequest := rfl
@[simp] theorem setTimebase_choices (v : Time) : (s.setTimebase v).choices = s.choices := rfl
@[simp] theorem setTimebase_line (v : Time) (k' : LineId) : (s.setTimebase v).line k' = s.line k' := rfl
@[simp] theorem setTimebase_route (v : Time) (k' : SourceId) : (s.setTimebase v).route k' = s.route k' := rfl
@[simp] theorem setTimebase_interval (v : Time) (k' : SourceId) : (s.setTimebase v).interval k' = s.interval k' := rfl
@[simp] theorem setTimebase_record (v : Time) (k' : SourceId) : (s.setTimebase v).record k' = s.record k' := rfl
@[simp] theorem setTimebase_tally (v : Time) (k' : SourceId) : (s.setTimebase v).tally k' = s.tally k' := rfl
@[simp] theorem setTimebase_config (v : Time) (k' : BundleId) : (s.setTimebase v).config k' = s.config k' := rfl
@[simp] theorem setTimebase_run (v : Time) (k' : BundleId) : (s.setTimebase v).run k' = s.run k' := rfl
@[simp] theorem setTimebase_target (v : Time) (k' : TargetId) : (s.setTimebase v).target k' = s.target k' := rfl

/-! ### storeEnable -/

@[simp] theorem storeEnable_pending (v : Bool) : (s.storeEnable v).pending = s.pending := rfl
@[simp] theorem storeEnable_timebase (v : Bool) : (s.storeEnable v).timebase = s.timebase := rfl
@[simp] theorem storeEnable_lines (v : Bool) : (s.storeEnable v).lines = s.lines := rfl
@[simp] theorem storeEnable_routes (v : Bool) : (s.storeEnable v).routes = s.routes := rfl
@[simp] theorem storeEnable_intervals (v : Bool) : (s.storeEnable v).intervals = s.intervals := rfl
@[simp] theorem storeEnable_records (v : Bool) : (s.storeEnable v).records = s.records := rfl
@[simp] theorem storeEnable_tallies (v : Bool) : (s.storeEnable v).tallies = s.tallies := rfl
@[simp] theorem storeEnable_bundleConfig (v : Bool) : (s.storeEnable v).bundleConfig = s.bundleConfig := rfl
@[simp] theorem storeEnable_bundleRun (v : Bool) : (s.storeEnable v).bundleRun = s.bundleRun := rfl
@[simp] theorem storeEnable_assembly (v : Bool) : (s.storeEnable v).assembly = s.assembly := rfl
@[simp] theorem storeEnable_roundRobin (v : Bool) : (s.storeEnable v).roundRobin = s.roundRobin := rfl
@[simp] theorem storeEnable_targets (v : Bool) : (s.storeEnable v).targets = s.targets := rfl
@[simp] theorem storeEnable_proc (v : Bool) : (s.storeEnable v).proc = s.proc := rfl
@[simp] theorem storeEnable_setupAddrLo (v : Bool) : (s.storeEnable v).setupAddrLo = s.setupAddrLo := rfl
@[simp] theorem storeEnable_setupAddrHi (v : Bool) : (s.storeEnable v).setupAddrHi = s.setupAddrHi := rfl
@[simp] theorem storeEnable_staleCount (v : Bool) : (s.storeEnable v).staleCount = s.staleCount := rfl
@[simp] theorem storeEnable_resetting (v : Bool) : (s.storeEnable v).resetting = s.resetting := rfl
@[simp] theorem storeEnable_requests (v : Bool) : (s.storeEnable v).requests = s.requests := rfl
@[simp] theorem storeEnable_nextRequest (v : Bool) : (s.storeEnable v).nextRequest = s.nextRequest := rfl
@[simp] theorem storeEnable_choices (v : Bool) : (s.storeEnable v).choices = s.choices := rfl
@[simp] theorem storeEnable_line (v : Bool) (k' : LineId) : (s.storeEnable v).line k' = s.line k' := rfl
@[simp] theorem storeEnable_route (v : Bool) (k' : SourceId) : (s.storeEnable v).route k' = s.route k' := rfl
@[simp] theorem storeEnable_interval (v : Bool) (k' : SourceId) : (s.storeEnable v).interval k' = s.interval k' := rfl
@[simp] theorem storeEnable_record (v : Bool) (k' : SourceId) : (s.storeEnable v).record k' = s.record k' := rfl
@[simp] theorem storeEnable_tally (v : Bool) (k' : SourceId) : (s.storeEnable v).tally k' = s.tally k' := rfl
@[simp] theorem storeEnable_config (v : Bool) (k' : BundleId) : (s.storeEnable v).config k' = s.config k' := rfl
@[simp] theorem storeEnable_run (v : Bool) (k' : BundleId) : (s.storeEnable v).run k' = s.run k' := rfl
@[simp] theorem storeEnable_target (v : Bool) (k' : TargetId) : (s.storeEnable v).target k' = s.target k' := rfl

/-! ### setStale -/

@[simp] theorem setStale_pending (k : Nat) : (s.setStale k).pending = s.pending := rfl
@[simp] theorem setStale_timebase (k : Nat) : (s.setStale k).timebase = s.timebase := rfl
@[simp] theorem setStale_lines (k : Nat) : (s.setStale k).lines = s.lines := rfl
@[simp] theorem setStale_routes (k : Nat) : (s.setStale k).routes = s.routes := rfl
@[simp] theorem setStale_intervals (k : Nat) : (s.setStale k).intervals = s.intervals := rfl
@[simp] theorem setStale_records (k : Nat) : (s.setStale k).records = s.records := rfl
@[simp] theorem setStale_tallies (k : Nat) : (s.setStale k).tallies = s.tallies := rfl
@[simp] theorem setStale_bundleConfig (k : Nat) : (s.setStale k).bundleConfig = s.bundleConfig := rfl
@[simp] theorem setStale_bundleRun (k : Nat) : (s.setStale k).bundleRun = s.bundleRun := rfl
@[simp] theorem setStale_assembly (k : Nat) : (s.setStale k).assembly = s.assembly := rfl
@[simp] theorem setStale_roundRobin (k : Nat) : (s.setStale k).roundRobin = s.roundRobin := rfl
@[simp] theorem setStale_targets (k : Nat) : (s.setStale k).targets = s.targets := rfl
@[simp] theorem setStale_proc (k : Nat) : (s.setStale k).proc = s.proc := rfl
@[simp] theorem setStale_enable (k : Nat) : (s.setStale k).enable = s.enable := rfl
@[simp] theorem setStale_setupAddrLo (k : Nat) : (s.setStale k).setupAddrLo = s.setupAddrLo := rfl
@[simp] theorem setStale_setupAddrHi (k : Nat) : (s.setStale k).setupAddrHi = s.setupAddrHi := rfl
@[simp] theorem setStale_resetting (k : Nat) : (s.setStale k).resetting = s.resetting := rfl
@[simp] theorem setStale_requests (k : Nat) : (s.setStale k).requests = s.requests := rfl
@[simp] theorem setStale_nextRequest (k : Nat) : (s.setStale k).nextRequest = s.nextRequest := rfl
@[simp] theorem setStale_choices (k : Nat) : (s.setStale k).choices = s.choices := rfl
@[simp] theorem setStale_line (k : Nat) (k' : LineId) : (s.setStale k).line k' = s.line k' := rfl
@[simp] theorem setStale_route (k : Nat) (k' : SourceId) : (s.setStale k).route k' = s.route k' := rfl
@[simp] theorem setStale_interval (k : Nat) (k' : SourceId) : (s.setStale k).interval k' = s.interval k' := rfl
@[simp] theorem setStale_record (k : Nat) (k' : SourceId) : (s.setStale k).record k' = s.record k' := rfl
@[simp] theorem setStale_tally (k : Nat) (k' : SourceId) : (s.setStale k).tally k' = s.tally k' := rfl
@[simp] theorem setStale_config (k : Nat) (k' : BundleId) : (s.setStale k).config k' = s.config k' := rfl
@[simp] theorem setStale_run (k : Nat) (k' : BundleId) : (s.setStale k).run k' = s.run k' := rfl
@[simp] theorem setStale_target (k : Nat) (k' : TargetId) : (s.setStale k).target k' = s.target k' := rfl

@[simp] theorem updProc_proc (f : Processor → Processor) : (s.updProc f).proc = f s.proc := rfl
@[simp] theorem issueRequest_nextRequest (w : Issuer) (a : Addr) (k : Access) :
    (s.issueRequest w a k).nextRequest = s.nextRequest + 1 := rfl
@[simp] theorem issueRequest_requests (w : Issuer) (a : Addr) (k : Access) :
    (s.issueRequest w a k).requests = s.requests ++ [⟨s.nextRequest, w, a, k, Config.requestTimeout⟩] := rfl
@[simp] theorem endRequest_requests (i : Nat) : (s.endRequest i).requests = s.requests.filter fun r => r.id != i := rfl
@[simp] theorem setAssembly_assembly (a : Option Assembly) : (s.setAssembly a).assembly = a := rfl
@[simp] theorem setTurn_roundRobin (b : BundleId) : (s.setTurn b).roundRobin = b := rfl
@[simp] theorem setTimebase_timebase (v : Time) : (s.setTimebase v).timebase = v := rfl
@[simp] theorem storeEnable_enable (v : Bool) : (s.storeEnable v).enable = v := rfl
@[simp] theorem setStale_staleCount (k : Nat) : (s.setStale k).staleCount = k := rfl

/-! ### Readers after the writer of their array -/

theorem setLine_line (l m : LineId) (x : Line) : (s.setLine l x).line m = if m = l then x else s.line m := by
  simp [setLine, line, Vector.getElem_set, Fin.ext_iff, eq_comm]
@[simp] theorem setLine_line_self (l : LineId) (x : Line) : (s.setLine l x).line l = x := by simp [setLine_line]
theorem setLine_line_ne {l m : LineId} (x : Line) (h : m ≠ l) : (s.setLine l x).line m = s.line m := by
  simp [setLine_line, h]
theorem setRoute_route (n m : SourceId) (e : RouteEntry) : (s.setRoute n e).route m = if m = n then e else s.route m := by
  simp [setRoute, route, Vector.getElem_set, Fin.ext_iff, eq_comm]
@[simp] theorem setRoute_route_self (n : SourceId) (e : RouteEntry) : (s.setRoute n e).route n = e := by simp [setRoute_route]
theorem setRoute_route_ne {n m : SourceId} (e : RouteEntry) (h : m ≠ n) : (s.setRoute n e).route m = s.route m := by
  simp [setRoute_route, h]
theorem setInterval_interval (n m : SourceId) (x : Word) : (s.setInterval n x).interval m = if m = n then x else s.interval m := by
  simp [setInterval, interval, Vector.getElem_set, Fin.ext_iff, eq_comm]
@[simp] theorem setInterval_interval_self (n : SourceId) (x : Word) : (s.setInterval n x).interval n = x := by simp [setInterval_interval]
theorem setInterval_interval_ne {n m : SourceId} (x : Word) (h : m ≠ n) : (s.setInterval n x).interval m = s.interval m := by
  simp [setInterval_interval, h]
theorem setRecord_record (n m : SourceId) (r : Option PendingRecord) : (s.setRecord n r).record m = if m = n then r else s.record m := by
  simp [setRecord, record, Vector.getElem_set, Fin.ext_iff, eq_comm]
@[simp] theorem setRecord_record_self (n : SourceId) (r : Option PendingRecord) : (s.setRecord n r).record n = r := by simp [setRecord_record]
theorem setRecord_record_ne {n m : SourceId} (r : Option PendingRecord) (h : m ≠ n) : (s.setRecord n r).record m = s.record m := by
  simp [setRecord_record, h]
theorem updTally_tally (n m : SourceId) (f : Tallies → Tallies) : (s.updTally n f).tally m = if m = n then f (s.tally n) else s.tally m := by
  simp [updTally, tally, Vector.getElem_set, Fin.ext_iff, eq_comm]
@[simp] theorem updTally_tally_self (n : SourceId) (f : Tallies → Tallies) : (s.updTally n f).tally n = f (s.tally n) := by simp [updTally_tally]
theorem updTally_tally_ne {n m : SourceId} (f : Tallies → Tallies) (h : m ≠ n) : (s.updTally n f).tally m = s.tally m := by
  simp [updTally_tally, h]
theorem setConfig_config (b m : BundleId) (c : BundleConfig) : (s.setConfig b c).config m = if m = b then c else s.config m := by
  simp [setConfig, config, Vector.getElem_set, Fin.ext_iff, eq_comm]
@[simp] theorem setConfig_config_self (b : BundleId) (c : BundleConfig) : (s.setConfig b c).config b = c := by simp [setConfig_config]
theorem setConfig_config_ne {b m : BundleId} (c : BundleConfig) (h : m ≠ b) : (s.setConfig b c).config m = s.config m := by
  simp [setConfig_config, h]
theorem updRun_run (b m : BundleId) (f : BundleRun → BundleRun) : (s.updRun b f).run m = if m = b then f (s.run b) else s.run m := by
  simp [updRun, run, Vector.getElem_set, Fin.ext_iff, eq_comm]
@[simp] theorem updRun_run_self (b : BundleId) (f : BundleRun → BundleRun) : (s.updRun b f).run b = f (s.run b) := by simp [updRun_run]
theorem updRun_run_ne {b m : BundleId} (f : BundleRun → BundleRun) (h : m ≠ b) : (s.updRun b f).run m = s.run m := by
  simp [updRun_run, h]
theorem updTarget_target (t m : TargetId) (f : Target → Target) : (s.updTarget t f).target m = if m = t then f (s.target t) else s.target m := by
  simp [updTarget, target, Vector.getElem_set, Fin.ext_iff, eq_comm]
@[simp] theorem updTarget_target_self (t : TargetId) (f : Target → Target) : (s.updTarget t f).target t = f (s.target t) := by simp [updTarget_target]
theorem updTarget_target_ne {t m : TargetId} (f : Target → Target) (h : m ≠ t) : (s.updTarget t f).target m = s.target m := by
  simp [updTarget_target, h]

end Sys2Proof.Machine.State
end

