-- ==== Sys2Proof/Laws/Frames.lean ====
section
/-! SUPPORT. Sys2Proof/Laws/Frames.lean: for each shared operation, one lemma with every field and reader of State that it
leaves alone. -/
namespace Sys2Proof.Machine

/-- What the reservations are measured against: the setup, a restart, and the completion indices (R134, R137). -/
def Processor.path (p : Processor) : Option SetupBlock × Bool × Word × Word := (p.setup, p.restarting, p.cplProduced, p.cplConsumed)

/-- The commands taken and not yet answered, each of which holds a reservation or, in hand, is to have one (R137, R144). -/
def Processor.held (p : Processor) : Nat := p.deferred.length + p.completions.length + p.hand.toList.length

@[simp] theorem Processor.path_of (p : Processor) (st : ProcState) (pr tk : Word) (h : Option Hand) (d : List Deferred) (c : List Completion) :
    (⟨st, p.setup, pr, tk, h, d, c, p.cplProduced, p.cplConsumed, p.restarting⟩ : Processor).path = p.path := rfl

@[simp] theorem Processor.held_of (p : Processor) (st : ProcState) (su : Option SetupBlock) (pr tk cp cc : Word) (r : Bool) :
    (⟨st, su, pr, tk, p.hand, p.deferred, p.completions, cp, cc, r⟩ : Processor).held = p.held := rfl

namespace State

/-- How many requests of the two issuers on which the reservations rest are outstanding: command reads (R137) and setup reads
(R133). -/
def claims (s : State) : Nat × Nat := (s.outstanding .commandRead, s.outstanding .setupRead)

@[simp] theorem updTarget_claims (s : State) (t : TargetId) (f : Target → Target) : (s.updTarget t f).claims = s.claims := rfl
@[simp] theorem updRun_claims (s : State) (b : BundleId) (f : BundleRun → BundleRun) : (s.updRun b f).claims = s.claims := rfl
@[simp] theorem updTally_claims (s : State) (n : SourceId) (f : Tallies → Tallies) : (s.updTally n f).claims = s.claims := rfl
@[simp] theorem setRecord_claims (s : State) (n : SourceId) (r : Option PendingRecord) : (s.setRecord n r).claims = s.claims := rfl
@[simp] theorem setInterval_claims (s : State) (n : SourceId) (x : Word) : (s.setInterval n x).claims = s.claims := rfl
@[simp] theorem setLine_claims (s : State) (l : LineId) (x : Line) : (s.setLine l x).claims = s.claims := rfl
@[simp] theorem setRoute_claims (s : State) (n : SourceId) (e : RouteEntry) : (s.setRoute n e).claims = s.claims := rfl
@[simp] theorem setConfig_claims (s : State) (b : BundleId) (c : BundleConfig) : (s.setConfig b c).claims = s.claims := rfl
@[simp] theorem setTurn_claims (s : State) (b : BundleId) : (s.setTurn b).claims = s.claims := rfl
@[simp] theorem setAssembly_claims (s : State) (a : Option Assembly) : (s.setAssembly a).claims = s.claims := rfl
@[simp] theorem updProc_claims (s : State) (f : Processor → Processor) : (s.updProc f).claims = s.claims := rfl
@[simp] theorem setTimebase_claims (s : State) (v : Time) : (s.setTimebase v).claims = s.claims := rfl
@[simp] theorem storeEnable_claims (s : State) (v : Bool) : (s.storeEnable v).claims = s.claims := rfl
@[simp] theorem setStale_claims (s : State) (k : Nat) : (s.setStale k).claims = s.claims := rfl

@[simp] theorem issueRequest_claims (s : State) (w : Issuer) (a : Addr) (k : Access) (h : w ≠ .commandRead) (h' : w ≠ .setupRead) :
    (s.issueRequest w a k).claims = s.claims := by
  simp [claims, outstanding, List.countP_append, h, h']

@[simp] theorem issueConsumerRead_frame (s : State) (t : TargetId) :
    (s.issueConsumerRead t).pending = s.pending ∧ (s.issueConsumerRead t).timebase = s.timebase ∧
    (s.issueConsumerRead t).lines = s.lines ∧ (s.issueConsumerRead t).routes = s.routes ∧
    (s.issueConsumerRead t).intervals = s.intervals ∧ (s.issueConsumerRead t).records = s.records ∧
    (s.issueConsumerRead t).tallies = s.tallies ∧ (s.issueConsumerRead t).bundleConfig = s.bundleConfig ∧
    (s.issueConsumerRead t).bundleRun = s.bundleRun ∧ (s.issueConsumerRead t).assembly = s.assembly ∧
    (s.issueConsumerRead t).roundRobin = s.roundRobin ∧ (s.issueConsumerRead t).targets = s.targets ∧
    (s.issueConsumerRead t).proc = s.proc ∧ (s.issueConsumerRead t).enable = s.enable ∧
    (s.issueConsumerRead t).setupAddrLo = s.setupAddrLo ∧ (s.issueConsumerRead t).setupAddrHi = s.setupAddrHi ∧
    (s.issueConsumerRead t).staleCount = s.staleCount ∧ (s.issueConsumerRead t).resetting = s.resetting ∧
    (s.issueConsumerRead t).choices = s.choices ∧ (∀ k', (s.issueConsumerRead t).line k' = s.line k') ∧
    (∀ k', (s.issueConsumerRead t).route k' = s.route k') ∧ (∀ k', (s.issueConsumerRead t).interval k' = s.interval k') ∧
    (∀ k', (s.issueConsumerRead t).record k' = s.record k') ∧ (∀ k', (s.issueConsumerRead t).tally k' = s.tally k') ∧
    (∀ k', (s.issueConsumerRead t).config k' = s.config k') ∧ (∀ k', (s.issueConsumerRead t).run k' = s.run k') ∧
    (∀ k', (s.issueConsumerRead t).target k' = s.target k') ∧ (s.issueConsumerRead t).claims = s.claims := by
  unfold issueConsumerRead; (repeat' split) <;> simp

@[simp] theorem rejudgeSpace_frame (s : State) (t : TargetId) :
    (s.rejudgeSpace t).pending = s.pending ∧ (s.rejudgeSpace t).timebase = s.timebase ∧ (s.rejudgeSpace t).lines = s.lines ∧
    (s.rejudgeSpace t).routes = s.routes ∧ (s.rejudgeSpace t).intervals = s.intervals ∧
    (s.rejudgeSpace t).records = s.records ∧ (s.rejudgeSpace t).tallies = s.tallies ∧
    (s.rejudgeSpace t).bundleConfig = s.bundleConfig ∧ (s.rejudgeSpace t).bundleRun = s.bundleRun ∧
    (s.rejudgeSpace t).assembly = s.assembly ∧ (s.rejudgeSpace t).roundRobin = s.roundRobin ∧
    (s.rejudgeSpace t).proc = s.proc ∧ (s.rejudgeSpace t).enable = s.enable ∧
    (s.rejudgeSpace t).setupAddrLo = s.setupAddrLo ∧ (s.rejudgeSpace t).setupAddrHi = s.setupAddrHi ∧
    (s.rejudgeSpace t).staleCount = s.staleCount ∧ (s.rejudgeSpace t).resetting = s.resetting ∧
    (s.rejudgeSpace t).choices = s.choices ∧ (∀ k', (s.rejudgeSpace t).line k' = s.line k') ∧
    (∀ k', (s.rejudgeSpace t).route k' = s.route k') ∧ (∀ k', (s.rejudgeSpace t).interval k' = s.interval k') ∧
    (∀ k', (s.rejudgeSpace t).record k' = s.record k') ∧ (∀ k', (s.rejudgeSpace t).tally k' = s.tally k') ∧
    (∀ k', (s.rejudgeSpace t).config k' = s.config k') ∧ (∀ k', (s.rejudgeSpace t).run k' = s.run k') ∧
    (s.rejudgeSpace t).claims = s.claims := by
  unfold rejudgeSpace; (repeat' split) <;> simp

@[simp] theorem rejudgeSpaceOf_frame (s : State) (b : BundleId) :
    (s.rejudgeSpaceOf b).pending = s.pending ∧ (s.rejudgeSpaceOf b).timebase = s.timebase ∧
    (s.rejudgeSpaceOf b).lines = s.lines ∧ (s.rejudgeSpaceOf b).routes = s.routes ∧
    (s.rejudgeSpaceOf b).intervals = s.intervals ∧ (s.rejudgeSpaceOf b).records = s.records ∧
    (s.rejudgeSpaceOf b).tallies = s.tallies ∧ (s.rejudgeSpaceOf b).bundleConfig = s.bundleConfig ∧
    (s.rejudgeSpaceOf b).bundleRun = s.bundleRun ∧ (s.rejudgeSpaceOf b).assembly = s.assembly ∧
    (s.rejudgeSpaceOf b).roundRobin = s.roundRobin ∧ (s.rejudgeSpaceOf b).proc = s.proc ∧
    (s.rejudgeSpaceOf b).enable = s.enable ∧ (s.rejudgeSpaceOf b).setupAddrLo = s.setupAddrLo ∧
    (s.rejudgeSpaceOf b).setupAddrHi = s.setupAddrHi ∧ (s.rejudgeSpaceOf b).staleCount = s.staleCount ∧
    (s.rejudgeSpaceOf b).resetting = s.resetting ∧ (s.rejudgeSpaceOf b).choices = s.choices ∧
    (∀ k', (s.rejudgeSpaceOf b).line k' = s.line k') ∧ (∀ k', (s.rejudgeSpaceOf b).route k' = s.route k') ∧
    (∀ k', (s.rejudgeSpaceOf b).interval k' = s.interval k') ∧ (∀ k', (s.rejudgeSpaceOf b).record k' = s.record k') ∧
    (∀ k', (s.rejudgeSpaceOf b).tally k' = s.tally k') ∧ (∀ k', (s.rejudgeSpaceOf b).config k' = s.config k') ∧
    (∀ k', (s.rejudgeSpaceOf b).run k' = s.run k') ∧ (s.rejudgeSpaceOf b).claims = s.claims := by
  unfold rejudgeSpaceOf; (repeat' split) <;> simp

@[simp] theorem setState_frame (s : State) (b : BundleId) (st : BundleState) :
    (s.setState b st).pending = s.pending ∧ (s.setState b st).timebase = s.timebase ∧ (s.setState b st).lines = s.lines ∧
    (s.setState b st).routes = s.routes ∧ (s.setState b st).intervals = s.intervals ∧
    (s.setState b st).records = s.records ∧ (s.setState b st).tallies = s.tallies ∧
    (s.setState b st).bundleConfig = s.bundleConfig ∧ (s.setState b st).assembly = s.assembly ∧
    (s.setState b st).roundRobin = s.roundRobin ∧ (s.setState b st).proc = s.proc ∧ (s.setState b st).enable = s.enable ∧
    (s.setState b st).setupAddrLo = s.setupAddrLo ∧ (s.setState b st).setupAddrHi = s.setupAddrHi ∧
    (s.setState b st).staleCount = s.staleCount ∧ (s.setState b st).resetting = s.resetting ∧
    (s.setState b st).choices = s.choices ∧ (∀ k', (s.setState b st).line k' = s.line k') ∧
    (∀ k', (s.setState b st).route k' = s.route k') ∧ (∀ k', (s.setState b st).interval k' = s.interval k') ∧
    (∀ k', (s.setState b st).record k' = s.record k') ∧ (∀ k', (s.setState b st).tally k' = s.tally k') ∧
    (∀ k', (s.setState b st).config k' = s.config k') ∧ (s.setState b st).claims = s.claims := by
  unfold setState; simp

@[simp] theorem issueCompletion_frame (s : State) :
    (s.issueCompletion).pending = s.pending ∧ (s.issueCompletion).timebase = s.timebase ∧
    (s.issueCompletion).lines = s.lines ∧ (s.issueCompletion).routes = s.routes ∧
    (s.issueCompletion).intervals = s.intervals ∧ (s.issueCompletion).records = s.records ∧
    (s.issueCompletion).tallies = s.tallies ∧ (s.issueCompletion).bundleConfig = s.bundleConfig ∧
    (s.issueCompletion).bundleRun = s.bundleRun ∧ (s.issueCompletion).assembly = s.assembly ∧
    (s.issueCompletion).roundRobin = s.roundRobin ∧ (s.issueCompletion).targets = s.targets ∧
    (s.issueCompletion).proc = s.proc ∧ (s.issueCompletion).enable = s.enable ∧
    (s.issueCompletion).setupAddrLo = s.setupAddrLo ∧ (s.issueCompletion).setupAddrHi = s.setupAddrHi ∧
    (s.issueCompletion).staleCount = s.staleCount ∧ (s.issueCompletion).resetting = s.resetting ∧
    (s.issueCompletion).choices = s.choices ∧ (∀ k', (s.issueCompletion).line k' = s.line k') ∧
    (∀ k', (s.issueCompletion).route k' = s.route k') ∧ (∀ k', (s.issueCompletion).interval k' = s.interval k') ∧
    (∀ k', (s.issueCompletion).record k' = s.record k') ∧ (∀ k', (s.issueCompletion).tally k' = s.tally k') ∧
    (∀ k', (s.issueCompletion).config k' = s.config k') ∧ (∀ k', (s.issueCompletion).run k' = s.run k') ∧
    (∀ k', (s.issueCompletion).target k' = s.target k') ∧ (s.issueCompletion).claims = s.claims := by
  unfold issueCompletion; (repeat' split) <;> simp

@[simp] theorem pushCompletion_frame (s : State) (c : Completion) :
    (s.pushCompletion c).pending = s.pending ∧ (s.pushCompletion c).timebase = s.timebase ∧
    (s.pushCompletion c).lines = s.lines ∧ (s.pushCompletion c).routes = s.routes ∧
    (s.pushCompletion c).intervals = s.intervals ∧ (s.pushCompletion c).records = s.records ∧
    (s.pushCompletion c).tallies = s.tallies ∧ (s.pushCompletion c).bundleConfig = s.bundleConfig ∧
    (s.pushCompletion c).bundleRun = s.bundleRun ∧ (s.pushCompletion c).assembly = s.assembly ∧
    (s.pushCompletion c).roundRobin = s.roundRobin ∧ (s.pushCompletion c).targets = s.targets ∧
    (s.pushCompletion c).enable = s.enable ∧ (s.pushCompletion c).setupAddrLo = s.setupAddrLo ∧
    (s.pushCompletion c).setupAddrHi = s.setupAddrHi ∧ (s.pushCompletion c).staleCount = s.staleCount ∧
    (s.pushCompletion c).resetting = s.resetting ∧ (s.pushCompletion c).choices = s.choices ∧
    (∀ k', (s.pushCompletion c).line k' = s.line k') ∧ (∀ k', (s.pushCompletion c).route k' = s.route k') ∧
    (∀ k', (s.pushCompletion c).interval k' = s.interval k') ∧ (∀ k', (s.pushCompletion c).record k' = s.record k') ∧
    (∀ k', (s.pushCompletion c).tally k' = s.tally k') ∧ (∀ k', (s.pushCompletion c).config k' = s.config k') ∧
    (∀ k', (s.pushCompletion c).run k' = s.run k') ∧ (∀ k', (s.pushCompletion c).target k' = s.target k') ∧
    (s.pushCompletion c).claims = s.claims ∧ (s.pushCompletion c).proc.path = s.proc.path := by
  unfold pushCompletion; simp

/-- A completion joins those that hold reservations. -/
@[simp] theorem pushCompletion_held (s : State) (c : Completion) : (s.pushCompletion c).proc.held = s.proc.held + 1 := by
  simp [pushCompletion, Processor.held]
  omega

@[simp] theorem foldl_pushCompletion_frame (s : State) (l : List Completion) :
    (l.foldl (fun u x => u.pushCompletion x) s).pending = s.pending ∧
    (l.foldl (fun u x => u.pushCompletion x) s).timebase = s.timebase ∧
    (l.foldl (fun u x => u.pushCompletion x) s).lines = s.lines ∧
    (l.foldl (fun u x => u.pushCompletion x) s).routes = s.routes ∧
    (l.foldl (fun u x => u.pushCompletion x) s).intervals = s.intervals ∧
    (l.foldl (fun u x => u.pushCompletion x) s).records = s.records ∧
    (l.foldl (fun u x => u.pushCompletion x) s).tallies = s.tallies ∧
    (l.foldl (fun u x => u.pushCompletion x) s).bundleConfig = s.bundleConfig ∧
    (l.foldl (fun u x => u.pushCompletion x) s).bundleRun = s.bundleRun ∧
    (l.foldl (fun u x => u.pushCompletion x) s).assembly = s.assembly ∧
    (l.foldl (fun u x => u.pushCompletion x) s).roundRobin = s.roundRobin ∧
    (l.foldl (fun u x => u.pushCompletion x) s).targets = s.targets ∧
    (l.foldl (fun u x => u.pushCompletion x) s).enable = s.enable ∧
    (l.foldl (fun u x => u.pushCompletion x) s).setupAddrLo = s.setupAddrLo ∧
    (l.foldl (fun u x => u.pushCompletion x) s).setupAddrHi = s.setupAddrHi ∧
    (l.foldl (fun u x => u.pushCompletion x) s).staleCount = s.staleCount ∧
    (l.foldl (fun u x => u.pushCompletion x) s).resetting = s.resetting ∧
    (l.foldl (fun u x => u.pushCompletion x) s).choices = s.choices ∧
    (∀ k', (l.foldl (fun u x => u.pushCompletion x) s).line k' = s.line k') ∧
    (∀ k', (l.foldl (fun u x => u.pushCompletion x) s).route k' = s.route k') ∧
    (∀ k', (l.foldl (fun u x => u.pushCompletion x) s).interval k' = s.interval k') ∧
    (∀ k', (l.foldl (fun u x => u.pushCompletion x) s).record k' = s.record k') ∧
    (∀ k', (l.foldl (fun u x => u.pushCompletion x) s).tally k' = s.tally k') ∧
    (∀ k', (l.foldl (fun u x => u.pushCompletion x) s).config k' = s.config k') ∧
    (∀ k', (l.foldl (fun u x => u.pushCompletion x) s).run k' = s.run k') ∧
    (∀ k', (l.foldl (fun u x => u.pushCompletion x) s).target k' = s.target k') ∧
    (l.foldl (fun u x => u.pushCompletion x) s).claims = s.claims ∧
    (l.foldl (fun u x => u.pushCompletion x) s).proc.path = s.proc.path := by
  induction l generalizing s with
  | nil => simp
  | cons x l ih => simp [ih]

@[simp] theorem foldl_pushCompletion_held (s : State) (l : List Completion) :
    (l.foldl (fun u x => u.pushCompletion x) s).proc.held = s.proc.held + l.length := by
  induction l generalizing s with
  | nil => simp
  | cons x l ih => simp [ih]; omega

/-- Every entry of the table stays or completes. -/
theorem sweepTable_total (s : State) (gone : Option TargetId) (met : List TargetId) (h : Nat) (kept l : List Deferred) :
    (s.sweepTable gone met h kept l).1.length + (s.sweepTable gone met h kept l).2.length = kept.length + l.length := by
  induction l generalizing h kept with
  | nil => simp [sweepTable]
  | cons d l ih =>
    have h1 := fun h => ih h kept
    have h2 := fun h => ih h (kept ++ [d])
    simp only [List.length_append, List.length_cons, List.length_nil] at h2 ⊢
    unfold sweepTable
    split <;> split <;> first
      | (have := h1 0; simp only [List.length_cons]; omega)
      | (have := h1 h; simp only [List.length_cons]; omega)
      | (have := h2 h; omega)

@[simp] theorem sweepDeferredFor_frame (s : State) (gone : Option TargetId) (h : Nat) (met : List TargetId) :
    (s.sweepDeferredFor gone h met).pending = s.pending ∧ (s.sweepDeferredFor gone h met).timebase = s.timebase ∧
    (s.sweepDeferredFor gone h met).lines = s.lines ∧ (s.sweepDeferredFor gone h met).routes = s.routes ∧
    (s.sweepDeferredFor gone h met).intervals = s.intervals ∧ (s.sweepDeferredFor gone h met).records = s.records ∧
    (s.sweepDeferredFor gone h met).tallies = s.tallies ∧ (s.sweepDeferredFor gone h met).bundleConfig = s.bundleConfig ∧
    (s.sweepDeferredFor gone h met).bundleRun = s.bundleRun ∧ (s.sweepDeferredFor gone h met).assembly = s.assembly ∧
    (s.sweepDeferredFor gone h met).roundRobin = s.roundRobin ∧ (s.sweepDeferredFor gone h met).targets = s.targets ∧
    (s.sweepDeferredFor gone h met).enable = s.enable ∧ (s.sweepDeferredFor gone h met).setupAddrLo = s.setupAddrLo ∧
    (s.sweepDeferredFor gone h met).setupAddrHi = s.setupAddrHi ∧
    (s.sweepDeferredFor gone h met).staleCount = s.staleCount ∧ (s.sweepDeferredFor gone h met).resetting = s.resetting ∧
    (s.sweepDeferredFor gone h met).choices = s.choices ∧ (∀ k', (s.sweepDeferredFor gone h met).line k' = s.line k') ∧
    (∀ k', (s.sweepDeferredFor gone h met).route k' = s.route k') ∧
    (∀ k', (s.sweepDeferredFor gone h met).interval k' = s.interval k') ∧
    (∀ k', (s.sweepDeferredFor gone h met).record k' = s.record k') ∧
    (∀ k', (s.sweepDeferredFor gone h met).tally k' = s.tally k') ∧
    (∀ k', (s.sweepDeferredFor gone h met).config k' = s.config k') ∧
    (∀ k', (s.sweepDeferredFor gone h met).run k' = s.run k') ∧
    (∀ k', (s.sweepDeferredFor gone h met).target k' = s.target k') ∧ (s.sweepDeferredFor gone h met).claims = s.claims ∧
    (s.sweepDeferredFor gone h met).proc.path = s.proc.path ∧ (s.sweepDeferredFor gone h met).proc.held = s.proc.held := by
  have := sweepTable_total s gone met h [] s.proc.deferred
  simp [sweepDeferredFor]
  simp only [Processor.held, List.length_nil] at this ⊢
  omega

@[simp] theorem sweepDeferred_frame (s : State) :
    (s.sweepDeferred).pending = s.pending ∧ (s.sweepDeferred).timebase = s.timebase ∧ (s.sweepDeferred).lines = s.lines ∧
    (s.sweepDeferred).routes = s.routes ∧ (s.sweepDeferred).intervals = s.intervals ∧
    (s.sweepDeferred).records = s.records ∧ (s.sweepDeferred).tallies = s.tallies ∧
    (s.sweepDeferred).bundleConfig = s.bundleConfig ∧ (s.sweepDeferred).bundleRun = s.bundleRun ∧
    (s.sweepDeferred).assembly = s.assembly ∧ (s.sweepDeferred).roundRobin = s.roundRobin ∧
    (s.sweepDeferred).targets = s.targets ∧ (s.sweepDeferred).enable = s.enable ∧
    (s.sweepDeferred).setupAddrLo = s.setupAddrLo ∧ (s.sweepDeferred).setupAddrHi = s.setupAddrHi ∧
    (s.sweepDeferred).staleCount = s.staleCount ∧ (s.sweepDeferred).resetting = s.resetting ∧
    (s.sweepDeferred).choices = s.choices ∧ (∀ k', (s.sweepDeferred).line k' = s.line k') ∧
    (∀ k', (s.sweepDeferred).route k' = s.route k') ∧ (∀ k', (s.sweepDeferred).interval k' = s.interval k') ∧
    (∀ k', (s.sweepDeferred).record k' = s.record k') ∧ (∀ k', (s.sweepDeferred).tally k' = s.tally k') ∧
    (∀ k', (s.sweepDeferred).config k' = s.config k') ∧ (∀ k', (s.sweepDeferred).run k' = s.run k') ∧
    (∀ k', (s.sweepDeferred).target k' = s.target k') ∧ (s.sweepDeferred).claims = s.claims ∧
    (s.sweepDeferred).proc.path = s.proc.path ∧ (s.sweepDeferred).proc.held = s.proc.held := by
  unfold sweepDeferred; simp

@[simp] theorem listGained_frame (s : State) (b : Option BundleId) :
    (s.listGained b).pending = s.pending ∧ (s.listGained b).timebase = s.timebase ∧ (s.listGained b).lines = s.lines ∧
    (s.listGained b).routes = s.routes ∧ (s.listGained b).intervals = s.intervals ∧ (s.listGained b).records = s.records ∧
    (s.listGained b).tallies = s.tallies ∧ (s.listGained b).bundleConfig = s.bundleConfig ∧
    (s.listGained b).assembly = s.assembly ∧ (s.listGained b).roundRobin = s.roundRobin ∧ (s.listGained b).proc = s.proc ∧
    (s.listGained b).enable = s.enable ∧ (s.listGained b).setupAddrLo = s.setupAddrLo ∧
    (s.listGained b).setupAddrHi = s.setupAddrHi ∧ (s.listGained b).staleCount = s.staleCount ∧
    (s.listGained b).resetting = s.resetting ∧ (s.listGained b).choices = s.choices ∧
    (∀ k', (s.listGained b).line k' = s.line k') ∧ (∀ k', (s.listGained b).route k' = s.route k') ∧
    (∀ k', (s.listGained b).interval k' = s.interval k') ∧ (∀ k', (s.listGained b).record k' = s.record k') ∧
    (∀ k', (s.listGained b).tally k' = s.tally k') ∧ (∀ k', (s.listGained b).config k' = s.config k') ∧
    (s.listGained b).claims = s.claims := by
  unfold listGained; (repeat' split) <;> simp

@[simp] theorem listLost_frame (s : State) (b : Option BundleId) :
    (s.listLost b).pending = s.pending ∧ (s.listLost b).timebase = s.timebase ∧ (s.listLost b).lines = s.lines ∧
    (s.listLost b).routes = s.routes ∧ (s.listLost b).intervals = s.intervals ∧ (s.listLost b).records = s.records ∧
    (s.listLost b).tallies = s.tallies ∧ (s.listLost b).bundleConfig = s.bundleConfig ∧
    (s.listLost b).assembly = s.assembly ∧ (s.listLost b).roundRobin = s.roundRobin ∧ (s.listLost b).enable = s.enable ∧
    (s.listLost b).setupAddrLo = s.setupAddrLo ∧ (s.listLost b).setupAddrHi = s.setupAddrHi ∧
    (s.listLost b).staleCount = s.staleCount ∧ (s.listLost b).resetting = s.resetting ∧ (s.listLost b).choices = s.choices ∧
    (∀ k', (s.listLost b).line k' = s.line k') ∧ (∀ k', (s.listLost b).route k' = s.route k') ∧
    (∀ k', (s.listLost b).interval k' = s.interval k') ∧ (∀ k', (s.listLost b).record k' = s.record k') ∧
    (∀ k', (s.listLost b).tally k' = s.tally k') ∧ (∀ k', (s.listLost b).config k' = s.config k') ∧
    (s.listLost b).claims = s.claims ∧ (s.listLost b).proc.path = s.proc.path ∧ (s.listLost b).proc.held = s.proc.held := by
  unfold listLost; (repeat' split) <;> simp

@[simp] theorem settleByList_frame (s : State) (b : BundleId) :
    (s.settleByList b).pending = s.pending ∧ (s.settleByList b).timebase = s.timebase ∧ (s.settleByList b).lines = s.lines ∧
    (s.settleByList b).routes = s.routes ∧ (s.settleByList b).intervals = s.intervals ∧
    (s.settleByList b).records = s.records ∧ (s.settleByList b).tallies = s.tallies ∧
    (s.settleByList b).bundleConfig = s.bundleConfig ∧ (s.settleByList b).assembly = s.assembly ∧
    (s.settleByList b).roundRobin = s.roundRobin ∧ (s.settleByList b).proc = s.proc ∧ (s.settleByList b).enable = s.enable ∧
    (s.settleByList b).setupAddrLo = s.setupAddrLo ∧ (s.settleByList b).setupAddrHi = s.setupAddrHi ∧
    (s.settleByList b).staleCount = s.staleCount ∧ (s.settleByList b).resetting = s.resetting ∧
    (s.settleByList b).choices = s.choices ∧ (∀ k', (s.settleByList b).line k' = s.line k') ∧
    (∀ k', (s.settleByList b).route k' = s.route k') ∧ (∀ k', (s.settleByList b).interval k' = s.interval k') ∧
    (∀ k', (s.settleByList b).record k' = s.record k') ∧ (∀ k', (s.settleByList b).tally k' = s.tally k') ∧
    (∀ k', (s.settleByList b).config k' = s.config k') ∧ (s.settleByList b).claims = s.claims := by
  unfold settleByList; simp

@[simp] theorem arrive_frame (s : State) (n : SourceId) (d : Option Half) :
    (s.arrive n d).pending = s.pending ∧ (s.arrive n d).timebase = s.timebase ∧ (s.arrive n d).lines = s.lines ∧
    (s.arrive n d).routes = s.routes ∧ (s.arrive n d).bundleConfig = s.bundleConfig ∧ (s.arrive n d).assembly = s.assembly ∧
    (s.arrive n d).roundRobin = s.roundRobin ∧ (s.arrive n d).proc = s.proc ∧ (s.arrive n d).enable = s.enable ∧
    (s.arrive n d).setupAddrLo = s.setupAddrLo ∧ (s.arrive n d).setupAddrHi = s.setupAddrHi ∧
    (s.arrive n d).staleCount = s.staleCount ∧ (s.arrive n d).resetting = s.resetting ∧ (s.arrive n d).choices = s.choices ∧
    (∀ k', (s.arrive n d).line k' = s.line k') ∧ (∀ k', (s.arrive n d).route k' = s.route k') ∧
    (∀ k', (s.arrive n d).config k' = s.config k') ∧ (s.arrive n d).claims = s.claims := by
  unfold arrive; (repeat' split) <;> simp

@[simp] theorem acceptOne_frame (s : State) (n : SourceId) (d : Option Half) :
    (s.acceptOne n d).pending = s.pending ∧ (s.acceptOne n d).timebase = s.timebase ∧ (s.acceptOne n d).lines = s.lines ∧
    (s.acceptOne n d).routes = s.routes ∧ (s.acceptOne n d).bundleConfig = s.bundleConfig ∧
    (s.acceptOne n d).assembly = s.assembly ∧ (s.acceptOne n d).roundRobin = s.roundRobin ∧
    (s.acceptOne n d).proc = s.proc ∧ (s.acceptOne n d).enable = s.enable ∧ (s.acceptOne n d).setupAddrLo = s.setupAddrLo ∧
    (s.acceptOne n d).setupAddrHi = s.setupAddrHi ∧ (s.acceptOne n d).staleCount = s.staleCount ∧
    (s.acceptOne n d).resetting = s.resetting ∧ (s.acceptOne n d).choices = s.choices ∧
    (∀ k', (s.acceptOne n d).line k' = s.line k') ∧ (∀ k', (s.acceptOne n d).route k' = s.route k') ∧
    (∀ k', (s.acceptOne n d).config k' = s.config k') ∧ (s.acceptOne n d).claims = s.claims := by
  unfold acceptOne; (repeat' split) <;> simp

@[simp] theorem accept_frame (s : State) (n : SourceId) (d : Option Half) :
    (s.accept n d).pending = s.pending ∧ (s.accept n d).timebase = s.timebase ∧ (s.accept n d).lines = s.lines ∧
    (s.accept n d).routes = s.routes ∧ (s.accept n d).bundleConfig = s.bundleConfig ∧ (s.accept n d).assembly = s.assembly ∧
    (s.accept n d).roundRobin = s.roundRobin ∧ (s.accept n d).proc = s.proc ∧ (s.accept n d).enable = s.enable ∧
    (s.accept n d).setupAddrLo = s.setupAddrLo ∧ (s.accept n d).setupAddrHi = s.setupAddrHi ∧
    (s.accept n d).staleCount = s.staleCount ∧ (s.accept n d).resetting = s.resetting ∧ (s.accept n d).choices = s.choices ∧
    (∀ k', (s.accept n d).line k' = s.line k') ∧ (∀ k', (s.accept n d).route k' = s.route k') ∧
    (∀ k', (s.accept n d).config k' = s.config k') ∧ (s.accept n d).claims = s.claims := by
  unfold accept; (repeat' split) <;> simp

@[simp] theorem acceptMany_frame (s : State) (n : SourceId) (d : Option Half) (k : Nat) :
    (s.acceptMany n d k).pending = s.pending ∧ (s.acceptMany n d k).timebase = s.timebase ∧
    (s.acceptMany n d k).lines = s.lines ∧ (s.acceptMany n d k).routes = s.routes ∧
    (s.acceptMany n d k).bundleConfig = s.bundleConfig ∧ (s.acceptMany n d k).assembly = s.assembly ∧
    (s.acceptMany n d k).roundRobin = s.roundRobin ∧ (s.acceptMany n d k).proc = s.proc ∧
    (s.acceptMany n d k).enable = s.enable ∧ (s.acceptMany n d k).setupAddrLo = s.setupAddrLo ∧
    (s.acceptMany n d k).setupAddrHi = s.setupAddrHi ∧ (s.acceptMany n d k).staleCount = s.staleCount ∧
    (s.acceptMany n d k).resetting = s.resetting ∧ (s.acceptMany n d k).choices = s.choices ∧
    (∀ k', (s.acceptMany n d k).line k' = s.line k') ∧ (∀ k', (s.acceptMany n d k).route k' = s.route k') ∧
    (∀ k', (s.acceptMany n d k).config k' = s.config k') ∧ (s.acceptMany n d k).claims = s.claims := by
  induction k generalizing s with
  | zero => simp [acceptMany]
  | succ k ih => simp [acceptMany, ih]

@[simp] theorem levelCheck_frame (s : State) (n : SourceId) :
    (s.levelCheck n).pending = s.pending ∧ (s.levelCheck n).timebase = s.timebase ∧ (s.levelCheck n).lines = s.lines ∧
    (s.levelCheck n).routes = s.routes ∧ (s.levelCheck n).bundleConfig = s.bundleConfig ∧
    (s.levelCheck n).assembly = s.assembly ∧ (s.levelCheck n).roundRobin = s.roundRobin ∧ (s.levelCheck n).proc = s.proc ∧
    (s.levelCheck n).enable = s.enable ∧ (s.levelCheck n).setupAddrLo = s.setupAddrLo ∧
    (s.levelCheck n).setupAddrHi = s.setupAddrHi ∧ (s.levelCheck n).staleCount = s.staleCount ∧
    (s.levelCheck n).resetting = s.resetting ∧ (s.levelCheck n).choices = s.choices ∧
    (∀ k', (s.levelCheck n).line k' = s.line k') ∧ (∀ k', (s.levelCheck n).route k' = s.route k') ∧
    (∀ k', (s.levelCheck n).config k' = s.config k') ∧ (s.levelCheck n).claims = s.claims := by
  unfold levelCheck; (repeat' split) <;> simp

@[simp] theorem reassert_frame (s : State) (l : List SourceId) :
    (s.reassert l).pending = s.pending ∧ (s.reassert l).timebase = s.timebase ∧ (s.reassert l).lines = s.lines ∧
    (s.reassert l).routes = s.routes ∧ (s.reassert l).bundleConfig = s.bundleConfig ∧ (s.reassert l).assembly = s.assembly ∧
    (s.reassert l).roundRobin = s.roundRobin ∧ (s.reassert l).proc = s.proc ∧ (s.reassert l).enable = s.enable ∧
    (s.reassert l).setupAddrLo = s.setupAddrLo ∧ (s.reassert l).setupAddrHi = s.setupAddrHi ∧
    (s.reassert l).staleCount = s.staleCount ∧ (s.reassert l).resetting = s.resetting ∧ (s.reassert l).choices = s.choices ∧
    (∀ k', (s.reassert l).line k' = s.line k') ∧ (∀ k', (s.reassert l).route k' = s.route k') ∧
    (∀ k', (s.reassert l).config k' = s.config k') ∧ (s.reassert l).claims = s.claims := by
  induction l generalizing s with
  | nil => simp [reassert]
  | cons n l ih =>
    have h := ih (s.levelCheck n)
    simp only [reassert, List.foldl_cons] at h ⊢
    simp [h]

@[simp] theorem qualify_frame (s : State) (l : LineId) :
    (s.qualify l).pending = s.pending ∧ (s.qualify l).timebase = s.timebase ∧ (s.qualify l).routes = s.routes ∧
    (s.qualify l).bundleConfig = s.bundleConfig ∧ (s.qualify l).assembly = s.assembly ∧
    (s.qualify l).roundRobin = s.roundRobin ∧ (s.qualify l).proc = s.proc ∧ (s.qualify l).enable = s.enable ∧
    (s.qualify l).setupAddrLo = s.setupAddrLo ∧ (s.qualify l).setupAddrHi = s.setupAddrHi ∧
    (s.qualify l).staleCount = s.staleCount ∧ (s.qualify l).resetting = s.resetting ∧ (s.qualify l).choices = s.choices ∧
    (∀ k', (s.qualify l).route k' = s.route k') ∧ (∀ k', (s.qualify l).config k' = s.config k') ∧
    (s.qualify l).claims = s.claims := by
  unfold qualify; dsimp only; split <;> simp

@[simp] theorem clearRecord_frame (s : State) (n : SourceId) :
    (s.clearRecord n).pending = s.pending ∧ (s.clearRecord n).timebase = s.timebase ∧ (s.clearRecord n).lines = s.lines ∧
    (s.clearRecord n).routes = s.routes ∧ (s.clearRecord n).intervals = s.intervals ∧
    (s.clearRecord n).bundleConfig = s.bundleConfig ∧ (s.clearRecord n).bundleRun = s.bundleRun ∧
    (s.clearRecord n).assembly = s.assembly ∧ (s.clearRecord n).roundRobin = s.roundRobin ∧
    (s.clearRecord n).targets = s.targets ∧ (s.clearRecord n).proc = s.proc ∧ (s.clearRecord n).enable = s.enable ∧
    (s.clearRecord n).setupAddrLo = s.setupAddrLo ∧ (s.clearRecord n).setupAddrHi = s.setupAddrHi ∧
    (s.clearRecord n).staleCount = s.staleCount ∧ (s.clearRecord n).resetting = s.resetting ∧
    (s.clearRecord n).requests = s.requests ∧ (s.clearRecord n).nextRequest = s.nextRequest ∧
    (s.clearRecord n).choices = s.choices ∧ (∀ k', (s.clearRecord n).line k' = s.line k') ∧
    (∀ k', (s.clearRecord n).route k' = s.route k') ∧ (∀ k', (s.clearRecord n).interval k' = s.interval k') ∧
    (∀ k', (s.clearRecord n).config k' = s.config k') ∧ (∀ k', (s.clearRecord n).run k' = s.run k') ∧
    (∀ k', (s.clearRecord n).target k' = s.target k') ∧ (s.clearRecord n).claims = s.claims := by
  unfold clearRecord; (repeat' split) <;> simp

@[simp] theorem foldl_clearRecord_frame (s : State) (l : List SourceId) :
    (l.foldl (fun u x => u.clearRecord x) s).pending = s.pending ∧
    (l.foldl (fun u x => u.clearRecord x) s).timebase = s.timebase ∧
    (l.foldl (fun u x => u.clearRecord x) s).lines = s.lines ∧ (l.foldl (fun u x => u.clearRecord x) s).routes = s.routes ∧
    (l.foldl (fun u x => u.clearRecord x) s).intervals = s.intervals ∧
    (l.foldl (fun u x => u.clearRecord x) s).bundleConfig = s.bundleConfig ∧
    (l.foldl (fun u x => u.clearRecord x) s).bundleRun = s.bundleRun ∧
    (l.foldl (fun u x => u.clearRecord x) s).assembly = s.assembly ∧
    (l.foldl (fun u x => u.clearRecord x) s).roundRobin = s.roundRobin ∧
    (l.foldl (fun u x => u.clearRecord x) s).targets = s.targets ∧ (l.foldl (fun u x => u.clearRecord x) s).proc = s.proc ∧
    (l.foldl (fun u x => u.clearRecord x) s).enable = s.enable ∧
    (l.foldl (fun u x => u.clearRecord x) s).setupAddrLo = s.setupAddrLo ∧
    (l.foldl (fun u x => u.clearRecord x) s).setupAddrHi = s.setupAddrHi ∧
    (l.foldl (fun u x => u.clearRecord x) s).staleCount = s.staleCount ∧
    (l.foldl (fun u x => u.clearRecord x) s).resetting = s.resetting ∧
    (l.foldl (fun u x => u.clearRecord x) s).requests = s.requests ∧
    (l.foldl (fun u x => u.clearRecord x) s).nextRequest = s.nextRequest ∧
    (l.foldl (fun u x => u.clearRecord x) s).choices = s.choices ∧
    (∀ k', (l.foldl (fun u x => u.clearRecord x) s).line k' = s.line k') ∧
    (∀ k', (l.foldl (fun u x => u.clearRecord x) s).route k' = s.route k') ∧
    (∀ k', (l.foldl (fun u x => u.clearRecord x) s).interval k' = s.interval k') ∧
    (∀ k', (l.foldl (fun u x => u.clearRecord x) s).config k' = s.config k') ∧
    (∀ k', (l.foldl (fun u x => u.clearRecord x) s).run k' = s.run k') ∧
    (∀ k', (l.foldl (fun u x => u.clearRecord x) s).target k' = s.target k') ∧
    (l.foldl (fun u x => u.clearRecord x) s).claims = s.claims := by
  induction l generalizing s with
  | nil => simp
  | cons x l ih => simp [ih]

@[simp] theorem discardRecord_frame (s : State) (n : SourceId) :
    (s.discardRecord n).pending = s.pending ∧ (s.discardRecord n).timebase = s.timebase ∧
    (s.discardRecord n).lines = s.lines ∧ (s.discardRecord n).routes = s.routes ∧
    (s.discardRecord n).intervals = s.intervals ∧ (s.discardRecord n).bundleConfig = s.bundleConfig ∧
    (s.discardRecord n).assembly = s.assembly ∧ (s.discardRecord n).roundRobin = s.roundRobin ∧
    (s.discardRecord n).enable = s.enable ∧ (s.discardRecord n).setupAddrLo = s.setupAddrLo ∧
    (s.discardRecord n).setupAddrHi = s.setupAddrHi ∧ (s.discardRecord n).staleCount = s.staleCount ∧
    (s.discardRecord n).resetting = s.resetting ∧ (s.discardRecord n).choices = s.choices ∧
    (∀ k', (s.discardRecord n).line k' = s.line k') ∧ (∀ k', (s.discardRecord n).route k' = s.route k') ∧
    (∀ k', (s.discardRecord n).interval k' = s.interval k') ∧ (∀ k', (s.discardRecord n).config k' = s.config k') ∧
    (s.discardRecord n).claims = s.claims ∧ (s.discardRecord n).proc.path = s.proc.path ∧
    (s.discardRecord n).proc.held = s.proc.held := by
  unfold discardRecord; (repeat' split) <;> simp

@[simp] theorem voidCopy_frame (s : State) (n : SourceId) :
    (s.voidCopy n).pending = s.pending ∧ (s.voidCopy n).timebase = s.timebase ∧ (s.voidCopy n).lines = s.lines ∧
    (s.voidCopy n).routes = s.routes ∧ (s.voidCopy n).intervals = s.intervals ∧ (s.voidCopy n).records = s.records ∧
    (s.voidCopy n).bundleConfig = s.bundleConfig ∧ (s.voidCopy n).bundleRun = s.bundleRun ∧
    (s.voidCopy n).roundRobin = s.roundRobin ∧ (s.voidCopy n).targets = s.targets ∧ (s.voidCopy n).proc = s.proc ∧
    (s.voidCopy n).enable = s.enable ∧ (s.voidCopy n).setupAddrLo = s.setupAddrLo ∧
    (s.voidCopy n).setupAddrHi = s.setupAddrHi ∧ (s.voidCopy n).staleCount = s.staleCount ∧
    (s.voidCopy n).resetting = s.resetting ∧ (s.voidCopy n).requests = s.requests ∧
    (s.voidCopy n).nextRequest = s.nextRequest ∧ (s.voidCopy n).choices = s.choices ∧
    (∀ k', (s.voidCopy n).line k' = s.line k') ∧ (∀ k', (s.voidCopy n).route k' = s.route k') ∧
    (∀ k', (s.voidCopy n).interval k' = s.interval k') ∧ (∀ k', (s.voidCopy n).record k' = s.record k') ∧
    (∀ k', (s.voidCopy n).config k' = s.config k') ∧ (∀ k', (s.voidCopy n).run k' = s.run k') ∧
    (∀ k', (s.voidCopy n).target k' = s.target k') ∧ (s.voidCopy n).claims = s.claims := by
  simp [voidCopy]

@[simp] theorem foldl_voidCopy_frame (s : State) (l : List Copy) :
    (l.foldl (fun u x => u.voidCopy x.source) s).pending = s.pending ∧
    (l.foldl (fun u x => u.voidCopy x.source) s).timebase = s.timebase ∧
    (l.foldl (fun u x => u.voidCopy x.source) s).lines = s.lines ∧
    (l.foldl (fun u x => u.voidCopy x.source) s).routes = s.routes ∧
    (l.foldl (fun u x => u.voidCopy x.source) s).intervals = s.intervals ∧
    (l.foldl (fun u x => u.voidCopy x.source) s).records = s.records ∧
    (l.foldl (fun u x => u.voidCopy x.source) s).bundleConfig = s.bundleConfig ∧
    (l.foldl (fun u x => u.voidCopy x.source) s).bundleRun = s.bundleRun ∧
    (l.foldl (fun u x => u.voidCopy x.source) s).roundRobin = s.roundRobin ∧
    (l.foldl (fun u x => u.voidCopy x.source) s).targets = s.targets ∧
    (l.foldl (fun u x => u.voidCopy x.source) s).proc = s.proc ∧
    (l.foldl (fun u x => u.voidCopy x.source) s).enable = s.enable ∧
    (l.foldl (fun u x => u.voidCopy x.source) s).setupAddrLo = s.setupAddrLo ∧
    (l.foldl (fun u x => u.voidCopy x.source) s).setupAddrHi = s.setupAddrHi ∧
    (l.foldl (fun u x => u.voidCopy x.source) s).staleCount = s.staleCount ∧
    (l.foldl (fun u x => u.voidCopy x.source) s).resetting = s.resetting ∧
    (l.foldl (fun u x => u.voidCopy x.source) s).requests = s.requests ∧
    (l.foldl (fun u x => u.voidCopy x.source) s).nextRequest = s.nextRequest ∧
    (l.foldl (fun u x => u.voidCopy x.source) s).choices = s.choices ∧
    (∀ k', (l.foldl (fun u x => u.voidCopy x.source) s).line k' = s.line k') ∧
    (∀ k', (l.foldl (fun u x => u.voidCopy x.source) s).route k' = s.route k') ∧
    (∀ k', (l.foldl (fun u x => u.voidCopy x.source) s).interval k' = s.interval k') ∧
    (∀ k', (l.foldl (fun u x => u.voidCopy x.source) s).record k' = s.record k') ∧
    (∀ k', (l.foldl (fun u x => u.voidCopy x.source) s).config k' = s.config k') ∧
    (∀ k', (l.foldl (fun u x => u.voidCopy x.source) s).run k' = s.run k') ∧
    (∀ k', (l.foldl (fun u x => u.voidCopy x.source) s).target k' = s.target k') ∧
    (l.foldl (fun u x => u.voidCopy x.source) s).claims = s.claims := by
  induction l generalizing s with
  | nil => simp
  | cons x l ih => simp [ih]

@[simp] theorem halt_frame (s : State) (r : HaltReason) :
    (s.halt r).pending = s.pending ∧ (s.halt r).timebase = s.timebase ∧ (s.halt r).lines = s.lines ∧
    (s.halt r).routes = s.routes ∧ (s.halt r).bundleConfig = s.bundleConfig ∧ (s.halt r).assembly = s.assembly ∧
    (s.halt r).roundRobin = s.roundRobin ∧ (s.halt r).enable = s.enable ∧ (s.halt r).setupAddrLo = s.setupAddrLo ∧
    (s.halt r).setupAddrHi = s.setupAddrHi ∧ (s.halt r).staleCount = s.staleCount ∧ (s.halt r).resetting = s.resetting ∧
    (s.halt r).choices = s.choices ∧ (∀ k', (s.halt r).line k' = s.line k') ∧ (∀ k', (s.halt r).route k' = s.route k') ∧
    (∀ k', (s.halt r).config k' = s.config k') ∧ (s.halt r).claims = s.claims ∧ (s.halt r).proc.path = s.proc.path ∧
    (s.halt r).proc.held = s.proc.held := by
  unfold halt; (repeat' split) <;> simp

@[simp] theorem complete_frame (s : State) (c : CmdId) (st : Status) (res : BitVec 64) :
    (s.complete c st res).pending = s.pending ∧ (s.complete c st res).timebase = s.timebase ∧
    (s.complete c st res).lines = s.lines ∧ (s.complete c st res).routes = s.routes ∧
    (s.complete c st res).bundleConfig = s.bundleConfig ∧ (s.complete c st res).assembly = s.assembly ∧
    (s.complete c st res).roundRobin = s.roundRobin ∧ (s.complete c st res).enable = s.enable ∧
    (s.complete c st res).setupAddrLo = s.setupAddrLo ∧ (s.complete c st res).setupAddrHi = s.setupAddrHi ∧
    (s.complete c st res).staleCount = s.staleCount ∧ (s.complete c st res).resetting = s.resetting ∧
    (s.complete c st res).choices = s.choices ∧ (∀ k', (s.complete c st res).line k' = s.line k') ∧
    (∀ k', (s.complete c st res).route k' = s.route k') ∧ (∀ k', (s.complete c st res).config k' = s.config k') ∧
    (s.complete c st res).claims = s.claims ∧ (s.complete c st res).proc.path = s.proc.path := by
  unfold complete; (repeat' split) <;> simp

@[simp] theorem handDone_frame (s : State) :
    (s.handDone).pending = s.pending ∧ (s.handDone).timebase = s.timebase ∧ (s.handDone).lines = s.lines ∧
    (s.handDone).routes = s.routes ∧ (s.handDone).intervals = s.intervals ∧ (s.handDone).records = s.records ∧
    (s.handDone).tallies = s.tallies ∧ (s.handDone).bundleConfig = s.bundleConfig ∧ (s.handDone).bundleRun = s.bundleRun ∧
    (s.handDone).assembly = s.assembly ∧ (s.handDone).roundRobin = s.roundRobin ∧ (s.handDone).targets = s.targets ∧
    (s.handDone).enable = s.enable ∧ (s.handDone).setupAddrLo = s.setupAddrLo ∧ (s.handDone).setupAddrHi = s.setupAddrHi ∧
    (s.handDone).staleCount = s.staleCount ∧ (s.handDone).resetting = s.resetting ∧ (s.handDone).requests = s.requests ∧
    (s.handDone).nextRequest = s.nextRequest ∧ (s.handDone).choices = s.choices ∧ (∀ k', (s.handDone).line k' = s.line k') ∧
    (∀ k', (s.handDone).route k' = s.route k') ∧ (∀ k', (s.handDone).interval k' = s.interval k') ∧
    (∀ k', (s.handDone).record k' = s.record k') ∧ (∀ k', (s.handDone).tally k' = s.tally k') ∧
    (∀ k', (s.handDone).config k' = s.config k') ∧ (∀ k', (s.handDone).run k' = s.run k') ∧
    (∀ k', (s.handDone).target k' = s.target k') ∧ (s.handDone).claims = s.claims ∧ (s.handDone).proc.path = s.proc.path := by
  simp [handDone]

@[simp] theorem holdInHand_frame (s : State) (h : Hand) (c : Option WaitCause) :
    (s.holdInHand h c).pending = s.pending ∧ (s.holdInHand h c).timebase = s.timebase ∧ (s.holdInHand h c).lines = s.lines ∧
    (s.holdInHand h c).routes = s.routes ∧ (s.holdInHand h c).intervals = s.intervals ∧
    (s.holdInHand h c).records = s.records ∧ (s.holdInHand h c).tallies = s.tallies ∧
    (s.holdInHand h c).bundleConfig = s.bundleConfig ∧ (s.holdInHand h c).bundleRun = s.bundleRun ∧
    (s.holdInHand h c).assembly = s.assembly ∧ (s.holdInHand h c).roundRobin = s.roundRobin ∧
    (s.holdInHand h c).targets = s.targets ∧ (s.holdInHand h c).enable = s.enable ∧
    (s.holdInHand h c).setupAddrLo = s.setupAddrLo ∧ (s.holdInHand h c).setupAddrHi = s.setupAddrHi ∧
    (s.holdInHand h c).staleCount = s.staleCount ∧ (s.holdInHand h c).resetting = s.resetting ∧
    (s.holdInHand h c).requests = s.requests ∧ (s.holdInHand h c).nextRequest = s.nextRequest ∧
    (s.holdInHand h c).choices = s.choices ∧ (∀ k', (s.holdInHand h c).line k' = s.line k') ∧
    (∀ k', (s.holdInHand h c).route k' = s.route k') ∧ (∀ k', (s.holdInHand h c).interval k' = s.interval k') ∧
    (∀ k', (s.holdInHand h c).record k' = s.record k') ∧ (∀ k', (s.holdInHand h c).tally k' = s.tally k') ∧
    (∀ k', (s.holdInHand h c).config k' = s.config k') ∧ (∀ k', (s.holdInHand h c).run k' = s.run k') ∧
    (∀ k', (s.holdInHand h c).target k' = s.target k') ∧ (s.holdInHand h c).claims = s.claims ∧
    (s.holdInHand h c).proc.path = s.proc.path := by
  simp [holdInHand]

@[simp] theorem issueSignal_frame (s : State) (t : TargetId) :
    (s.issueSignal t).pending = s.pending ∧ (s.issueSignal t).timebase = s.timebase ∧ (s.issueSignal t).lines = s.lines ∧
    (s.issueSignal t).routes = s.routes ∧ (s.issueSignal t).intervals = s.intervals ∧
    (s.issueSignal t).records = s.records ∧ (s.issueSignal t).tallies = s.tallies ∧
    (s.issueSignal t).bundleConfig = s.bundleConfig ∧ (s.issueSignal t).bundleRun = s.bundleRun ∧
    (s.issueSignal t).assembly = s.assembly ∧ (s.issueSignal t).roundRobin = s.roundRobin ∧
    (s.issueSignal t).proc = s.proc ∧ (s.issueSignal t).enable = s.enable ∧ (s.issueSignal t).setupAddrLo = s.setupAddrLo ∧
    (s.issueSignal t).setupAddrHi = s.setupAddrHi ∧ (s.issueSignal t).staleCount = s.staleCount ∧
    (s.issueSignal t).resetting = s.resetting ∧ (s.issueSignal t).choices = s.choices ∧
    (∀ k', (s.issueSignal t).line k' = s.line k') ∧ (∀ k', (s.issueSignal t).route k' = s.route k') ∧
    (∀ k', (s.issueSignal t).interval k' = s.interval k') ∧ (∀ k', (s.issueSignal t).record k' = s.record k') ∧
    (∀ k', (s.issueSignal t).tally k' = s.tally k') ∧ (∀ k', (s.issueSignal t).config k' = s.config k') ∧
    (∀ k', (s.issueSignal t).run k' = s.run k') ∧ (s.issueSignal t).claims = s.claims := by
  simp [issueSignal]

@[simp] theorem signalRules_frame (s : State) (t : TargetId) :
    (s.signalRules t).pending = s.pending ∧ (s.signalRules t).timebase = s.timebase ∧ (s.signalRules t).lines = s.lines ∧
    (s.signalRules t).routes = s.routes ∧ (s.signalRules t).intervals = s.intervals ∧
    (s.signalRules t).records = s.records ∧ (s.signalRules t).tallies = s.tallies ∧
    (s.signalRules t).bundleConfig = s.bundleConfig ∧ (s.signalRules t).bundleRun = s.bundleRun ∧
    (s.signalRules t).assembly = s.assembly ∧ (s.signalRules t).roundRobin = s.roundRobin ∧
    (s.signalRules t).proc = s.proc ∧ (s.signalRules t).enable = s.enable ∧ (s.signalRules t).setupAddrLo = s.setupAddrLo ∧
    (s.signalRules t).setupAddrHi = s.setupAddrHi ∧ (s.signalRules t).staleCount = s.staleCount ∧
    (s.signalRules t).resetting = s.resetting ∧ (s.signalRules t).choices = s.choices ∧
    (∀ k', (s.signalRules t).line k' = s.line k') ∧ (∀ k', (s.signalRules t).route k' = s.route k') ∧
    (∀ k', (s.signalRules t).interval k' = s.interval k') ∧ (∀ k', (s.signalRules t).record k' = s.record k') ∧
    (∀ k', (s.signalRules t).tally k' = s.tally k') ∧ (∀ k', (s.signalRules t).config k' = s.config k') ∧
    (∀ k', (s.signalRules t).run k' = s.run k') ∧ (s.signalRules t).claims = s.claims := by
  unfold signalRules; (repeat' split) <;> simp

@[simp] theorem rearmCheck_frame (s : State) (t : TargetId) :
    (s.rearmCheck t).pending = s.pending ∧ (s.rearmCheck t).timebase = s.timebase ∧ (s.rearmCheck t).lines = s.lines ∧
    (s.rearmCheck t).routes = s.routes ∧ (s.rearmCheck t).intervals = s.intervals ∧ (s.rearmCheck t).records = s.records ∧
    (s.rearmCheck t).tallies = s.tallies ∧ (s.rearmCheck t).bundleConfig = s.bundleConfig ∧
    (s.rearmCheck t).bundleRun = s.bundleRun ∧ (s.rearmCheck t).assembly = s.assembly ∧
    (s.rearmCheck t).roundRobin = s.roundRobin ∧ (s.rearmCheck t).proc = s.proc ∧ (s.rearmCheck t).enable = s.enable ∧
    (s.rearmCheck t).setupAddrLo = s.setupAddrLo ∧ (s.rearmCheck t).setupAddrHi = s.setupAddrHi ∧
    (s.rearmCheck t).staleCount = s.staleCount ∧ (s.rearmCheck t).resetting = s.resetting ∧
    (s.rearmCheck t).choices = s.choices ∧ (∀ k', (s.rearmCheck t).line k' = s.line k') ∧
    (∀ k', (s.rearmCheck t).route k' = s.route k') ∧ (∀ k', (s.rearmCheck t).interval k' = s.interval k') ∧
    (∀ k', (s.rearmCheck t).record k' = s.record k') ∧ (∀ k', (s.rearmCheck t).tally k' = s.tally k') ∧
    (∀ k', (s.rearmCheck t).config k' = s.config k') ∧ (∀ k', (s.rearmCheck t).run k' = s.run k') ∧
    (s.rearmCheck t).claims = s.claims := by
  unfold rearmCheck; (repeat' split) <;> simp

@[simp] theorem rejudgeHold_frame (s : State) (b : BundleId) :
    (s.rejudgeHold b).pending = s.pending ∧ (s.rejudgeHold b).timebase = s.timebase ∧ (s.rejudgeHold b).lines = s.lines ∧
    (s.rejudgeHold b).routes = s.routes ∧ (s.rejudgeHold b).intervals = s.intervals ∧
    (s.rejudgeHold b).records = s.records ∧ (s.rejudgeHold b).tallies = s.tallies ∧
    (s.rejudgeHold b).bundleConfig = s.bundleConfig ∧ (s.rejudgeHold b).assembly = s.assembly ∧
    (s.rejudgeHold b).roundRobin = s.roundRobin ∧ (s.rejudgeHold b).targets = s.targets ∧ (s.rejudgeHold b).proc = s.proc ∧
    (s.rejudgeHold b).enable = s.enable ∧ (s.rejudgeHold b).setupAddrLo = s.setupAddrLo ∧
    (s.rejudgeHold b).setupAddrHi = s.setupAddrHi ∧ (s.rejudgeHold b).staleCount = s.staleCount ∧
    (s.rejudgeHold b).resetting = s.resetting ∧ (s.rejudgeHold b).requests = s.requests ∧
    (s.rejudgeHold b).nextRequest = s.nextRequest ∧ (s.rejudgeHold b).choices = s.choices ∧
    (∀ k', (s.rejudgeHold b).line k' = s.line k') ∧ (∀ k', (s.rejudgeHold b).route k' = s.route k') ∧
    (∀ k', (s.rejudgeHold b).interval k' = s.interval k') ∧ (∀ k', (s.rejudgeHold b).record k' = s.record k') ∧
    (∀ k', (s.rejudgeHold b).tally k' = s.tally k') ∧ (∀ k', (s.rejudgeHold b).config k' = s.config k') ∧
    (∀ k', (s.rejudgeHold b).target k' = s.target k') ∧ (s.rejudgeHold b).claims = s.claims := by
  simp [rejudgeHold]

@[simp] theorem foldl_rejudgeHold_frame (s : State) (l : List BundleId) :
    (l.foldl rejudgeHold s).pending = s.pending ∧ (l.foldl rejudgeHold s).timebase = s.timebase ∧
    (l.foldl rejudgeHold s).lines = s.lines ∧ (l.foldl rejudgeHold s).routes = s.routes ∧
    (l.foldl rejudgeHold s).intervals = s.intervals ∧ (l.foldl rejudgeHold s).records = s.records ∧
    (l.foldl rejudgeHold s).tallies = s.tallies ∧ (l.foldl rejudgeHold s).bundleConfig = s.bundleConfig ∧
    (l.foldl rejudgeHold s).assembly = s.assembly ∧ (l.foldl rejudgeHold s).roundRobin = s.roundRobin ∧
    (l.foldl rejudgeHold s).targets = s.targets ∧ (l.foldl rejudgeHold s).proc = s.proc ∧
    (l.foldl rejudgeHold s).enable = s.enable ∧ (l.foldl rejudgeHold s).setupAddrLo = s.setupAddrLo ∧
    (l.foldl rejudgeHold s).setupAddrHi = s.setupAddrHi ∧ (l.foldl rejudgeHold s).staleCount = s.staleCount ∧
    (l.foldl rejudgeHold s).resetting = s.resetting ∧ (l.foldl rejudgeHold s).requests = s.requests ∧
    (l.foldl rejudgeHold s).nextRequest = s.nextRequest ∧ (l.foldl rejudgeHold s).choices = s.choices ∧
    (∀ k', (l.foldl rejudgeHold s).line k' = s.line k') ∧ (∀ k', (l.foldl rejudgeHold s).route k' = s.route k') ∧
    (∀ k', (l.foldl rejudgeHold s).interval k' = s.interval k') ∧ (∀ k', (l.foldl rejudgeHold s).record k' = s.record k') ∧
    (∀ k', (l.foldl rejudgeHold s).tally k' = s.tally k') ∧ (∀ k', (l.foldl rejudgeHold s).config k' = s.config k') ∧
    (∀ k', (l.foldl rejudgeHold s).target k' = s.target k') ∧ (l.foldl rejudgeHold s).claims = s.claims := by
  induction l generalizing s with
  | nil => simp
  | cons x l ih => simp [ih]

@[simp] theorem rejudgeHolds_frame (s : State) :
    (s.rejudgeHolds).pending = s.pending ∧ (s.rejudgeHolds).timebase = s.timebase ∧ (s.rejudgeHolds).lines = s.lines ∧
    (s.rejudgeHolds).routes = s.routes ∧ (s.rejudgeHolds).intervals = s.intervals ∧ (s.rejudgeHolds).records = s.records ∧
    (s.rejudgeHolds).tallies = s.tallies ∧ (s.rejudgeHolds).bundleConfig = s.bundleConfig ∧
    (s.rejudgeHolds).assembly = s.assembly ∧ (s.rejudgeHolds).roundRobin = s.roundRobin ∧
    (s.rejudgeHolds).targets = s.targets ∧ (s.rejudgeHolds).proc = s.proc ∧ (s.rejudgeHolds).enable = s.enable ∧
    (s.rejudgeHolds).setupAddrLo = s.setupAddrLo ∧ (s.rejudgeHolds).setupAddrHi = s.setupAddrHi ∧
    (s.rejudgeHolds).staleCount = s.staleCount ∧ (s.rejudgeHolds).resetting = s.resetting ∧
    (s.rejudgeHolds).requests = s.requests ∧ (s.rejudgeHolds).nextRequest = s.nextRequest ∧
    (s.rejudgeHolds).choices = s.choices ∧ (∀ k', (s.rejudgeHolds).line k' = s.line k') ∧
    (∀ k', (s.rejudgeHolds).route k' = s.route k') ∧ (∀ k', (s.rejudgeHolds).interval k' = s.interval k') ∧
    (∀ k', (s.rejudgeHolds).record k' = s.record k') ∧ (∀ k', (s.rejudgeHolds).tally k' = s.tally k') ∧
    (∀ k', (s.rejudgeHolds).config k' = s.config k') ∧ (∀ k', (s.rejudgeHolds).target k' = s.target k') ∧
    (s.rejudgeHolds).claims = s.claims := by
  simp [rejudgeHolds]

@[simp] theorem faultTarget_frame (s : State) (t : TargetId) (r : FaultReason) :
    (s.faultTarget t r).pending = s.pending ∧ (s.faultTarget t r).timebase = s.timebase ∧
    (s.faultTarget t r).lines = s.lines ∧ (s.faultTarget t r).routes = s.routes ∧
    (s.faultTarget t r).bundleConfig = s.bundleConfig ∧ (s.faultTarget t r).assembly = s.assembly ∧
    (s.faultTarget t r).roundRobin = s.roundRobin ∧ (s.faultTarget t r).proc = s.proc ∧
    (s.faultTarget t r).enable = s.enable ∧ (s.faultTarget t r).setupAddrLo = s.setupAddrLo ∧
    (s.faultTarget t r).setupAddrHi = s.setupAddrHi ∧ (s.faultTarget t r).staleCount = s.staleCount ∧
    (s.faultTarget t r).resetting = s.resetting ∧ (s.faultTarget t r).choices = s.choices ∧
    (∀ k', (s.faultTarget t r).line k' = s.line k') ∧ (∀ k', (s.faultTarget t r).route k' = s.route k') ∧
    (∀ k', (s.faultTarget t r).config k' = s.config k') ∧ (s.faultTarget t r).claims = s.claims := by
  unfold faultTarget; (repeat' split) <;> simp

@[simp] theorem releaseHold_frame (s : State) (b : BundleId) :
    (s.releaseHold b).pending = s.pending ∧ (s.releaseHold b).timebase = s.timebase ∧ (s.releaseHold b).lines = s.lines ∧
    (s.releaseHold b).routes = s.routes ∧ (s.releaseHold b).bundleConfig = s.bundleConfig ∧
    (s.releaseHold b).assembly = s.assembly ∧ (s.releaseHold b).roundRobin = s.roundRobin ∧
    (s.releaseHold b).proc = s.proc ∧ (s.releaseHold b).enable = s.enable ∧ (s.releaseHold b).setupAddrLo = s.setupAddrLo ∧
    (s.releaseHold b).setupAddrHi = s.setupAddrHi ∧ (s.releaseHold b).staleCount = s.staleCount ∧
    (s.releaseHold b).resetting = s.resetting ∧ (s.releaseHold b).choices = s.choices ∧
    (∀ k', (s.releaseHold b).line k' = s.line k') ∧ (∀ k', (s.releaseHold b).route k' = s.route k') ∧
    (∀ k', (s.releaseHold b).config k' = s.config k') ∧ (s.releaseHold b).claims = s.claims := by
  unfold releaseHold; simp

@[simp] theorem foldl_releaseHold_frame (s : State) (l : List BundleId) :
    (l.foldl releaseHold s).pending = s.pending ∧ (l.foldl releaseHold s).timebase = s.timebase ∧
    (l.foldl releaseHold s).lines = s.lines ∧ (l.foldl releaseHold s).routes = s.routes ∧
    (l.foldl releaseHold s).bundleConfig = s.bundleConfig ∧ (l.foldl releaseHold s).assembly = s.assembly ∧
    (l.foldl releaseHold s).roundRobin = s.roundRobin ∧ (l.foldl releaseHold s).proc = s.proc ∧
    (l.foldl releaseHold s).enable = s.enable ∧ (l.foldl releaseHold s).setupAddrLo = s.setupAddrLo ∧
    (l.foldl releaseHold s).setupAddrHi = s.setupAddrHi ∧ (l.foldl releaseHold s).staleCount = s.staleCount ∧
    (l.foldl releaseHold s).resetting = s.resetting ∧ (l.foldl releaseHold s).choices = s.choices ∧
    (∀ k', (l.foldl releaseHold s).line k' = s.line k') ∧ (∀ k', (l.foldl releaseHold s).route k' = s.route k') ∧
    (∀ k', (l.foldl releaseHold s).config k' = s.config k') ∧ (l.foldl releaseHold s).claims = s.claims := by
  induction l generalizing s with
  | nil => simp
  | cons x l ih => simp [ih]

@[simp] theorem release_frame (s : State) (b : BundleId) :
    (s.release b).pending = s.pending ∧ (s.release b).timebase = s.timebase ∧ (s.release b).lines = s.lines ∧
    (s.release b).routes = s.routes ∧ (s.release b).bundleConfig = s.bundleConfig ∧ (s.release b).assembly = s.assembly ∧
    (s.release b).roundRobin = s.roundRobin ∧ (s.release b).enable = s.enable ∧ (s.release b).setupAddrLo = s.setupAddrLo ∧
    (s.release b).setupAddrHi = s.setupAddrHi ∧ (s.release b).staleCount = s.staleCount ∧
    (s.release b).resetting = s.resetting ∧ (s.release b).choices = s.choices ∧ (∀ k', (s.release b).line k' = s.line k') ∧
    (∀ k', (s.release b).route k' = s.route k') ∧ (∀ k', (s.release b).config k' = s.config k') ∧
    (s.release b).claims = s.claims ∧ (s.release b).proc.path = s.proc.path ∧ (s.release b).proc.held = s.proc.held := by
  simp [release]

@[simp] theorem performDetach_frame (s : State) (t : TargetId) :
    (s.performDetach t).pending = s.pending ∧ (s.performDetach t).timebase = s.timebase ∧
    (s.performDetach t).lines = s.lines ∧ (s.performDetach t).routes = s.routes ∧
    (s.performDetach t).bundleConfig = s.bundleConfig ∧ (s.performDetach t).assembly = s.assembly ∧
    (s.performDetach t).roundRobin = s.roundRobin ∧ (s.performDetach t).proc = s.proc ∧
    (s.performDetach t).enable = s.enable ∧ (s.performDetach t).setupAddrLo = s.setupAddrLo ∧
    (s.performDetach t).setupAddrHi = s.setupAddrHi ∧ (s.performDetach t).staleCount = s.staleCount ∧
    (s.performDetach t).resetting = s.resetting ∧ (s.performDetach t).choices = s.choices ∧
    (∀ k', (s.performDetach t).line k' = s.line k') ∧ (∀ k', (s.performDetach t).route k' = s.route k') ∧
    (∀ k', (s.performDetach t).config k' = s.config k') ∧ (s.performDetach t).claims = s.claims := by
  simp [performDetach]

@[simp] theorem detachNow_frame (s : State) (t : TargetId) (met : List TargetId) :
    (s.detachNow t met).pending = s.pending ∧ (s.detachNow t met).timebase = s.timebase ∧
    (s.detachNow t met).lines = s.lines ∧ (s.detachNow t met).routes = s.routes ∧
    (s.detachNow t met).bundleConfig = s.bundleConfig ∧ (s.detachNow t met).assembly = s.assembly ∧
    (s.detachNow t met).roundRobin = s.roundRobin ∧ (s.detachNow t met).enable = s.enable ∧
    (s.detachNow t met).setupAddrLo = s.setupAddrLo ∧ (s.detachNow t met).setupAddrHi = s.setupAddrHi ∧
    (s.detachNow t met).staleCount = s.staleCount ∧ (s.detachNow t met).resetting = s.resetting ∧
    (s.detachNow t met).choices = s.choices ∧ (∀ k', (s.detachNow t met).line k' = s.line k') ∧
    (∀ k', (s.detachNow t met).route k' = s.route k') ∧ (∀ k', (s.detachNow t met).config k' = s.config k') ∧
    (s.detachNow t met).claims = s.claims ∧ (s.detachNow t met).proc.path = s.proc.path ∧
    (s.detachNow t met).proc.held = s.proc.held := by
  simp [detachNow]

@[simp] theorem tryDetach_frame (s : State) (t : TargetId) :
    (s.tryDetach t).pending = s.pending ∧ (s.tryDetach t).timebase = s.timebase ∧ (s.tryDetach t).lines = s.lines ∧
    (s.tryDetach t).routes = s.routes ∧ (s.tryDetach t).bundleConfig = s.bundleConfig ∧
    (s.tryDetach t).assembly = s.assembly ∧ (s.tryDetach t).roundRobin = s.roundRobin ∧ (s.tryDetach t).enable = s.enable ∧
    (s.tryDetach t).setupAddrLo = s.setupAddrLo ∧ (s.tryDetach t).setupAddrHi = s.setupAddrHi ∧
    (s.tryDetach t).staleCount = s.staleCount ∧ (s.tryDetach t).resetting = s.resetting ∧
    (s.tryDetach t).choices = s.choices ∧ (∀ k', (s.tryDetach t).line k' = s.line k') ∧
    (∀ k', (s.tryDetach t).route k' = s.route k') ∧ (∀ k', (s.tryDetach t).config k' = s.config k') ∧
    (s.tryDetach t).claims = s.claims ∧ (s.tryDetach t).proc.path = s.proc.path ∧ (s.tryDetach t).proc.held = s.proc.held := by
  unfold tryDetach; (repeat' split) <;> simp

@[simp] theorem endWaits_frame (s : State) (t : TargetId) (met : List TargetId) :
    (s.endWaits t met).pending = s.pending ∧ (s.endWaits t met).timebase = s.timebase ∧ (s.endWaits t met).lines = s.lines ∧
    (s.endWaits t met).routes = s.routes ∧ (s.endWaits t met).bundleConfig = s.bundleConfig ∧
    (s.endWaits t met).assembly = s.assembly ∧ (s.endWaits t met).roundRobin = s.roundRobin ∧
    (s.endWaits t met).enable = s.enable ∧ (s.endWaits t met).setupAddrLo = s.setupAddrLo ∧
    (s.endWaits t met).setupAddrHi = s.setupAddrHi ∧ (s.endWaits t met).staleCount = s.staleCount ∧
    (s.endWaits t met).resetting = s.resetting ∧ (s.endWaits t met).choices = s.choices ∧
    (∀ k', (s.endWaits t met).line k' = s.line k') ∧ (∀ k', (s.endWaits t met).route k' = s.route k') ∧
    (∀ k', (s.endWaits t met).config k' = s.config k') ∧ (s.endWaits t met).claims = s.claims ∧
    (s.endWaits t met).proc.path = s.proc.path ∧ (s.endWaits t met).proc.held = s.proc.held := by
  unfold endWaits; (repeat' split) <;> simp

@[simp] theorem rejudgeDetachPending_frame (s : State) (t : TargetId) :
    (s.rejudgeDetachPending t).pending = s.pending ∧ (s.rejudgeDetachPending t).timebase = s.timebase ∧
    (s.rejudgeDetachPending t).lines = s.lines ∧ (s.rejudgeDetachPending t).routes = s.routes ∧
    (s.rejudgeDetachPending t).intervals = s.intervals ∧ (s.rejudgeDetachPending t).records = s.records ∧
    (s.rejudgeDetachPending t).tallies = s.tallies ∧ (s.rejudgeDetachPending t).bundleConfig = s.bundleConfig ∧
    (s.rejudgeDetachPending t).bundleRun = s.bundleRun ∧ (s.rejudgeDetachPending t).assembly = s.assembly ∧
    (s.rejudgeDetachPending t).roundRobin = s.roundRobin ∧ (s.rejudgeDetachPending t).proc = s.proc ∧
    (s.rejudgeDetachPending t).enable = s.enable ∧ (s.rejudgeDetachPending t).setupAddrLo = s.setupAddrLo ∧
    (s.rejudgeDetachPending t).setupAddrHi = s.setupAddrHi ∧ (s.rejudgeDetachPending t).staleCount = s.staleCount ∧
    (s.rejudgeDetachPending t).resetting = s.resetting ∧ (s.rejudgeDetachPending t).choices = s.choices ∧
    (∀ k', (s.rejudgeDetachPending t).line k' = s.line k') ∧ (∀ k', (s.rejudgeDetachPending t).route k' = s.route k') ∧
    (∀ k', (s.rejudgeDetachPending t).interval k' = s.interval k') ∧
    (∀ k', (s.rejudgeDetachPending t).record k' = s.record k') ∧ (∀ k', (s.rejudgeDetachPending t).tally k' = s.tally k') ∧
    (∀ k', (s.rejudgeDetachPending t).config k' = s.config k') ∧ (∀ k', (s.rejudgeDetachPending t).run k' = s.run k') ∧
    (s.rejudgeDetachPending t).claims = s.claims := by
  unfold rejudgeDetachPending; (repeat' split) <;> simp

@[simp] theorem enterTable_frame (s : State) (c : CmdId) (w : DeferKind) :
    (s.enterTable c w).pending = s.pending ∧ (s.enterTable c w).timebase = s.timebase ∧ (s.enterTable c w).lines = s.lines ∧
    (s.enterTable c w).routes = s.routes ∧ (s.enterTable c w).intervals = s.intervals ∧
    (s.enterTable c w).records = s.records ∧ (s.enterTable c w).tallies = s.tallies ∧
    (s.enterTable c w).bundleConfig = s.bundleConfig ∧ (s.enterTable c w).bundleRun = s.bundleRun ∧
    (s.enterTable c w).assembly = s.assembly ∧ (s.enterTable c w).roundRobin = s.roundRobin ∧
    (s.enterTable c w).enable = s.enable ∧ (s.enterTable c w).setupAddrLo = s.setupAddrLo ∧
    (s.enterTable c w).setupAddrHi = s.setupAddrHi ∧ (s.enterTable c w).staleCount = s.staleCount ∧
    (s.enterTable c w).resetting = s.resetting ∧ (s.enterTable c w).choices = s.choices ∧
    (∀ k', (s.enterTable c w).line k' = s.line k') ∧ (∀ k', (s.enterTable c w).route k' = s.route k') ∧
    (∀ k', (s.enterTable c w).interval k' = s.interval k') ∧ (∀ k', (s.enterTable c w).record k' = s.record k') ∧
    (∀ k', (s.enterTable c w).tally k' = s.tally k') ∧ (∀ k', (s.enterTable c w).config k' = s.config k') ∧
    (∀ k', (s.enterTable c w).run k' = s.run k') ∧ (s.enterTable c w).claims = s.claims ∧
    (s.enterTable c w).proc.path = s.proc.path := by
  unfold enterTable; split <;> (cases w <;> simp)

@[simp] theorem judgeDeferrable_frame (s : State) (c : CmdId) (w : DeferKind) :
    (s.judgeDeferrable c w).pending = s.pending ∧ (s.judgeDeferrable c w).timebase = s.timebase ∧
    (s.judgeDeferrable c w).lines = s.lines ∧ (s.judgeDeferrable c w).routes = s.routes ∧
    (s.judgeDeferrable c w).bundleConfig = s.bundleConfig ∧ (s.judgeDeferrable c w).assembly = s.assembly ∧
    (s.judgeDeferrable c w).roundRobin = s.roundRobin ∧ (s.judgeDeferrable c w).enable = s.enable ∧
    (s.judgeDeferrable c w).setupAddrLo = s.setupAddrLo ∧ (s.judgeDeferrable c w).setupAddrHi = s.setupAddrHi ∧
    (s.judgeDeferrable c w).staleCount = s.staleCount ∧ (s.judgeDeferrable c w).resetting = s.resetting ∧
    (s.judgeDeferrable c w).choices = s.choices ∧ (∀ k', (s.judgeDeferrable c w).line k' = s.line k') ∧
    (∀ k', (s.judgeDeferrable c w).route k' = s.route k') ∧ (∀ k', (s.judgeDeferrable c w).config k' = s.config k') ∧
    (s.judgeDeferrable c w).claims = s.claims ∧ (s.judgeDeferrable c w).proc.path = s.proc.path := by
  unfold judgeDeferrable; (repeat' split) <;> simp

@[simp] theorem settleHand_frame (s : State) :
    (s.settleHand).pending = s.pending ∧ (s.settleHand).timebase = s.timebase ∧ (s.settleHand).lines = s.lines ∧
    (s.settleHand).routes = s.routes ∧ (s.settleHand).bundleConfig = s.bundleConfig ∧ (s.settleHand).assembly = s.assembly ∧
    (s.settleHand).roundRobin = s.roundRobin ∧ (s.settleHand).enable = s.enable ∧
    (s.settleHand).setupAddrLo = s.setupAddrLo ∧ (s.settleHand).setupAddrHi = s.setupAddrHi ∧
    (s.settleHand).staleCount = s.staleCount ∧ (s.settleHand).resetting = s.resetting ∧ (s.settleHand).choices = s.choices ∧
    (∀ k', (s.settleHand).line k' = s.line k') ∧ (∀ k', (s.settleHand).route k' = s.route k') ∧
    (∀ k', (s.settleHand).config k' = s.config k') ∧ (s.settleHand).claims = s.claims ∧
    (s.settleHand).proc.path = s.proc.path := by
  unfold settleHand; (repeat' split) <;> simp

@[simp] theorem discardSource_frame (s : State) (n : SourceId) :
    (s.discardSource n).pending = s.pending ∧ (s.discardSource n).timebase = s.timebase ∧
    (s.discardSource n).lines = s.lines ∧ (s.discardSource n).routes = s.routes ∧
    (s.discardSource n).intervals = s.intervals ∧ (s.discardSource n).bundleConfig = s.bundleConfig ∧
    (s.discardSource n).roundRobin = s.roundRobin ∧ (s.discardSource n).enable = s.enable ∧
    (s.discardSource n).setupAddrLo = s.setupAddrLo ∧ (s.discardSource n).setupAddrHi = s.setupAddrHi ∧
    (s.discardSource n).staleCount = s.staleCount ∧ (s.discardSource n).resetting = s.resetting ∧
    (s.discardSource n).choices = s.choices ∧ (∀ k', (s.discardSource n).line k' = s.line k') ∧
    (∀ k', (s.discardSource n).route k' = s.route k') ∧ (∀ k', (s.discardSource n).interval k' = s.interval k') ∧
    (∀ k', (s.discardSource n).config k' = s.config k') ∧ (s.discardSource n).claims = s.claims ∧
    (s.discardSource n).proc.path = s.proc.path ∧ (s.discardSource n).proc.held = s.proc.held := by
  simp [discardSource]

@[simp] theorem writeRoute_frame (s : State) (n : SourceId) (e : RouteEntry) :
    (s.writeRoute n e).pending = s.pending ∧ (s.writeRoute n e).timebase = s.timebase ∧ (s.writeRoute n e).lines = s.lines ∧
    (s.writeRoute n e).intervals = s.intervals ∧ (s.writeRoute n e).records = s.records ∧
    (s.writeRoute n e).tallies = s.tallies ∧ (s.writeRoute n e).bundleConfig = s.bundleConfig ∧
    (s.writeRoute n e).assembly = s.assembly ∧ (s.writeRoute n e).roundRobin = s.roundRobin ∧
    (s.writeRoute n e).enable = s.enable ∧ (s.writeRoute n e).setupAddrLo = s.setupAddrLo ∧
    (s.writeRoute n e).setupAddrHi = s.setupAddrHi ∧ (s.writeRoute n e).staleCount = s.staleCount ∧
    (s.writeRoute n e).resetting = s.resetting ∧ (s.writeRoute n e).choices = s.choices ∧
    (∀ k', (s.writeRoute n e).line k' = s.line k') ∧ (∀ k', (s.writeRoute n e).interval k' = s.interval k') ∧
    (∀ k', (s.writeRoute n e).record k' = s.record k') ∧ (∀ k', (s.writeRoute n e).tally k' = s.tally k') ∧
    (∀ k', (s.writeRoute n e).config k' = s.config k') ∧ (s.writeRoute n e).claims = s.claims ∧
    (s.writeRoute n e).proc.path = s.proc.path ∧ (s.writeRoute n e).proc.held = s.proc.held := by
  unfold writeRoute; (repeat' split) <;> simp

@[simp] theorem changeFilter_frame (s : State) (n : SourceId) (old e : RouteEntry) :
    (s.changeFilter n old e).pending = s.pending ∧ (s.changeFilter n old e).timebase = s.timebase ∧
    (s.changeFilter n old e).routes = s.routes ∧ (s.changeFilter n old e).bundleConfig = s.bundleConfig ∧
    (s.changeFilter n old e).assembly = s.assembly ∧ (s.changeFilter n old e).roundRobin = s.roundRobin ∧
    (s.changeFilter n old e).proc = s.proc ∧ (s.changeFilter n old e).enable = s.enable ∧
    (s.changeFilter n old e).setupAddrLo = s.setupAddrLo ∧ (s.changeFilter n old e).setupAddrHi = s.setupAddrHi ∧
    (s.changeFilter n old e).staleCount = s.staleCount ∧ (s.changeFilter n old e).resetting = s.resetting ∧
    (s.changeFilter n old e).choices = s.choices ∧ (∀ k', (s.changeFilter n old e).route k' = s.route k') ∧
    (∀ k', (s.changeFilter n old e).config k' = s.config k') ∧ (s.changeFilter n old e).claims = s.claims := by
  unfold changeFilter; (repeat' split) <;> simp

@[simp] theorem reroute_frame (s : State) (n : SourceId) (e : RouteEntry) :
    (s.reroute n e).pending = s.pending ∧ (s.reroute n e).timebase = s.timebase ∧
    (s.reroute n e).bundleConfig = s.bundleConfig ∧ (s.reroute n e).assembly = s.assembly ∧
    (s.reroute n e).roundRobin = s.roundRobin ∧ (s.reroute n e).enable = s.enable ∧
    (s.reroute n e).setupAddrLo = s.setupAddrLo ∧ (s.reroute n e).setupAddrHi = s.setupAddrHi ∧
    (s.reroute n e).staleCount = s.staleCount ∧ (s.reroute n e).resetting = s.resetting ∧
    (s.reroute n e).choices = s.choices ∧ (∀ k', (s.reroute n e).config k' = s.config k') ∧
    (s.reroute n e).claims = s.claims ∧ (s.reroute n e).proc.path = s.proc.path ∧ (s.reroute n e).proc.held = s.proc.held := by
  unfold reroute; dsimp only; split <;> simp

@[simp] theorem issueReply_frame (s : State) (c : CmdId) (res : BitVec 64) (a : Addr) (r : List Byte) :
    (s.issueReply c res a r).pending = s.pending ∧ (s.issueReply c res a r).timebase = s.timebase ∧
    (s.issueReply c res a r).lines = s.lines ∧ (s.issueReply c res a r).routes = s.routes ∧
    (s.issueReply c res a r).intervals = s.intervals ∧ (s.issueReply c res a r).records = s.records ∧
    (s.issueReply c res a r).tallies = s.tallies ∧ (s.issueReply c res a r).bundleConfig = s.bundleConfig ∧
    (s.issueReply c res a r).bundleRun = s.bundleRun ∧ (s.issueReply c res a r).assembly = s.assembly ∧
    (s.issueReply c res a r).roundRobin = s.roundRobin ∧ (s.issueReply c res a r).targets = s.targets ∧
    (s.issueReply c res a r).enable = s.enable ∧ (s.issueReply c res a r).setupAddrLo = s.setupAddrLo ∧
    (s.issueReply c res a r).setupAddrHi = s.setupAddrHi ∧ (s.issueReply c res a r).staleCount = s.staleCount ∧
    (s.issueReply c res a r).resetting = s.resetting ∧ (s.issueReply c res a r).choices = s.choices ∧
    (∀ k', (s.issueReply c res a r).line k' = s.line k') ∧ (∀ k', (s.issueReply c res a r).route k' = s.route k') ∧
    (∀ k', (s.issueReply c res a r).interval k' = s.interval k') ∧
    (∀ k', (s.issueReply c res a r).record k' = s.record k') ∧ (∀ k', (s.issueReply c res a r).tally k' = s.tally k') ∧
    (∀ k', (s.issueReply c res a r).config k' = s.config k') ∧ (∀ k', (s.issueReply c res a r).run k' = s.run k') ∧
    (∀ k', (s.issueReply c res a r).target k' = s.target k') ∧ (s.issueReply c res a r).claims = s.claims ∧
    (s.issueReply c res a r).proc.path = s.proc.path := by
  simp [issueReply]

@[simp] theorem moveByEnabled_frame (s : State) (b : BundleId) (e : Bool) :
    (s.moveByEnabled b e).pending = s.pending ∧ (s.moveByEnabled b e).timebase = s.timebase ∧
    (s.moveByEnabled b e).lines = s.lines ∧ (s.moveByEnabled b e).routes = s.routes ∧
    (s.moveByEnabled b e).intervals = s.intervals ∧ (s.moveByEnabled b e).records = s.records ∧
    (s.moveByEnabled b e).tallies = s.tallies ∧ (s.moveByEnabled b e).bundleConfig = s.bundleConfig ∧
    (s.moveByEnabled b e).assembly = s.assembly ∧ (s.moveByEnabled b e).roundRobin = s.roundRobin ∧
    (s.moveByEnabled b e).proc = s.proc ∧ (s.moveByEnabled b e).enable = s.enable ∧
    (s.moveByEnabled b e).setupAddrLo = s.setupAddrLo ∧ (s.moveByEnabled b e).setupAddrHi = s.setupAddrHi ∧
    (s.moveByEnabled b e).staleCount = s.staleCount ∧ (s.moveByEnabled b e).resetting = s.resetting ∧
    (s.moveByEnabled b e).choices = s.choices ∧ (∀ k', (s.moveByEnabled b e).line k' = s.line k') ∧
    (∀ k', (s.moveByEnabled b e).route k' = s.route k') ∧ (∀ k', (s.moveByEnabled b e).interval k' = s.interval k') ∧
    (∀ k', (s.moveByEnabled b e).record k' = s.record k') ∧ (∀ k', (s.moveByEnabled b e).tally k' = s.tally k') ∧
    (∀ k', (s.moveByEnabled b e).config k' = s.config k') ∧ (s.moveByEnabled b e).claims = s.claims := by
  unfold moveByEnabled; (repeat' split) <;> simp

@[simp] theorem writeBundleSet_frame (s : State) (b : BundleId) (c : BundleConfig) :
    (s.writeBundleSet b c).pending = s.pending ∧ (s.writeBundleSet b c).timebase = s.timebase ∧
    (s.writeBundleSet b c).lines = s.lines ∧ (s.writeBundleSet b c).routes = s.routes ∧
    (s.writeBundleSet b c).intervals = s.intervals ∧ (s.writeBundleSet b c).records = s.records ∧
    (s.writeBundleSet b c).tallies = s.tallies ∧ (s.writeBundleSet b c).assembly = s.assembly ∧
    (s.writeBundleSet b c).roundRobin = s.roundRobin ∧ (s.writeBundleSet b c).proc = s.proc ∧
    (s.writeBundleSet b c).enable = s.enable ∧ (s.writeBundleSet b c).setupAddrLo = s.setupAddrLo ∧
    (s.writeBundleSet b c).setupAddrHi = s.setupAddrHi ∧ (s.writeBundleSet b c).staleCount = s.staleCount ∧
    (s.writeBundleSet b c).resetting = s.resetting ∧ (s.writeBundleSet b c).choices = s.choices ∧
    (∀ k', (s.writeBundleSet b c).line k' = s.line k') ∧ (∀ k', (s.writeBundleSet b c).route k' = s.route k') ∧
    (∀ k', (s.writeBundleSet b c).interval k' = s.interval k') ∧ (∀ k', (s.writeBundleSet b c).record k' = s.record k') ∧
    (∀ k', (s.writeBundleSet b c).tally k' = s.tally k') ∧ (s.writeBundleSet b c).claims = s.claims := by
  unfold writeBundleSet; dsimp only; split <;> simp

@[simp] theorem applyBundleSet_frame (s : State) (b : BundleId) (c : BundleConfig) :
    (s.applyBundleSet b c).pending = s.pending ∧ (s.applyBundleSet b c).timebase = s.timebase ∧
    (s.applyBundleSet b c).lines = s.lines ∧ (s.applyBundleSet b c).routes = s.routes ∧
    (s.applyBundleSet b c).intervals = s.intervals ∧ (s.applyBundleSet b c).records = s.records ∧
    (s.applyBundleSet b c).tallies = s.tallies ∧ (s.applyBundleSet b c).assembly = s.assembly ∧
    (s.applyBundleSet b c).roundRobin = s.roundRobin ∧ (s.applyBundleSet b c).enable = s.enable ∧
    (s.applyBundleSet b c).setupAddrLo = s.setupAddrLo ∧ (s.applyBundleSet b c).setupAddrHi = s.setupAddrHi ∧
    (s.applyBundleSet b c).staleCount = s.staleCount ∧ (s.applyBundleSet b c).resetting = s.resetting ∧
    (s.applyBundleSet b c).choices = s.choices ∧ (∀ k', (s.applyBundleSet b c).line k' = s.line k') ∧
    (∀ k', (s.applyBundleSet b c).route k' = s.route k') ∧ (∀ k', (s.applyBundleSet b c).interval k' = s.interval k') ∧
    (∀ k', (s.applyBundleSet b c).record k' = s.record k') ∧ (∀ k', (s.applyBundleSet b c).tally k' = s.tally k') ∧
    (s.applyBundleSet b c).claims = s.claims ∧ (s.applyBundleSet b c).proc.path = s.proc.path ∧
    (s.applyBundleSet b c).proc.held = s.proc.held := by
  simp [applyBundleSet]

@[simp] theorem completeBundleSet_frame (s : State) (k : CmdId) (b : BundleId) (c : BundleConfig) :
    (s.completeBundleSet k b c).pending = s.pending ∧ (s.completeBundleSet k b c).timebase = s.timebase ∧
    (s.completeBundleSet k b c).lines = s.lines ∧ (s.completeBundleSet k b c).routes = s.routes ∧
    (s.completeBundleSet k b c).assembly = s.assembly ∧ (s.completeBundleSet k b c).roundRobin = s.roundRobin ∧
    (s.completeBundleSet k b c).enable = s.enable ∧ (s.completeBundleSet k b c).setupAddrLo = s.setupAddrLo ∧
    (s.completeBundleSet k b c).setupAddrHi = s.setupAddrHi ∧ (s.completeBundleSet k b c).staleCount = s.staleCount ∧
    (s.completeBundleSet k b c).resetting = s.resetting ∧ (s.completeBundleSet k b c).choices = s.choices ∧
    (∀ k', (s.completeBundleSet k b c).line k' = s.line k') ∧ (∀ k', (s.completeBundleSet k b c).route k' = s.route k') ∧
    (s.completeBundleSet k b c).claims = s.claims ∧ (s.completeBundleSet k b c).proc.path = s.proc.path := by
  simp [completeBundleSet]

@[simp] theorem judgeBundleSet_frame (s : State) (k : CmdId) (b : BundleId) (c : BundleConfig) :
    (s.judgeBundleSet k b c).pending = s.pending ∧ (s.judgeBundleSet k b c).timebase = s.timebase ∧
    (s.judgeBundleSet k b c).lines = s.lines ∧ (s.judgeBundleSet k b c).routes = s.routes ∧
    (s.judgeBundleSet k b c).assembly = s.assembly ∧ (s.judgeBundleSet k b c).roundRobin = s.roundRobin ∧
    (s.judgeBundleSet k b c).enable = s.enable ∧ (s.judgeBundleSet k b c).setupAddrLo = s.setupAddrLo ∧
    (s.judgeBundleSet k b c).setupAddrHi = s.setupAddrHi ∧ (s.judgeBundleSet k b c).staleCount = s.staleCount ∧
    (s.judgeBundleSet k b c).resetting = s.resetting ∧ (s.judgeBundleSet k b c).choices = s.choices ∧
    (∀ k', (s.judgeBundleSet k b c).line k' = s.line k') ∧ (∀ k', (s.judgeBundleSet k b c).route k' = s.route k') ∧
    (s.judgeBundleSet k b c).claims = s.claims ∧ (s.judgeBundleSet k b c).proc.path = s.proc.path := by
  unfold judgeBundleSet; (repeat' split) <;> simp

@[simp] theorem settleBundleSet_frame (s : State) (k : CmdId) (b : BundleId) (c : BundleConfig) (t : TargetId) (met : List TargetId) :
    (s.settleBundleSet k b c t met).pending = s.pending ∧ (s.settleBundleSet k b c t met).timebase = s.timebase ∧
    (s.settleBundleSet k b c t met).lines = s.lines ∧ (s.settleBundleSet k b c t met).routes = s.routes ∧
    (s.settleBundleSet k b c t met).assembly = s.assembly ∧ (s.settleBundleSet k b c t met).roundRobin = s.roundRobin ∧
    (s.settleBundleSet k b c t met).enable = s.enable ∧ (s.settleBundleSet k b c t met).setupAddrLo = s.setupAddrLo ∧
    (s.settleBundleSet k b c t met).setupAddrHi = s.setupAddrHi ∧
    (s.settleBundleSet k b c t met).staleCount = s.staleCount ∧ (s.settleBundleSet k b c t met).resetting = s.resetting ∧
    (s.settleBundleSet k b c t met).choices = s.choices ∧ (∀ k', (s.settleBundleSet k b c t met).line k' = s.line k') ∧
    (∀ k', (s.settleBundleSet k b c t met).route k' = s.route k') ∧ (s.settleBundleSet k b c t met).claims = s.claims ∧
    (s.settleBundleSet k b c t met).proc.path = s.proc.path := by
  unfold settleBundleSet; dsimp only; split <;> simp

@[simp] theorem flush_frame (s : State) (b : BundleId) :
    (s.flush b).pending = s.pending ∧ (s.flush b).timebase = s.timebase ∧ (s.flush b).lines = s.lines ∧
    (s.flush b).routes = s.routes ∧ (s.flush b).intervals = s.intervals ∧ (s.flush b).bundleConfig = s.bundleConfig ∧
    (s.flush b).roundRobin = s.roundRobin ∧ (s.flush b).enable = s.enable ∧ (s.flush b).setupAddrLo = s.setupAddrLo ∧
    (s.flush b).setupAddrHi = s.setupAddrHi ∧ (s.flush b).staleCount = s.staleCount ∧ (s.flush b).resetting = s.resetting ∧
    (s.flush b).choices = s.choices ∧ (∀ k', (s.flush b).line k' = s.line k') ∧ (∀ k', (s.flush b).route k' = s.route k') ∧
    (∀ k', (s.flush b).interval k' = s.interval k') ∧ (∀ k', (s.flush b).config k' = s.config k') ∧
    (s.flush b).claims = s.claims ∧ (s.flush b).proc.path = s.proc.path ∧ (s.flush b).proc.held = s.proc.held := by
  simp [flush]

@[simp] theorem staleAck_frame (s : State) (b : BundleId) :
    (s.staleAck b).pending = s.pending ∧ (s.staleAck b).timebase = s.timebase ∧ (s.staleAck b).lines = s.lines ∧
    (s.staleAck b).routes = s.routes ∧ (s.staleAck b).bundleConfig = s.bundleConfig ∧ (s.staleAck b).assembly = s.assembly ∧
    (s.staleAck b).roundRobin = s.roundRobin ∧ (s.staleAck b).proc = s.proc ∧ (s.staleAck b).enable = s.enable ∧
    (s.staleAck b).setupAddrLo = s.setupAddrLo ∧ (s.staleAck b).setupAddrHi = s.setupAddrHi ∧
    (s.staleAck b).staleCount = s.staleCount ∧ (s.staleAck b).resetting = s.resetting ∧ (s.staleAck b).choices = s.choices ∧
    (∀ k', (s.staleAck b).line k' = s.line k') ∧ (∀ k', (s.staleAck b).route k' = s.route k') ∧
    (∀ k', (s.staleAck b).config k' = s.config k') ∧ (s.staleAck b).claims = s.claims := by
  simp [staleAck]

@[simp] theorem takeTurn_frame (s : State) (b : BundleId) :
    (s.takeTurn b).pending = s.pending ∧ (s.takeTurn b).timebase = s.timebase ∧ (s.takeTurn b).lines = s.lines ∧
    (s.takeTurn b).routes = s.routes ∧ (s.takeTurn b).intervals = s.intervals ∧ (s.takeTurn b).records = s.records ∧
    (s.takeTurn b).tallies = s.tallies ∧ (s.takeTurn b).bundleConfig = s.bundleConfig ∧
    (s.takeTurn b).bundleRun = s.bundleRun ∧ (s.takeTurn b).assembly = s.assembly ∧ (s.takeTurn b).targets = s.targets ∧
    (s.takeTurn b).proc = s.proc ∧ (s.takeTurn b).enable = s.enable ∧ (s.takeTurn b).setupAddrLo = s.setupAddrLo ∧
    (s.takeTurn b).setupAddrHi = s.setupAddrHi ∧ (s.takeTurn b).staleCount = s.staleCount ∧
    (s.takeTurn b).resetting = s.resetting ∧ (s.takeTurn b).requests = s.requests ∧
    (s.takeTurn b).nextRequest = s.nextRequest ∧ (s.takeTurn b).choices = s.choices ∧
    (∀ k', (s.takeTurn b).line k' = s.line k') ∧ (∀ k', (s.takeTurn b).route k' = s.route k') ∧
    (∀ k', (s.takeTurn b).interval k' = s.interval k') ∧ (∀ k', (s.takeTurn b).record k' = s.record k') ∧
    (∀ k', (s.takeTurn b).tally k' = s.tally k') ∧ (∀ k', (s.takeTurn b).config k' = s.config k') ∧
    (∀ k', (s.takeTurn b).run k' = s.run k') ∧ (∀ k', (s.takeTurn b).target k' = s.target k') ∧
    (s.takeTurn b).claims = s.claims := by
  unfold takeTurn; split <;> simp

@[simp] theorem issueWrite_frame (s : State) :
    (s.issueWrite).pending = s.pending ∧ (s.issueWrite).timebase = s.timebase ∧ (s.issueWrite).lines = s.lines ∧
    (s.issueWrite).routes = s.routes ∧ (s.issueWrite).intervals = s.intervals ∧ (s.issueWrite).records = s.records ∧
    (s.issueWrite).tallies = s.tallies ∧ (s.issueWrite).bundleConfig = s.bundleConfig ∧
    (s.issueWrite).bundleRun = s.bundleRun ∧ (s.issueWrite).roundRobin = s.roundRobin ∧ (s.issueWrite).targets = s.targets ∧
    (s.issueWrite).proc = s.proc ∧ (s.issueWrite).enable = s.enable ∧ (s.issueWrite).setupAddrLo = s.setupAddrLo ∧
    (s.issueWrite).setupAddrHi = s.setupAddrHi ∧ (s.issueWrite).staleCount = s.staleCount ∧
    (s.issueWrite).resetting = s.resetting ∧ (s.issueWrite).choices = s.choices ∧
    (∀ k', (s.issueWrite).line k' = s.line k') ∧ (∀ k', (s.issueWrite).route k' = s.route k') ∧
    (∀ k', (s.issueWrite).interval k' = s.interval k') ∧ (∀ k', (s.issueWrite).record k' = s.record k') ∧
    (∀ k', (s.issueWrite).tally k' = s.tally k') ∧ (∀ k', (s.issueWrite).config k' = s.config k') ∧
    (∀ k', (s.issueWrite).run k' = s.run k') ∧ (∀ k', (s.issueWrite).target k' = s.target k') ∧
    (s.issueWrite).claims = s.claims := by
  unfold issueWrite; (repeat' split) <;> simp

@[simp] theorem entryDone_frame (s : State) :
    (s.entryDone).pending = s.pending ∧ (s.entryDone).timebase = s.timebase ∧ (s.entryDone).lines = s.lines ∧
    (s.entryDone).routes = s.routes ∧ (s.entryDone).intervals = s.intervals ∧ (s.entryDone).records = s.records ∧
    (s.entryDone).tallies = s.tallies ∧ (s.entryDone).bundleConfig = s.bundleConfig ∧
    (s.entryDone).bundleRun = s.bundleRun ∧ (s.entryDone).roundRobin = s.roundRobin ∧ (s.entryDone).targets = s.targets ∧
    (s.entryDone).proc = s.proc ∧ (s.entryDone).enable = s.enable ∧ (s.entryDone).setupAddrLo = s.setupAddrLo ∧
    (s.entryDone).setupAddrHi = s.setupAddrHi ∧ (s.entryDone).staleCount = s.staleCount ∧
    (s.entryDone).resetting = s.resetting ∧ (s.entryDone).choices = s.choices ∧ (∀ k', (s.entryDone).line k' = s.line k') ∧
    (∀ k', (s.entryDone).route k' = s.route k') ∧ (∀ k', (s.entryDone).interval k' = s.interval k') ∧
    (∀ k', (s.entryDone).record k' = s.record k') ∧ (∀ k', (s.entryDone).tally k' = s.tally k') ∧
    (∀ k', (s.entryDone).config k' = s.config k') ∧ (∀ k', (s.entryDone).run k' = s.run k') ∧
    (∀ k', (s.entryDone).target k' = s.target k') ∧ (s.entryDone).claims = s.claims := by
  unfold entryDone; (repeat' split) <;> simp

@[simp] theorem startHold_frame (s : State) (b : BundleId) :
    (s.startHold b).pending = s.pending ∧ (s.startHold b).timebase = s.timebase ∧ (s.startHold b).lines = s.lines ∧
    (s.startHold b).routes = s.routes ∧ (s.startHold b).intervals = s.intervals ∧ (s.startHold b).records = s.records ∧
    (s.startHold b).tallies = s.tallies ∧ (s.startHold b).bundleConfig = s.bundleConfig ∧
    (s.startHold b).assembly = s.assembly ∧ (s.startHold b).roundRobin = s.roundRobin ∧
    (s.startHold b).targets = s.targets ∧ (s.startHold b).proc = s.proc ∧ (s.startHold b).enable = s.enable ∧
    (s.startHold b).setupAddrLo = s.setupAddrLo ∧ (s.startHold b).setupAddrHi = s.setupAddrHi ∧
    (s.startHold b).staleCount = s.staleCount ∧ (s.startHold b).resetting = s.resetting ∧
    (s.startHold b).requests = s.requests ∧ (s.startHold b).nextRequest = s.nextRequest ∧
    (s.startHold b).choices = s.choices ∧ (∀ k', (s.startHold b).line k' = s.line k') ∧
    (∀ k', (s.startHold b).route k' = s.route k') ∧ (∀ k', (s.startHold b).interval k' = s.interval k') ∧
    (∀ k', (s.startHold b).record k' = s.record k') ∧ (∀ k', (s.startHold b).tally k' = s.tally k') ∧
    (∀ k', (s.startHold b).config k' = s.config k') ∧ (∀ k', (s.startHold b).target k' = s.target k') ∧
    (s.startHold b).claims = s.claims := by
  simp [startHold]

@[simp] theorem beginHold_frame (s : State) (a : Assembly) :
    (s.beginHold a).pending = s.pending ∧ (s.beginHold a).timebase = s.timebase ∧ (s.beginHold a).lines = s.lines ∧
    (s.beginHold a).routes = s.routes ∧ (s.beginHold a).intervals = s.intervals ∧ (s.beginHold a).records = s.records ∧
    (s.beginHold a).tallies = s.tallies ∧ (s.beginHold a).bundleConfig = s.bundleConfig ∧
    (s.beginHold a).assembly = s.assembly ∧ (s.beginHold a).roundRobin = s.roundRobin ∧ (s.beginHold a).proc = s.proc ∧
    (s.beginHold a).enable = s.enable ∧ (s.beginHold a).setupAddrLo = s.setupAddrLo ∧
    (s.beginHold a).setupAddrHi = s.setupAddrHi ∧ (s.beginHold a).staleCount = s.staleCount ∧
    (s.beginHold a).resetting = s.resetting ∧ (s.beginHold a).choices = s.choices ∧
    (∀ k', (s.beginHold a).line k' = s.line k') ∧ (∀ k', (s.beginHold a).route k' = s.route k') ∧
    (∀ k', (s.beginHold a).interval k' = s.interval k') ∧ (∀ k', (s.beginHold a).record k' = s.record k') ∧
    (∀ k', (s.beginHold a).tally k' = s.tally k') ∧ (∀ k', (s.beginHold a).config k' = s.config k') ∧
    (s.beginHold a).claims = s.claims := by
  simp [beginHold]

@[simp] theorem noholdCommit_frame (s : State) (a : Assembly) :
    (s.noholdCommit a).pending = s.pending ∧ (s.noholdCommit a).timebase = s.timebase ∧ (s.noholdCommit a).lines = s.lines ∧
    (s.noholdCommit a).routes = s.routes ∧ (s.noholdCommit a).intervals = s.intervals ∧
    (s.noholdCommit a).records = s.records ∧ (s.noholdCommit a).tallies = s.tallies ∧
    (s.noholdCommit a).bundleConfig = s.bundleConfig ∧ (s.noholdCommit a).assembly = s.assembly ∧
    (s.noholdCommit a).roundRobin = s.roundRobin ∧ (s.noholdCommit a).proc = s.proc ∧ (s.noholdCommit a).enable = s.enable ∧
    (s.noholdCommit a).setupAddrLo = s.setupAddrLo ∧ (s.noholdCommit a).setupAddrHi = s.setupAddrHi ∧
    (s.noholdCommit a).staleCount = s.staleCount ∧ (s.noholdCommit a).resetting = s.resetting ∧
    (s.noholdCommit a).choices = s.choices ∧ (∀ k', (s.noholdCommit a).line k' = s.line k') ∧
    (∀ k', (s.noholdCommit a).route k' = s.route k') ∧ (∀ k', (s.noholdCommit a).interval k' = s.interval k') ∧
    (∀ k', (s.noholdCommit a).record k' = s.record k') ∧ (∀ k', (s.noholdCommit a).tally k' = s.tally k') ∧
    (∀ k', (s.noholdCommit a).config k' = s.config k') ∧ (s.noholdCommit a).claims = s.claims := by
  simp [noholdCommit]

@[simp] theorem reminderCommit_frame (s : State) (a : Assembly) :
    (s.reminderCommit a).pending = s.pending ∧ (s.reminderCommit a).timebase = s.timebase ∧
    (s.reminderCommit a).lines = s.lines ∧ (s.reminderCommit a).routes = s.routes ∧
    (s.reminderCommit a).intervals = s.intervals ∧ (s.reminderCommit a).records = s.records ∧
    (s.reminderCommit a).tallies = s.tallies ∧ (s.reminderCommit a).bundleConfig = s.bundleConfig ∧
    (s.reminderCommit a).assembly = s.assembly ∧ (s.reminderCommit a).roundRobin = s.roundRobin ∧
    (s.reminderCommit a).targets = s.targets ∧ (s.reminderCommit a).proc = s.proc ∧ (s.reminderCommit a).enable = s.enable ∧
    (s.reminderCommit a).setupAddrLo = s.setupAddrLo ∧ (s.reminderCommit a).setupAddrHi = s.setupAddrHi ∧
    (s.reminderCommit a).staleCount = s.staleCount ∧ (s.reminderCommit a).resetting = s.resetting ∧
    (s.reminderCommit a).requests = s.requests ∧ (s.reminderCommit a).nextRequest = s.nextRequest ∧
    (s.reminderCommit a).choices = s.choices ∧ (∀ k', (s.reminderCommit a).line k' = s.line k') ∧
    (∀ k', (s.reminderCommit a).route k' = s.route k') ∧ (∀ k', (s.reminderCommit a).interval k' = s.interval k') ∧
    (∀ k', (s.reminderCommit a).record k' = s.record k') ∧ (∀ k', (s.reminderCommit a).tally k' = s.tally k') ∧
    (∀ k', (s.reminderCommit a).config k' = s.config k') ∧ (∀ k', (s.reminderCommit a).target k' = s.target k') ∧
    (s.reminderCommit a).claims = s.claims := by
  unfold reminderCommit; (repeat' split) <;> simp

@[simp] theorem moveBundle_frame (s : State) (a : Assembly) :
    (s.moveBundle a).pending = s.pending ∧ (s.moveBundle a).timebase = s.timebase ∧ (s.moveBundle a).lines = s.lines ∧
    (s.moveBundle a).routes = s.routes ∧ (s.moveBundle a).intervals = s.intervals ∧ (s.moveBundle a).records = s.records ∧
    (s.moveBundle a).tallies = s.tallies ∧ (s.moveBundle a).bundleConfig = s.bundleConfig ∧
    (s.moveBundle a).assembly = s.assembly ∧ (s.moveBundle a).roundRobin = s.roundRobin ∧ (s.moveBundle a).proc = s.proc ∧
    (s.moveBundle a).enable = s.enable ∧ (s.moveBundle a).setupAddrLo = s.setupAddrLo ∧
    (s.moveBundle a).setupAddrHi = s.setupAddrHi ∧ (s.moveBundle a).staleCount = s.staleCount ∧
    (s.moveBundle a).resetting = s.resetting ∧ (s.moveBundle a).choices = s.choices ∧
    (∀ k', (s.moveBundle a).line k' = s.line k') ∧ (∀ k', (s.moveBundle a).route k' = s.route k') ∧
    (∀ k', (s.moveBundle a).interval k' = s.interval k') ∧ (∀ k', (s.moveBundle a).record k' = s.record k') ∧
    (∀ k', (s.moveBundle a).tally k' = s.tally k') ∧ (∀ k', (s.moveBundle a).config k' = s.config k') ∧
    (s.moveBundle a).claims = s.claims := by
  unfold moveBundle; (repeat' split) <;> simp

@[simp] theorem recheckReported_frame (s : State) (a : Assembly) :
    (s.recheckReported a).pending = s.pending ∧ (s.recheckReported a).timebase = s.timebase ∧
    (s.recheckReported a).lines = s.lines ∧ (s.recheckReported a).routes = s.routes ∧
    (s.recheckReported a).bundleConfig = s.bundleConfig ∧ (s.recheckReported a).assembly = s.assembly ∧
    (s.recheckReported a).roundRobin = s.roundRobin ∧ (s.recheckReported a).proc = s.proc ∧
    (s.recheckReported a).enable = s.enable ∧ (s.recheckReported a).setupAddrLo = s.setupAddrLo ∧
    (s.recheckReported a).setupAddrHi = s.setupAddrHi ∧ (s.recheckReported a).staleCount = s.staleCount ∧
    (s.recheckReported a).resetting = s.resetting ∧ (s.recheckReported a).choices = s.choices ∧
    (∀ k', (s.recheckReported a).line k' = s.line k') ∧ (∀ k', (s.recheckReported a).route k' = s.route k') ∧
    (∀ k', (s.recheckReported a).config k' = s.config k') ∧ (s.recheckReported a).claims = s.claims := by
  unfold recheckReported; (repeat' split) <;> simp

@[simp] theorem commitBundle_frame (s : State) (a : Assembly) :
    (s.commitBundle a).pending = s.pending ∧ (s.commitBundle a).timebase = s.timebase ∧ (s.commitBundle a).lines = s.lines ∧
    (s.commitBundle a).routes = s.routes ∧ (s.commitBundle a).bundleConfig = s.bundleConfig ∧
    (s.commitBundle a).assembly = s.assembly ∧ (s.commitBundle a).roundRobin = s.roundRobin ∧
    (s.commitBundle a).proc = s.proc ∧ (s.commitBundle a).enable = s.enable ∧
    (s.commitBundle a).setupAddrLo = s.setupAddrLo ∧ (s.commitBundle a).setupAddrHi = s.setupAddrHi ∧
    (s.commitBundle a).staleCount = s.staleCount ∧ (s.commitBundle a).resetting = s.resetting ∧
    (s.commitBundle a).choices = s.choices ∧ (∀ k', (s.commitBundle a).line k' = s.line k') ∧
    (∀ k', (s.commitBundle a).route k' = s.route k') ∧ (∀ k', (s.commitBundle a).config k' = s.config k') ∧
    (s.commitBundle a).claims = s.claims := by
  simp [commitBundle]

@[simp] theorem reportCopy_frame (s : State) (c : Copy) :
    (s.reportCopy c).pending = s.pending ∧ (s.reportCopy c).timebase = s.timebase ∧ (s.reportCopy c).lines = s.lines ∧
    (s.reportCopy c).routes = s.routes ∧ (s.reportCopy c).intervals = s.intervals ∧ (s.reportCopy c).records = s.records ∧
    (s.reportCopy c).bundleConfig = s.bundleConfig ∧ (s.reportCopy c).bundleRun = s.bundleRun ∧
    (s.reportCopy c).assembly = s.assembly ∧ (s.reportCopy c).roundRobin = s.roundRobin ∧
    (s.reportCopy c).targets = s.targets ∧ (s.reportCopy c).proc = s.proc ∧ (s.reportCopy c).enable = s.enable ∧
    (s.reportCopy c).setupAddrLo = s.setupAddrLo ∧ (s.reportCopy c).setupAddrHi = s.setupAddrHi ∧
    (s.reportCopy c).staleCount = s.staleCount ∧ (s.reportCopy c).resetting = s.resetting ∧
    (s.reportCopy c).requests = s.requests ∧ (s.reportCopy c).nextRequest = s.nextRequest ∧
    (s.reportCopy c).choices = s.choices ∧ (∀ k', (s.reportCopy c).line k' = s.line k') ∧
    (∀ k', (s.reportCopy c).route k' = s.route k') ∧ (∀ k', (s.reportCopy c).interval k' = s.interval k') ∧
    (∀ k', (s.reportCopy c).record k' = s.record k') ∧ (∀ k', (s.reportCopy c).config k' = s.config k') ∧
    (∀ k', (s.reportCopy c).run k' = s.run k') ∧ (∀ k', (s.reportCopy c).target k' = s.target k') ∧
    (s.reportCopy c).claims = s.claims := by
  unfold reportCopy; (repeat' split) <;> simp

@[simp] theorem foldl_reportCopy_frame (s : State) (l : List Copy) :
    (l.foldl reportCopy s).pending = s.pending ∧ (l.foldl reportCopy s).timebase = s.timebase ∧
    (l.foldl reportCopy s).lines = s.lines ∧ (l.foldl reportCopy s).routes = s.routes ∧
    (l.foldl reportCopy s).intervals = s.intervals ∧ (l.foldl reportCopy s).records = s.records ∧
    (l.foldl reportCopy s).bundleConfig = s.bundleConfig ∧ (l.foldl reportCopy s).bundleRun = s.bundleRun ∧
    (l.foldl reportCopy s).assembly = s.assembly ∧ (l.foldl reportCopy s).roundRobin = s.roundRobin ∧
    (l.foldl reportCopy s).targets = s.targets ∧ (l.foldl reportCopy s).proc = s.proc ∧
    (l.foldl reportCopy s).enable = s.enable ∧ (l.foldl reportCopy s).setupAddrLo = s.setupAddrLo ∧
    (l.foldl reportCopy s).setupAddrHi = s.setupAddrHi ∧ (l.foldl reportCopy s).staleCount = s.staleCount ∧
    (l.foldl reportCopy s).resetting = s.resetting ∧ (l.foldl reportCopy s).requests = s.requests ∧
    (l.foldl reportCopy s).nextRequest = s.nextRequest ∧ (l.foldl reportCopy s).choices = s.choices ∧
    (∀ k', (l.foldl reportCopy s).line k' = s.line k') ∧ (∀ k', (l.foldl reportCopy s).route k' = s.route k') ∧
    (∀ k', (l.foldl reportCopy s).interval k' = s.interval k') ∧ (∀ k', (l.foldl reportCopy s).record k' = s.record k') ∧
    (∀ k', (l.foldl reportCopy s).config k' = s.config k') ∧ (∀ k', (l.foldl reportCopy s).run k' = s.run k') ∧
    (∀ k', (l.foldl reportCopy s).target k' = s.target k') ∧ (l.foldl reportCopy s).claims = s.claims := by
  induction l generalizing s with
  | nil => simp
  | cons x l ih => simp [ih]

@[simp] theorem ringPressure_frame (s : State) (a : Assembly) :
    (s.ringPressure a).pending = s.pending ∧ (s.ringPressure a).timebase = s.timebase ∧ (s.ringPressure a).lines = s.lines ∧
    (s.ringPressure a).routes = s.routes ∧ (s.ringPressure a).bundleConfig = s.bundleConfig ∧
    (s.ringPressure a).assembly = s.assembly ∧ (s.ringPressure a).roundRobin = s.roundRobin ∧
    (s.ringPressure a).proc = s.proc ∧ (s.ringPressure a).enable = s.enable ∧
    (s.ringPressure a).setupAddrLo = s.setupAddrLo ∧ (s.ringPressure a).setupAddrHi = s.setupAddrHi ∧
    (s.ringPressure a).staleCount = s.staleCount ∧ (s.ringPressure a).resetting = s.resetting ∧
    (s.ringPressure a).choices = s.choices ∧ (∀ k', (s.ringPressure a).line k' = s.line k') ∧
    (∀ k', (s.ringPressure a).route k' = s.route k') ∧ (∀ k', (s.ringPressure a).config k' = s.config k') ∧
    (s.ringPressure a).claims = s.claims := by
  unfold ringPressure; (repeat' split) <;> simp

@[simp] theorem commitTarget_frame (s : State) (a : Assembly) :
    (s.commitTarget a).pending = s.pending ∧ (s.commitTarget a).timebase = s.timebase ∧ (s.commitTarget a).lines = s.lines ∧
    (s.commitTarget a).routes = s.routes ∧ (s.commitTarget a).bundleConfig = s.bundleConfig ∧
    (s.commitTarget a).assembly = s.assembly ∧ (s.commitTarget a).roundRobin = s.roundRobin ∧
    (s.commitTarget a).proc = s.proc ∧ (s.commitTarget a).enable = s.enable ∧
    (s.commitTarget a).setupAddrLo = s.setupAddrLo ∧ (s.commitTarget a).setupAddrHi = s.setupAddrHi ∧
    (s.commitTarget a).staleCount = s.staleCount ∧ (s.commitTarget a).resetting = s.resetting ∧
    (s.commitTarget a).choices = s.choices ∧ (∀ k', (s.commitTarget a).line k' = s.line k') ∧
    (∀ k', (s.commitTarget a).route k' = s.route k') ∧ (∀ k', (s.commitTarget a).config k' = s.config k') ∧
    (s.commitTarget a).claims = s.claims := by
  simp [commitTarget]

@[simp] theorem afterAssembly_frame (s : State) (a : Assembly) (met : List TargetId) :
    (s.afterAssembly a met).pending = s.pending ∧ (s.afterAssembly a met).timebase = s.timebase ∧
    (s.afterAssembly a met).lines = s.lines ∧ (s.afterAssembly a met).routes = s.routes ∧
    (s.afterAssembly a met).assembly = s.assembly ∧ (s.afterAssembly a met).roundRobin = s.roundRobin ∧
    (s.afterAssembly a met).enable = s.enable ∧ (s.afterAssembly a met).setupAddrLo = s.setupAddrLo ∧
    (s.afterAssembly a met).setupAddrHi = s.setupAddrHi ∧ (s.afterAssembly a met).staleCount = s.staleCount ∧
    (s.afterAssembly a met).resetting = s.resetting ∧ (s.afterAssembly a met).choices = s.choices ∧
    (∀ k', (s.afterAssembly a met).line k' = s.line k') ∧ (∀ k', (s.afterAssembly a met).route k' = s.route k') ∧
    (s.afterAssembly a met).claims = s.claims ∧ (s.afterAssembly a met).proc.path = s.proc.path := by
  unfold afterAssembly; (repeat' split) <;> simp

@[simp] theorem returnCopy_frame (s : State) (c : Copy) :
    (s.returnCopy c).pending = s.pending ∧ (s.returnCopy c).timebase = s.timebase ∧ (s.returnCopy c).lines = s.lines ∧
    (s.returnCopy c).routes = s.routes ∧ (s.returnCopy c).bundleConfig = s.bundleConfig ∧
    (s.returnCopy c).assembly = s.assembly ∧ (s.returnCopy c).roundRobin = s.roundRobin ∧ (s.returnCopy c).proc = s.proc ∧
    (s.returnCopy c).enable = s.enable ∧ (s.returnCopy c).setupAddrLo = s.setupAddrLo ∧
    (s.returnCopy c).setupAddrHi = s.setupAddrHi ∧ (s.returnCopy c).staleCount = s.staleCount ∧
    (s.returnCopy c).resetting = s.resetting ∧ (s.returnCopy c).choices = s.choices ∧
    (∀ k', (s.returnCopy c).line k' = s.line k') ∧ (∀ k', (s.returnCopy c).route k' = s.route k') ∧
    (∀ k', (s.returnCopy c).config k' = s.config k') ∧ (s.returnCopy c).claims = s.claims := by
  unfold returnCopy
  split
  · simp
  · split
    · simp
    · dsimp only
      split
      · simp
      · simp

@[simp] theorem foldl_returnCopy_frame (s : State) (l : List Copy) :
    (l.foldl returnCopy s).pending = s.pending ∧ (l.foldl returnCopy s).timebase = s.timebase ∧
    (l.foldl returnCopy s).lines = s.lines ∧ (l.foldl returnCopy s).routes = s.routes ∧
    (l.foldl returnCopy s).bundleConfig = s.bundleConfig ∧ (l.foldl returnCopy s).assembly = s.assembly ∧
    (l.foldl returnCopy s).roundRobin = s.roundRobin ∧ (l.foldl returnCopy s).proc = s.proc ∧
    (l.foldl returnCopy s).enable = s.enable ∧ (l.foldl returnCopy s).setupAddrLo = s.setupAddrLo ∧
    (l.foldl returnCopy s).setupAddrHi = s.setupAddrHi ∧ (l.foldl returnCopy s).staleCount = s.staleCount ∧
    (l.foldl returnCopy s).resetting = s.resetting ∧ (l.foldl returnCopy s).choices = s.choices ∧
    (∀ k', (l.foldl returnCopy s).line k' = s.line k') ∧ (∀ k', (l.foldl returnCopy s).route k' = s.route k') ∧
    (∀ k', (l.foldl returnCopy s).config k' = s.config k') ∧ (l.foldl returnCopy s).claims = s.claims := by
  induction l generalizing s with
  | nil => simp
  | cons x l ih => simp [ih]

@[simp] theorem abortBundle_frame (s : State) (a : Assembly) :
    (s.abortBundle a).pending = s.pending ∧ (s.abortBundle a).timebase = s.timebase ∧ (s.abortBundle a).lines = s.lines ∧
    (s.abortBundle a).routes = s.routes ∧ (s.abortBundle a).intervals = s.intervals ∧
    (s.abortBundle a).records = s.records ∧ (s.abortBundle a).tallies = s.tallies ∧
    (s.abortBundle a).bundleConfig = s.bundleConfig ∧ (s.abortBundle a).assembly = s.assembly ∧
    (s.abortBundle a).roundRobin = s.roundRobin ∧ (s.abortBundle a).proc = s.proc ∧ (s.abortBundle a).enable = s.enable ∧
    (s.abortBundle a).setupAddrLo = s.setupAddrLo ∧ (s.abortBundle a).setupAddrHi = s.setupAddrHi ∧
    (s.abortBundle a).staleCount = s.staleCount ∧ (s.abortBundle a).resetting = s.resetting ∧
    (s.abortBundle a).choices = s.choices ∧ (∀ k', (s.abortBundle a).line k' = s.line k') ∧
    (∀ k', (s.abortBundle a).route k' = s.route k') ∧ (∀ k', (s.abortBundle a).interval k' = s.interval k') ∧
    (∀ k', (s.abortBundle a).record k' = s.record k') ∧ (∀ k', (s.abortBundle a).tally k' = s.tally k') ∧
    (∀ k', (s.abortBundle a).config k' = s.config k') ∧ (s.abortBundle a).claims = s.claims := by
  unfold abortBundle; (repeat' split) <;> simp

@[simp] theorem moveTarget_frame (s : State) (t : TargetId) (st : TargetState) :
    (s.moveTarget t st).pending = s.pending ∧ (s.moveTarget t st).timebase = s.timebase ∧
    (s.moveTarget t st).lines = s.lines ∧ (s.moveTarget t st).routes = s.routes ∧
    (s.moveTarget t st).intervals = s.intervals ∧ (s.moveTarget t st).records = s.records ∧
    (s.moveTarget t st).tallies = s.tallies ∧ (s.moveTarget t st).bundleConfig = s.bundleConfig ∧
    (s.moveTarget t st).assembly = s.assembly ∧ (s.moveTarget t st).roundRobin = s.roundRobin ∧
    (s.moveTarget t st).proc = s.proc ∧ (s.moveTarget t st).enable = s.enable ∧
    (s.moveTarget t st).setupAddrLo = s.setupAddrLo ∧ (s.moveTarget t st).setupAddrHi = s.setupAddrHi ∧
    (s.moveTarget t st).staleCount = s.staleCount ∧ (s.moveTarget t st).resetting = s.resetting ∧
    (s.moveTarget t st).choices = s.choices ∧ (∀ k', (s.moveTarget t st).line k' = s.line k') ∧
    (∀ k', (s.moveTarget t st).route k' = s.route k') ∧ (∀ k', (s.moveTarget t st).interval k' = s.interval k') ∧
    (∀ k', (s.moveTarget t st).record k' = s.record k') ∧ (∀ k', (s.moveTarget t st).tally k' = s.tally k') ∧
    (∀ k', (s.moveTarget t st).config k' = s.config k') ∧ (s.moveTarget t st).claims = s.claims := by
  simp [moveTarget]

@[simp] theorem consumedMoved_frame (s : State) (t : TargetId) (v : Word) :
    (s.consumedMoved t v).pending = s.pending ∧ (s.consumedMoved t v).timebase = s.timebase ∧
    (s.consumedMoved t v).lines = s.lines ∧ (s.consumedMoved t v).routes = s.routes ∧
    (s.consumedMoved t v).intervals = s.intervals ∧ (s.consumedMoved t v).records = s.records ∧
    (s.consumedMoved t v).tallies = s.tallies ∧ (s.consumedMoved t v).bundleConfig = s.bundleConfig ∧
    (s.consumedMoved t v).bundleRun = s.bundleRun ∧ (s.consumedMoved t v).assembly = s.assembly ∧
    (s.consumedMoved t v).roundRobin = s.roundRobin ∧ (s.consumedMoved t v).proc = s.proc ∧
    (s.consumedMoved t v).enable = s.enable ∧ (s.consumedMoved t v).setupAddrLo = s.setupAddrLo ∧
    (s.consumedMoved t v).setupAddrHi = s.setupAddrHi ∧ (s.consumedMoved t v).staleCount = s.staleCount ∧
    (s.consumedMoved t v).resetting = s.resetting ∧ (s.consumedMoved t v).choices = s.choices ∧
    (∀ k', (s.consumedMoved t v).line k' = s.line k') ∧ (∀ k', (s.consumedMoved t v).route k' = s.route k') ∧
    (∀ k', (s.consumedMoved t v).interval k' = s.interval k') ∧ (∀ k', (s.consumedMoved t v).record k' = s.record k') ∧
    (∀ k', (s.consumedMoved t v).tally k' = s.tally k') ∧ (∀ k', (s.consumedMoved t v).config k' = s.config k') ∧
    (∀ k', (s.consumedMoved t v).run k' = s.run k') ∧ (s.consumedMoved t v).claims = s.claims := by
  unfold consumedMoved; dsimp only; split <;> simp

@[simp] theorem consumerAnswer_frame (s : State) (t : TargetId) (v : ReadAnswer) :
    (s.consumerAnswer t v).pending = s.pending ∧ (s.consumerAnswer t v).timebase = s.timebase ∧
    (s.consumerAnswer t v).lines = s.lines ∧ (s.consumerAnswer t v).routes = s.routes ∧
    (s.consumerAnswer t v).bundleConfig = s.bundleConfig ∧ (s.consumerAnswer t v).assembly = s.assembly ∧
    (s.consumerAnswer t v).roundRobin = s.roundRobin ∧ (s.consumerAnswer t v).proc = s.proc ∧
    (s.consumerAnswer t v).enable = s.enable ∧ (s.consumerAnswer t v).setupAddrLo = s.setupAddrLo ∧
    (s.consumerAnswer t v).setupAddrHi = s.setupAddrHi ∧ (s.consumerAnswer t v).staleCount = s.staleCount ∧
    (s.consumerAnswer t v).resetting = s.resetting ∧ (s.consumerAnswer t v).choices = s.choices ∧
    (∀ k', (s.consumerAnswer t v).line k' = s.line k') ∧ (∀ k', (s.consumerAnswer t v).route k' = s.route k') ∧
    (∀ k', (s.consumerAnswer t v).config k' = s.config k') ∧ (s.consumerAnswer t v).claims = s.claims := by
  unfold consumerAnswer; (repeat' split) <;> simp

@[simp] theorem afterTargetAnswer_frame (s : State) (t : TargetId) :
    (s.afterTargetAnswer t).pending = s.pending ∧ (s.afterTargetAnswer t).timebase = s.timebase ∧
    (s.afterTargetAnswer t).lines = s.lines ∧ (s.afterTargetAnswer t).routes = s.routes ∧
    (s.afterTargetAnswer t).bundleConfig = s.bundleConfig ∧ (s.afterTargetAnswer t).assembly = s.assembly ∧
    (s.afterTargetAnswer t).roundRobin = s.roundRobin ∧ (s.afterTargetAnswer t).enable = s.enable ∧
    (s.afterTargetAnswer t).setupAddrLo = s.setupAddrLo ∧ (s.afterTargetAnswer t).setupAddrHi = s.setupAddrHi ∧
    (s.afterTargetAnswer t).staleCount = s.staleCount ∧ (s.afterTargetAnswer t).resetting = s.resetting ∧
    (s.afterTargetAnswer t).choices = s.choices ∧ (∀ k', (s.afterTargetAnswer t).line k' = s.line k') ∧
    (∀ k', (s.afterTargetAnswer t).route k' = s.route k') ∧ (∀ k', (s.afterTargetAnswer t).config k' = s.config k') ∧
    (s.afterTargetAnswer t).claims = s.claims ∧ (s.afterTargetAnswer t).proc.path = s.proc.path := by
  simp [afterTargetAnswer]

@[simp] theorem signalAnswer_frame (s : State) (t : TargetId) (v : WriteAnswer) :
    (s.signalAnswer t v).pending = s.pending ∧ (s.signalAnswer t v).timebase = s.timebase ∧
    (s.signalAnswer t v).lines = s.lines ∧ (s.signalAnswer t v).routes = s.routes ∧
    (s.signalAnswer t v).bundleConfig = s.bundleConfig ∧ (s.signalAnswer t v).assembly = s.assembly ∧
    (s.signalAnswer t v).roundRobin = s.roundRobin ∧ (s.signalAnswer t v).proc = s.proc ∧
    (s.signalAnswer t v).enable = s.enable ∧ (s.signalAnswer t v).setupAddrLo = s.setupAddrLo ∧
    (s.signalAnswer t v).setupAddrHi = s.setupAddrHi ∧ (s.signalAnswer t v).staleCount = s.staleCount ∧
    (s.signalAnswer t v).resetting = s.resetting ∧ (s.signalAnswer t v).choices = s.choices ∧
    (∀ k', (s.signalAnswer t v).line k' = s.line k') ∧ (∀ k', (s.signalAnswer t v).route k' = s.route k') ∧
    (∀ k', (s.signalAnswer t v).config k' = s.config k') ∧ (s.signalAnswer t v).claims = s.claims := by
  unfold signalAnswer; (repeat' split) <;> simp

@[simp] theorem refreshTarget_frame (s : State) (t : TargetId) :
    (s.refreshTarget t).pending = s.pending ∧ (s.refreshTarget t).timebase = s.timebase ∧
    (s.refreshTarget t).lines = s.lines ∧ (s.refreshTarget t).routes = s.routes ∧
    (s.refreshTarget t).intervals = s.intervals ∧ (s.refreshTarget t).records = s.records ∧
    (s.refreshTarget t).tallies = s.tallies ∧ (s.refreshTarget t).bundleConfig = s.bundleConfig ∧
    (s.refreshTarget t).bundleRun = s.bundleRun ∧ (s.refreshTarget t).assembly = s.assembly ∧
    (s.refreshTarget t).roundRobin = s.roundRobin ∧ (s.refreshTarget t).targets = s.targets ∧
    (s.refreshTarget t).proc = s.proc ∧ (s.refreshTarget t).enable = s.enable ∧
    (s.refreshTarget t).setupAddrLo = s.setupAddrLo ∧ (s.refreshTarget t).setupAddrHi = s.setupAddrHi ∧
    (s.refreshTarget t).staleCount = s.staleCount ∧ (s.refreshTarget t).resetting = s.resetting ∧
    (s.refreshTarget t).choices = s.choices ∧ (∀ k', (s.refreshTarget t).line k' = s.line k') ∧
    (∀ k', (s.refreshTarget t).route k' = s.route k') ∧ (∀ k', (s.refreshTarget t).interval k' = s.interval k') ∧
    (∀ k', (s.refreshTarget t).record k' = s.record k') ∧ (∀ k', (s.refreshTarget t).tally k' = s.tally k') ∧
    (∀ k', (s.refreshTarget t).config k' = s.config k') ∧ (∀ k', (s.refreshTarget t).run k' = s.run k') ∧
    (∀ k', (s.refreshTarget t).target k' = s.target k') ∧ (s.refreshTarget t).claims = s.claims := by
  unfold refreshTarget; (repeat' split) <;> simp

@[simp] theorem rearmTarget_frame (s : State) (f : Bool) (t : TargetId) :
    (s.rearmTarget f t).pending = s.pending ∧ (s.rearmTarget f t).timebase = s.timebase ∧
    (s.rearmTarget f t).lines = s.lines ∧ (s.rearmTarget f t).routes = s.routes ∧
    (s.rearmTarget f t).intervals = s.intervals ∧ (s.rearmTarget f t).records = s.records ∧
    (s.rearmTarget f t).tallies = s.tallies ∧ (s.rearmTarget f t).bundleConfig = s.bundleConfig ∧
    (s.rearmTarget f t).bundleRun = s.bundleRun ∧ (s.rearmTarget f t).assembly = s.assembly ∧
    (s.rearmTarget f t).roundRobin = s.roundRobin ∧ (s.rearmTarget f t).proc = s.proc ∧
    (s.rearmTarget f t).enable = s.enable ∧ (s.rearmTarget f t).setupAddrLo = s.setupAddrLo ∧
    (s.rearmTarget f t).setupAddrHi = s.setupAddrHi ∧ (s.rearmTarget f t).staleCount = s.staleCount ∧
    (s.rearmTarget f t).resetting = s.resetting ∧ (s.rearmTarget f t).choices = s.choices ∧
    (∀ k', (s.rearmTarget f t).line k' = s.line k') ∧ (∀ k', (s.rearmTarget f t).route k' = s.route k') ∧
    (∀ k', (s.rearmTarget f t).interval k' = s.interval k') ∧ (∀ k', (s.rearmTarget f t).record k' = s.record k') ∧
    (∀ k', (s.rearmTarget f t).tally k' = s.tally k') ∧ (∀ k', (s.rearmTarget f t).config k' = s.config k') ∧
    (∀ k', (s.rearmTarget f t).run k' = s.run k') ∧ (s.rearmTarget f t).claims = s.claims := by
  unfold rearmTarget; dsimp only; (repeat' split) <;> simp

@[simp] theorem issueCplRead_frame (s : State) :
    (s.issueCplRead).pending = s.pending ∧ (s.issueCplRead).timebase = s.timebase ∧ (s.issueCplRead).lines = s.lines ∧
    (s.issueCplRead).routes = s.routes ∧ (s.issueCplRead).intervals = s.intervals ∧ (s.issueCplRead).records = s.records ∧
    (s.issueCplRead).tallies = s.tallies ∧ (s.issueCplRead).bundleConfig = s.bundleConfig ∧
    (s.issueCplRead).bundleRun = s.bundleRun ∧ (s.issueCplRead).assembly = s.assembly ∧
    (s.issueCplRead).roundRobin = s.roundRobin ∧ (s.issueCplRead).targets = s.targets ∧ (s.issueCplRead).proc = s.proc ∧
    (s.issueCplRead).enable = s.enable ∧ (s.issueCplRead).setupAddrLo = s.setupAddrLo ∧
    (s.issueCplRead).setupAddrHi = s.setupAddrHi ∧ (s.issueCplRead).staleCount = s.staleCount ∧
    (s.issueCplRead).resetting = s.resetting ∧ (s.issueCplRead).choices = s.choices ∧
    (∀ k', (s.issueCplRead).line k' = s.line k') ∧ (∀ k', (s.issueCplRead).route k' = s.route k') ∧
    (∀ k', (s.issueCplRead).interval k' = s.interval k') ∧ (∀ k', (s.issueCplRead).record k' = s.record k') ∧
    (∀ k', (s.issueCplRead).tally k' = s.tally k') ∧ (∀ k', (s.issueCplRead).config k' = s.config k') ∧
    (∀ k', (s.issueCplRead).run k' = s.run k') ∧ (∀ k', (s.issueCplRead).target k' = s.target k') ∧
    (s.issueCplRead).claims = s.claims := by
  unfold issueCplRead; (repeat' split) <;> simp

@[simp] theorem setProcState_frame (s : State) (st : ProcState) :
    (s.setProcState st).pending = s.pending ∧ (s.setProcState st).timebase = s.timebase ∧
    (s.setProcState st).lines = s.lines ∧ (s.setProcState st).routes = s.routes ∧
    (s.setProcState st).intervals = s.intervals ∧ (s.setProcState st).records = s.records ∧
    (s.setProcState st).tallies = s.tallies ∧ (s.setProcState st).bundleConfig = s.bundleConfig ∧
    (s.setProcState st).bundleRun = s.bundleRun ∧ (s.setProcState st).assembly = s.assembly ∧
    (s.setProcState st).roundRobin = s.roundRobin ∧ (s.setProcState st).targets = s.targets ∧
    (s.setProcState st).enable = s.enable ∧ (s.setProcState st).setupAddrLo = s.setupAddrLo ∧
    (s.setProcState st).setupAddrHi = s.setupAddrHi ∧ (s.setProcState st).staleCount = s.staleCount ∧
    (s.setProcState st).resetting = s.resetting ∧ (s.setProcState st).requests = s.requests ∧
    (s.setProcState st).nextRequest = s.nextRequest ∧ (s.setProcState st).choices = s.choices ∧
    (∀ k', (s.setProcState st).line k' = s.line k') ∧ (∀ k', (s.setProcState st).route k' = s.route k') ∧
    (∀ k', (s.setProcState st).interval k' = s.interval k') ∧ (∀ k', (s.setProcState st).record k' = s.record k') ∧
    (∀ k', (s.setProcState st).tally k' = s.tally k') ∧ (∀ k', (s.setProcState st).config k' = s.config k') ∧
    (∀ k', (s.setProcState st).run k' = s.run k') ∧ (∀ k', (s.setProcState st).target k' = s.target k') ∧
    (s.setProcState st).claims = s.claims ∧ (s.setProcState st).proc.path = s.proc.path ∧
    (s.setProcState st).proc.held = s.proc.held := by
  simp [setProcState]

@[simp] theorem takeCommand_frame (s : State) :
    (s.takeCommand).pending = s.pending ∧ (s.takeCommand).timebase = s.timebase ∧ (s.takeCommand).lines = s.lines ∧
    (s.takeCommand).routes = s.routes ∧ (s.takeCommand).intervals = s.intervals ∧ (s.takeCommand).records = s.records ∧
    (s.takeCommand).tallies = s.tallies ∧ (s.takeCommand).bundleConfig = s.bundleConfig ∧
    (s.takeCommand).bundleRun = s.bundleRun ∧ (s.takeCommand).assembly = s.assembly ∧
    (s.takeCommand).roundRobin = s.roundRobin ∧ (s.takeCommand).targets = s.targets ∧ (s.takeCommand).enable = s.enable ∧
    (s.takeCommand).setupAddrLo = s.setupAddrLo ∧ (s.takeCommand).setupAddrHi = s.setupAddrHi ∧
    (s.takeCommand).staleCount = s.staleCount ∧ (s.takeCommand).resetting = s.resetting ∧
    (s.takeCommand).choices = s.choices ∧ (∀ k', (s.takeCommand).line k' = s.line k') ∧
    (∀ k', (s.takeCommand).route k' = s.route k') ∧ (∀ k', (s.takeCommand).interval k' = s.interval k') ∧
    (∀ k', (s.takeCommand).record k' = s.record k') ∧ (∀ k', (s.takeCommand).tally k' = s.tally k') ∧
    (∀ k', (s.takeCommand).config k' = s.config k') ∧ (∀ k', (s.takeCommand).run k' = s.run k') ∧
    (∀ k', (s.takeCommand).target k' = s.target k') ∧ (s.takeCommand).proc.path = s.proc.path ∧
    (s.takeCommand).proc.held = s.proc.held := by
  unfold takeCommand; (repeat' split) <;> simp

@[simp] theorem issueCplSignal_frame (s : State) (c : Completion) :
    (s.issueCplSignal c).pending = s.pending ∧ (s.issueCplSignal c).timebase = s.timebase ∧
    (s.issueCplSignal c).lines = s.lines ∧ (s.issueCplSignal c).routes = s.routes ∧
    (s.issueCplSignal c).intervals = s.intervals ∧ (s.issueCplSignal c).records = s.records ∧
    (s.issueCplSignal c).tallies = s.tallies ∧ (s.issueCplSignal c).bundleConfig = s.bundleConfig ∧
    (s.issueCplSignal c).bundleRun = s.bundleRun ∧ (s.issueCplSignal c).assembly = s.assembly ∧
    (s.issueCplSignal c).roundRobin = s.roundRobin ∧ (s.issueCplSignal c).targets = s.targets ∧
    (s.issueCplSignal c).proc = s.proc ∧ (s.issueCplSignal c).enable = s.enable ∧
    (s.issueCplSignal c).setupAddrLo = s.setupAddrLo ∧ (s.issueCplSignal c).setupAddrHi = s.setupAddrHi ∧
    (s.issueCplSignal c).staleCount = s.staleCount ∧ (s.issueCplSignal c).resetting = s.resetting ∧
    (s.issueCplSignal c).choices = s.choices ∧ (∀ k', (s.issueCplSignal c).line k' = s.line k') ∧
    (∀ k', (s.issueCplSignal c).route k' = s.route k') ∧ (∀ k', (s.issueCplSignal c).interval k' = s.interval k') ∧
    (∀ k', (s.issueCplSignal c).record k' = s.record k') ∧ (∀ k', (s.issueCplSignal c).tally k' = s.tally k') ∧
    (∀ k', (s.issueCplSignal c).config k' = s.config k') ∧ (∀ k', (s.issueCplSignal c).run k' = s.run k') ∧
    (∀ k', (s.issueCplSignal c).target k' = s.target k') ∧ (s.issueCplSignal c).claims = s.claims := by
  unfold issueCplSignal; (repeat' split) <;> simp

@[simp] theorem issueSetupRead_frame (s : State) :
    (s.issueSetupRead).pending = s.pending ∧ (s.issueSetupRead).timebase = s.timebase ∧ (s.issueSetupRead).lines = s.lines ∧
    (s.issueSetupRead).routes = s.routes ∧ (s.issueSetupRead).bundleConfig = s.bundleConfig ∧
    (s.issueSetupRead).assembly = s.assembly ∧ (s.issueSetupRead).roundRobin = s.roundRobin ∧
    (s.issueSetupRead).enable = s.enable ∧ (s.issueSetupRead).setupAddrLo = s.setupAddrLo ∧
    (s.issueSetupRead).setupAddrHi = s.setupAddrHi ∧ (s.issueSetupRead).staleCount = s.staleCount ∧
    (s.issueSetupRead).resetting = s.resetting ∧ (s.issueSetupRead).choices = s.choices ∧
    (∀ k', (s.issueSetupRead).line k' = s.line k') ∧ (∀ k', (s.issueSetupRead).route k' = s.route k') ∧
    (∀ k', (s.issueSetupRead).config k' = s.config k') ∧ (s.issueSetupRead).proc.path = s.proc.path ∧
    (s.issueSetupRead).proc.held = s.proc.held := by
  unfold issueSetupRead; (repeat' split) <;> simp

@[simp] theorem loadSetup_frame (s : State) (b : SetupBlock) :
    (s.loadSetup b).pending = s.pending ∧ (s.loadSetup b).timebase = s.timebase ∧ (s.loadSetup b).lines = s.lines ∧
    (s.loadSetup b).routes = s.routes ∧ (s.loadSetup b).bundleConfig = s.bundleConfig ∧
    (s.loadSetup b).assembly = s.assembly ∧ (s.loadSetup b).roundRobin = s.roundRobin ∧ (s.loadSetup b).enable = s.enable ∧
    (s.loadSetup b).setupAddrLo = s.setupAddrLo ∧ (s.loadSetup b).setupAddrHi = s.setupAddrHi ∧
    (s.loadSetup b).staleCount = s.staleCount ∧ (s.loadSetup b).resetting = s.resetting ∧
    (s.loadSetup b).choices = s.choices ∧ (∀ k', (s.loadSetup b).line k' = s.line k') ∧
    (∀ k', (s.loadSetup b).route k' = s.route k') ∧ (∀ k', (s.loadSetup b).config k' = s.config k') := by
  unfold loadSetup; dsimp only; split; (split <;> simp); simp

@[simp] theorem cplConsumedMoved_frame (s : State) (v : Word) :
    (s.cplConsumedMoved v).pending = s.pending ∧ (s.cplConsumedMoved v).timebase = s.timebase ∧
    (s.cplConsumedMoved v).lines = s.lines ∧ (s.cplConsumedMoved v).routes = s.routes ∧
    (s.cplConsumedMoved v).intervals = s.intervals ∧ (s.cplConsumedMoved v).records = s.records ∧
    (s.cplConsumedMoved v).tallies = s.tallies ∧ (s.cplConsumedMoved v).bundleConfig = s.bundleConfig ∧
    (s.cplConsumedMoved v).bundleRun = s.bundleRun ∧ (s.cplConsumedMoved v).assembly = s.assembly ∧
    (s.cplConsumedMoved v).roundRobin = s.roundRobin ∧ (s.cplConsumedMoved v).targets = s.targets ∧
    (s.cplConsumedMoved v).enable = s.enable ∧ (s.cplConsumedMoved v).setupAddrLo = s.setupAddrLo ∧
    (s.cplConsumedMoved v).setupAddrHi = s.setupAddrHi ∧ (s.cplConsumedMoved v).staleCount = s.staleCount ∧
    (s.cplConsumedMoved v).resetting = s.resetting ∧ (s.cplConsumedMoved v).choices = s.choices ∧
    (∀ k', (s.cplConsumedMoved v).line k' = s.line k') ∧ (∀ k', (s.cplConsumedMoved v).route k' = s.route k') ∧
    (∀ k', (s.cplConsumedMoved v).interval k' = s.interval k') ∧ (∀ k', (s.cplConsumedMoved v).record k' = s.record k') ∧
    (∀ k', (s.cplConsumedMoved v).tally k' = s.tally k') ∧ (∀ k', (s.cplConsumedMoved v).config k' = s.config k') ∧
    (∀ k', (s.cplConsumedMoved v).run k' = s.run k') ∧ (∀ k', (s.cplConsumedMoved v).target k' = s.target k') := by
  unfold cplConsumedMoved; dsimp only; split <;> simp

end State
end Sys2Proof.Machine
end

