-- ==== Sys2Proof/Laws/Ledger.lean ====
section
/-! SUPPORT. Sys2Proof/Laws/Ledger.lean: what a shared operation can do to the ledger (routes, records, tallies, the assembly, the
bundles' states and held sets): `Ledger s t`, a closure of few moves, and one lemma per operation. An invariant of the ledger is
proved once per move. -/
namespace Sys2Proof.Machine

open State

/-- Nothing of the ledger changed. -/
structure Calm (s t : State) : Prop where
  records : t.records = s.records
  routes : t.routes = s.routes
  tallies : t.tallies = s.tallies
  assembly : t.assembly = s.assembly
  state : ∀ b, (t.run b).state = (s.run b).state
  heldSet : ∀ b, (t.run b).heldSet = (s.run b).heldSet
  rest : ∀ b, (s.run b).HoldFields → (t.run b).HoldFields

namespace Calm

theorem refl (s : State) : Calm s s := ⟨rfl, rfl, rfl, rfl, fun _ => rfl, fun _ => rfl, fun _ => id⟩

theorem trans {s t u : State} (h : Calm s t) (k : Calm t u) : Calm s u :=
  ⟨k.1.trans h.1, k.2.trans h.2, k.3.trans h.3, k.4.trans h.4, fun b => (k.5 b).trans (h.5 b), fun b => (k.6 b).trans (h.6 b),
    fun b => k.7 b ∘ h.7 b⟩

/-- The ledger fields are the same, and so are the bundles' run-time halves. -/
theorem of_eq {s t : State} (h1 : t.records = s.records) (h2 : t.routes = s.routes) (h3 : t.tallies = s.tallies)
    (h4 : t.assembly = s.assembly) (h5 : t.bundleRun = s.bundleRun) : Calm s t :=
  ⟨h1, h2, h3, h4, fun b => by simp [run, h5], fun b => by simp [run, h5], fun b => by simp [run, h5]⟩

theorem record {s t : State} (h : Calm s t) (n : SourceId) : t.record n = s.record n := by simp [State.record, h.records]
theorem route {s t : State} (h : Calm s t) (n : SourceId) : t.route n = s.route n := by simp [State.route, h.routes]
theorem tally {s t : State} (h : Calm s t) (n : SourceId) : t.tally n = s.tally n := by simp [State.tally, h.tallies]

theorem pendingList {s t : State} (h : Calm s t) (b : BundleId) : t.pendingList b = s.pendingList b := by
  have hk : t.listKey = s.listKey := by funext n; simp [listKey, h.record, h.route]
  simp [State.pendingList, recorded, hk, h.records, h.route]

end Calm

/-! ### Membership of a list -/

/-- The recorded sources, by the reader of records. -/
theorem recorded_eq (s : State) : s.recorded = allSources.filter fun n => (s.record n).isSome := by
  have h : s.records.toList = allSources.map s.record := by
    apply List.ext_getElem <;> simp [allSources, State.record]
  have k : ∀ l : List SourceId, ((l.zip (l.map s.record)).filterMap fun p => if p.2.isSome then some p.1 else none) =
      l.filter fun n => (s.record n).isSome := by
    intro l
    induction l with
    | nil => rfl
    | cons n l ih =>
      simp only [List.map_cons, List.zip_cons_cons, List.filterMap_cons, List.filter_cons, ih]
      cases (s.record n).isSome <;> simp
  rw [State.recorded, h, k]

theorem mem_recorded (s : State) (n : SourceId) : n ∈ s.recorded ↔ (s.record n).isSome = true := by
  simp [recorded_eq, allSources]

/-- A list holds no duplicates (R38). -/
theorem pendingList_nodup (s : State) (b : BundleId) : (s.pendingList b).Nodup := by
  rw [State.pendingList, (List.perm_insertionSort _ _).nodup_iff, recorded_eq]
  exact ((List.nodup_finRange 216).filter _).filter _

/-- A list depends on the routes, on which sources have records, and on the first times (R38). -/
theorem pendingList_congr {s t : State} (hr : ∀ n, (t.record n).isSome = (s.record n).isSome)
    (hf : ∀ n x y, s.record n = some x → t.record n = some y → x.firstTime = y.firstTime) (ho : ∀ n, t.route n = s.route n)
    (b : BundleId) : t.pendingList b = s.pendingList b := by
  have hk : t.listKey = s.listKey := by
    funext n
    have h := hr n
    unfold listKey
    rw [ho]
    cases h1 : t.record n <;> cases h2 : s.record n <;> simp_all
    rw [hf n _ _ h2 h1]
  simp [State.pendingList, recorded_eq, hk, hr, ho]

/-- A source is in a bundle's list exactly when it has a record and its route entry names the bundle (R37). -/
theorem mem_pendingList (s : State) (b : BundleId) (n : SourceId) :
    n ∈ s.pendingList b ↔ (s.record n).isSome = true ∧ (s.route n).bundle = some b := by
  simp [State.pendingList, List.mem_insertionSort, mem_recorded]

theorem pendingList_eq_nil (s : State) (b : BundleId) :
    s.pendingList b = [] ↔ ∀ n, (s.record n).isSome = true → (s.route n).bundle ≠ some b := by
  rw [List.eq_nil_iff_forall_not_mem]
  simp [mem_pendingList]

/-! ### The moves -/

/-- What a source's tallies say is still outstanding (R46). -/
def Tallies.net (y : Tallies) : Word := y.accepted - y.reported - y.cleared - y.lost

/-- A list gained its first record: IDLE becomes READY (R55). -/
def wake (b : Option BundleId) (s : State) : State :=
  match b with
  | some b => if (s.run b).state = .idle then s.updRun b fun x => { x with state := .ready } else s
  | none => s

/-- A list may have lost its last record: READY becomes IDLE (R55). -/
def sleep (b : Option BundleId) (s : State) : State :=
  match b with
  | some b => if (s.run b).state = .ready ∧ s.pendingList b = [] then s.updRun b fun x => { x with state := .idle } else s
  | none => s

/-- A move of a source's record by a new route entry, as one change of both lists (R26). -/
def moveRoute (n : SourceId) (e : RouteEntry) (s : State) : State :=
  if (s.record n).isSome && (s.route n).bundle != e.bundle then sleep (s.route n).bundle (wake e.bundle (s.setRoute n e))
  else s.setRoute n e

/-- A hold ends (R100): its fields are emptied and the bundle settles by its list. -/
def unhold (b : BundleId) (s : State) : State :=
  s.updRun b fun x =>
    { x with
      heldSet := [], remindersPosted := 0, reminderDue := false, holdTimer := .stopped
      state := if s.pendingList b = [] then .idle else .ready }

/-- The moves that the shared operations make, one after another. -/
inductive Ledger : State → State → Prop
  | calm {s t : State} : Calm s t → Ledger s t
  | trans {s t u : State} : Ledger s t → Ledger t u → Ledger s u
  | create {s t : State} (n : SourceId) (r : PendingRecord) (f : Tallies → Tallies) : s.record n = none →
      (f (s.tally n)).net = (s.tally n).net + BitVec.ofNat 32 r.count → 1 ≤ r.count → r.count ≤ Config.countLimit →
      Calm (wake (s.route n).bundle ((s.setRecord n (some r)).updTally n f)) t → Ledger s t
  | grow {s t : State} (n : SourceId) (r r' : PendingRecord) (f : Tallies → Tallies) : s.record n = some r →
      (f (s.tally n)).net - BitVec.ofNat 32 r'.count = (s.tally n).net - BitVec.ofNat 32 r.count →
      r.count ≤ r'.count → (r.count ≤ Config.countLimit → r'.count ≤ Config.countLimit) →
      Calm ((s.setRecord n (some r')).updTally n f) t → Ledger s t
  | discard {s t : State} (n : SourceId) : Calm (sleep (s.route n).bundle (s.clearRecord n)) t → Ledger s t
  | flush {s t : State} (b : BundleId) :
      Calm (sleep (some b) ((s.pendingList b).foldl (fun u n => u.clearRecord n) s)) t → Ledger s t
  | route {s t : State} (n : SourceId) (e : RouteEntry) : Calm (moveRoute n e s) t → Ledger s t
  | settle {s t : State} (b : BundleId) (st : BundleState) :
      (s.run b).state ≠ .assembling → (s.run b).state ≠ .held → st ≠ .assembling → st ≠ .held →
      (st = .ready → s.pendingList b ≠ []) → (st = .idle → s.pendingList b = []) →
      Calm (s.updRun b fun x => { x with state := st }) t → Ledger s t
  | release {s t : State} (b : BundleId) : (s.run b).state = .held → Calm (unhold b s) t → Ledger s t

namespace Ledger

theorem refl (s : State) : Ledger s s := .calm (.refl s)

/-- Moves that end where a calm change begins. -/
theorem andCalm {s t u : State} (h : Ledger s t) (k : Calm t u) : Ledger s u := h.trans (.calm k)

end Ledger

/-- Outside HELD what a bundle's hold fields must be does not depend on its state. -/
theorem BundleRun.HoldFields.move {x y : BundleRun} {st : BundleState} (h : x.HoldFields → y.HoldFields) (hx : x.state ≠ .held)
    (hy : y.state ≠ .held) (hs : st ≠ .held) (k : { x with state := st }.HoldFields) : { y with state := st }.HoldFields :=
  ⟨fun _ => (h ⟨fun _ => k.1 hs, fun e => absurd e hx⟩).1 hy, fun e => absurd e hs⟩

theorem Calm.updRun {s : State} {b : BundleId} {f : BundleRun → BundleRun} (h1 : (f (s.run b)).state = (s.run b).state)
    (h2 : (f (s.run b)).heldSet = (s.run b).heldSet) (h3 : (s.run b).HoldFields → (f (s.run b)).HoldFields) : Calm s (s.updRun b f) :=
  ⟨rfl, rfl, rfl, rfl, fun c => by by_cases hc : c = b <;> simp_all [updRun_run], fun c => by
    by_cases hc : c = b <;> simp_all [updRun_run], fun c => by by_cases hc : c = b <;> simp_all [updRun_run]⟩

/-- A change of one bundle's state and held set is the same for two states with the same ledger. -/
theorem Calm.updRun_congr {s t : State} (h : Calm s t) (b : BundleId) {f g : BundleRun → BundleRun}
    (h1 : (g (t.run b)).state = (f (s.run b)).state) (h2 : (g (t.run b)).heldSet = (f (s.run b)).heldSet)
    (h3 : (f (s.run b)).HoldFields → (g (t.run b)).HoldFields) : Calm (s.updRun b f) (t.updRun b g) :=
  ⟨h.1, h.2, h.3, h.4, fun c => by
      by_cases hc : c = b
      · subst hc; simpa using h1
      · simp [updRun_run, hc, h.5],
    fun c => by
      by_cases hc : c = b
      · subst hc; simpa using h2
      · simp [updRun_run, hc, h.6],
    fun c => by
      by_cases hc : c = b
      · subst hc; simpa using h3
      · simpa [updRun_run, hc] using h.7 c⟩


theorem Calm.wake {s t : State} (h : Calm s t) (b : Option BundleId) : Calm (wake b s) (wake b t) := by
  cases b with
  | none => exact h
  | some b =>
    simp only [Machine.wake, h.5]
    split
    · rename_i e
      exact h.updRun_congr b rfl (h.6 b) (.move (h.7 b) (by simp [e]) (by simp [h.5, e]) nofun)
    · exact h

theorem Calm.sleep {s t : State} (h : Calm s t) (b : Option BundleId) : Calm (sleep b s) (sleep b t) := by
  cases b with
  | none => exact h
  | some b =>
    simp only [Machine.sleep, h.5, h.pendingList]
    split
    · rename_i e
      exact h.updRun_congr b rfl (h.6 b) (.move (h.7 b) (by simp [e.1]) (by simp [h.5, e.1]) nofun)
    · exact h

/-! ### What the moves leave alone -/

@[simp] theorem wake_frame (b s) : (wake b s).records = s.records ∧ (wake b s).tallies = s.tallies ∧ (wake b s).assembly = s.assembly ∧ (wake b s).routes = s.routes
   ∧ (∀ n, (wake b s).record n = s.record n) ∧ (∀ n, (wake b s).tally n = s.tally n) ∧ (∀ n, (wake b s).route n = s.route n) := by
  unfold wake; (repeat' split) <;> simp

@[simp] theorem sleep_frame (b s) : (sleep b s).records = s.records ∧ (sleep b s).tallies = s.tallies ∧ (sleep b s).assembly = s.assembly ∧ (sleep b s).routes = s.routes
   ∧ (∀ n, (sleep b s).record n = s.record n) ∧ (∀ n, (sleep b s).tally n = s.tally n) ∧ (∀ n, (sleep b s).route n = s.route n) := by
  unfold sleep; (repeat' split) <;> simp

@[simp] theorem moveRoute_frame (n) (e : RouteEntry) (s : State) : (moveRoute n e s).records = s.records ∧ (moveRoute n e s).tallies = s.tallies ∧ (moveRoute n e s).assembly = s.assembly 
   ∧ (∀ m, (moveRoute n e s).record m = s.record m) ∧ (∀ m, (moveRoute n e s).tally m = s.tally m) ∧ (∀ m, (moveRoute n e s).route m = if m = n then e else s.route m) := by
  unfold moveRoute; split <;> simp [setRoute_route]

/-- A chain of discards leaves no record of its sources, and every other record as it was. -/
theorem record_foldl_clear (l : List SourceId) (u : State) (m) : (l.foldl (fun u n => u.clearRecord n) u).record m = if m ∈ l then none else u.record m := by
  have h1 : ∀ (u : State) n m, (u.clearRecord n).record m = if m = n then none else u.record m := by
    intro u n m
    unfold clearRecord
    split
    · simp [setRecord_record]
    · rename_i h; split <;> simp_all
  induction l generalizing u with
  | nil => simp
  | cons a l ih => simp only [List.foldl_cons, ih, h1, List.mem_cons]; by_cases e : m = a <;> by_cases e2 : m ∈ l <;> simp [e, e2]

/-- No move touches the assembly in flight. -/
theorem Ledger.assembly {s t : State} (h : Ledger s t) : t.assembly = s.assembly := by
  induction h with
  | calm h => exact h.assembly
  | trans _ _ a b => exact b.trans a
  | create n r f _ _ _ _ h => rw [h.assembly]; simp
  | grow n r r' f _ _ _ _ h => rw [h.assembly]; simp
  | discard n h => rw [h.assembly]; simp
  | flush b h => rw [h.assembly]; simp
  | route n e h => rw [h.assembly]; unfold moveRoute; split <;> simp
  | settle b st _ _ _ _ _ _ h => rw [h.assembly]; simp
  | release b _ h => rw [h.assembly]; simp [unhold]

/-! ### Operations that leave the ledger alone -/

theorem calm_rejudgeSpaceOf (s : State) (b : BundleId) : Calm s (s.rejudgeSpaceOf b) := .of_eq (by simp) (by simp) (by simp) (by simp) (by simp)
theorem calm_sweepDeferred (s : State) : Calm s s.sweepDeferred := .of_eq (by simp) (by simp) (by simp) (by simp) (by simp)

theorem calm_setState (s : State) (b : BundleId) (st : BundleState) :
    Calm (s.updRun b fun x => { x with state := st }) (s.setState b st) := calm_rejudgeSpaceOf _ b

theorem calm_rejudgeHold (s : State) (b : BundleId) : Calm s (s.rejudgeHold b) :=
  .updRun rfl rfl fun h => ⟨fun e => by simp [(h.1 e).1, (h.1 e).2.1, (h.1 e).2.2, HoldTimer.judged], h.2⟩

theorem calm_rejudgeHolds (s : State) : Calm s s.rejudgeHolds := by
  unfold rejudgeHolds
  generalize allBundles = l
  induction l generalizing s with
  | nil => exact .refl s
  | cons b l ih => exact (calm_rejudgeHold s b).trans (ih _)

theorem calm_startHold (s : State) (b : BundleId) (h : (s.run b).state = .held) : Calm s (s.startHold b) := by
  unfold startHold
  exact .updRun rfl rfl fun k => ⟨fun e => absurd h e, k.2⟩

theorem calm_listGained (s : State) (b : Option BundleId) : Calm (wake b s) (s.listGained b) := by
  cases b with
  | none => exact .refl s
  | some b =>
    simp only [wake, listGained]
    split
    · exact calm_setState s b .ready
    · exact .refl s

theorem calm_listLost (s : State) (b : Option BundleId) : Calm (sleep b s) (s.listLost b) := by
  cases b with
  | none => exact .refl s
  | some b =>
    simp only [sleep, listLost]
    split
    · exact (calm_setState s b .idle).trans (calm_sweepDeferred _)
    · exact .refl s

/-! ### Arrivals -/

/-- An arrival wakes idle bundles and does nothing else to a bundle (R55). -/
def Woken (s t : State) : Prop :=
  ∀ b, t.run b = s.run b ∨ (s.run b).state = .idle ∧ t.run b = { s.run b with state := .ready }

theorem Woken.refl (s : State) : Woken s s := fun _ => .inl rfl

theorem Woken.trans {s t u : State} (h : Woken s t) (k : Woken t u) : Woken s u := by
  intro b
  rcases h b with h | ⟨h1, h2⟩ <;> rcases k b with k | ⟨k1, k2⟩ <;> simp_all

theorem Woken.of_eq {s t : State} (h : t.bundleRun = s.bundleRun) : Woken s t := fun b => .inl (by simp [run, h])

/-- A bundle that is not IDLE keeps its run-time half. -/
theorem Woken.run {s t : State} (h : Woken s t) {b : BundleId} (hb : (s.run b).state ≠ .idle) : t.run b = s.run b := by
  rcases h b with h | ⟨h, -⟩
  · exact h
  · exact absurd h hb

theorem woken_listGained (s : State) (b : Option BundleId) : Woken s (s.listGained b) := by
  cases b with
  | none => exact .refl s
  | some b =>
    simp only [listGained]
    split
    · intro c
      have hc : (s.setState b .ready).run c = (s.updRun b fun x => { x with state := .ready }).run c := by simp [setState]
      rw [hc]
      by_cases h : c = b
      · subst h; right; simp_all
      · left; simp [updRun_run, h]
    · exact .refl s

theorem woken_arrive (s : State) (n : SourceId) (d : Option Half) : Woken s (s.arrive n d) := by
  unfold arrive
  dsimp only
  split
  · exact (Woken.of_eq (by simp)).trans (woken_listGained _ _)
  · split <;> exact .of_eq (by simp)

theorem woken_acceptOne (s : State) (n : SourceId) (d : Option Half) : Woken s (s.acceptOne n d) := by
  unfold acceptOne
  split
  · exact woken_arrive s n d
  · exact .refl s

theorem woken_accept (s : State) (n : SourceId) (d : Option Half) : Woken s (s.accept n d) := by
  unfold accept
  split
  · exact (woken_acceptOne s n d).trans (woken_acceptOne _ _ _)
  · exact woken_acceptOne s n d

theorem woken_acceptMany (s : State) (n : SourceId) (d : Option Half) (k : Nat) : Woken s (s.acceptMany n d k) := by
  induction k generalizing s with
  | zero => exact .refl s
  | succ k ih => exact (woken_accept s n d).trans (ih _)

theorem woken_levelCheck (s : State) (n : SourceId) : Woken s (s.levelCheck n) := by
  unfold levelCheck
  split
  · exact woken_accept s n _
  · exact .refl s

theorem woken_reassert (s : State) (l : List SourceId) : Woken s (s.reassert l) := by
  unfold reassert
  induction l generalizing s with
  | nil => exact .refl s
  | cons n l ih => exact (woken_levelCheck s n).trans (ih _)

theorem net_accepted (y : Tallies) : Tallies.net { y with accepted := y.accepted + 1 } = y.net + 1 := by
  simp only [Tallies.net]; ring

theorem ledger_arrive (s : State) (n : SourceId) (d : Option Half) : Ledger s (s.arrive n d) := by
  unfold arrive
  dsimp only
  split
  case h_1 h =>
    refine .create n ⟨1, s.timebase, s.timebase, s.interval n, d⟩ (fun y => { y with accepted := y.accepted + 1 }) h
      (net_accepted _) (Nat.le_refl 1) (by simp [Config.countLimit]) ?_
    refine Calm.trans ?_ (calm_listGained _ _)
    refine Calm.wake ?_ _
    exact .of_eq rfl rfl rfl rfl rfl
  case h_2 r h =>
    split
    case isTrue hr =>
      refine .grow n r { r with count := r.count + 1, lastTime := s.timebase, detail := d }
        (fun y => { y with accepted := y.accepted + 1 }) h ?_ (Nat.le_succ _) (fun _ => hr) (.of_eq rfl rfl rfl rfl rfl)
      rw [net_accepted, BitVec.ofNat_add, show BitVec.ofNat 32 1 = (1 : Word) from rfl]
      ring
    case isFalse hr =>
      refine .grow n r { r with lastTime := s.timebase, detail := d }
        (fun y => { y with accepted := y.accepted + 1, lost := y.lost + 1 }) h ?_ (Nat.le_refl _) id
        (.of_eq rfl rfl ?_ rfl rfl)
      · simp only [Tallies.net]; ring
      · simp [updTally, State.tally, setRecord, setInterval]

theorem ledger_acceptOne (s : State) (n : SourceId) (d : Option Half) : Ledger s (s.acceptOne n d) := by
  unfold acceptOne
  split
  · exact ledger_arrive s n d
  · exact .refl s

theorem ledger_accept (s : State) (n : SourceId) (d : Option Half) : Ledger s (s.accept n d) := by
  unfold accept
  split
  · exact (ledger_acceptOne s n d).trans (ledger_acceptOne _ _ _)
  · exact ledger_acceptOne s n d

theorem ledger_acceptMany (s : State) (n : SourceId) (d : Option Half) (k : Nat) : Ledger s (s.acceptMany n d k) := by
  induction k generalizing s with
  | zero => exact .refl s
  | succ k ih => exact (ledger_accept s n d).trans (ih _)

theorem ledger_levelCheck (s : State) (n : SourceId) : Ledger s (s.levelCheck n) := by
  unfold levelCheck
  split
  · exact ledger_accept s n _
  · exact .refl s

theorem ledger_reassert (s : State) (l : List SourceId) : Ledger s (s.reassert l) := by
  unfold reassert
  induction l generalizing s with
  | nil => exact .refl s
  | cons n l ih => exact (ledger_levelCheck s n).trans (ih _)

theorem ledger_qualify (s : State) (l : LineId) : Ledger s (s.qualify l) := by
  unfold qualify
  dsimp only
  have h : Calm s (s.setLine l ⟨(s.line l).sampled, (s.line l).sampled, .stable⟩) := .of_eq rfl rfl rfl rfl rfl
  split
  · exact (Ledger.calm h).trans (ledger_accept _ _ _)
  · exact .calm h

/-! ### The command path, signals, faults -/

theorem calm_updProc (s : State) (f : Processor → Processor) : Calm s (s.updProc f) := .of_eq rfl rfl rfl rfl rfl
theorem calm_updTarget (s : State) (t : TargetId) (f : Target → Target) : Calm s (s.updTarget t f) := .of_eq rfl rfl rfl rfl rfl
theorem calm_issueRequest (s : State) (w : Issuer) (a : Addr) (k : Access) : Calm s (s.issueRequest w a k) :=
  .of_eq rfl rfl rfl rfl rfl
theorem calm_endRequest (s : State) (i : Nat) : Calm s (s.endRequest i) := .of_eq rfl rfl rfl rfl rfl
theorem calm_pushCompletion (s : State) (c : Completion) : Calm s (s.pushCompletion c) :=
  .of_eq (by simp) (by simp) (by simp) (by simp) (by simp)
theorem calm_issueSignal (s : State) (t : TargetId) : Calm s (s.issueSignal t) :=
  .of_eq (by simp) (by simp) (by simp) (by simp) (by simp)
theorem calm_signalRules (s : State) (t : TargetId) : Calm s (s.signalRules t) :=
  .of_eq (by simp) (by simp) (by simp) (by simp) (by simp)
theorem calm_rearmCheck (s : State) (t : TargetId) : Calm s (s.rearmCheck t) :=
  .of_eq (by simp) (by simp) (by simp) (by simp) (by simp)
theorem calm_rejudgeSpace (s : State) (t : TargetId) : Calm s (s.rejudgeSpace t) :=
  .of_eq (by simp) (by simp) (by simp) (by simp) (by simp)
theorem calm_rejudgeDetachPending (s : State) (t : TargetId) : Calm s (s.rejudgeDetachPending t) :=
  .of_eq (by simp) (by simp) (by simp) (by simp) (by simp)
theorem calm_sweepDeferredFor (s : State) (gone : Option TargetId) (h : Nat) (met : List TargetId) :
    Calm s (s.sweepDeferredFor gone h met) :=
  .of_eq (by simp) (by simp) (by simp) (by simp) (by simp)
theorem calm_enterTable (s : State) (c : CmdId) (w : DeferKind) : Calm s (s.enterTable c w) :=
  .of_eq (by simp) (by simp) (by simp) (by simp) (by simp)
theorem calm_handDone (s : State) : Calm s s.handDone := calm_updProc _ _
theorem calm_holdInHand (s : State) (h : Hand) (c : Option WaitCause) : Calm s (s.holdInHand h c) := calm_updProc _ _

theorem ledger_halt (s : State) (r : HaltReason) : Ledger s (s.halt r) := by
  unfold halt
  split
  · exact .refl s
  all_goals exact (Ledger.calm (calm_updProc s _)).trans (ledger_accept _ _ _)

theorem ledger_complete (s : State) (c : CmdId) (st : Status) (r : BitVec 64) : Ledger s (s.complete c st r) := by
  unfold complete
  dsimp only
  split
  · exact (Ledger.calm (calm_pushCompletion _ _)).trans (ledger_accept _ _ _)
  · exact .calm (calm_pushCompletion _ _)

theorem ledger_faultTarget (s : State) (t : TargetId) (r : FaultReason) : Ledger s (s.faultTarget t r) := by
  unfold faultTarget
  split
  · exact ((Ledger.calm (calm_updTarget _ _ _)).trans (ledger_accept _ _ _)).andCalm (calm_rejudgeHolds _)
  · exact .refl s

/-! ### Discards and settling -/

theorem ledger_discardRecord (s : State) (n : SourceId) : Ledger s (s.discardRecord n) := by
  unfold discardRecord
  split
  · exact .discard n (by simpa using calm_listLost (s.clearRecord n) (s.route n).bundle)
  · exact .refl s

/-- What `settleByList` does to the ledger. -/
theorem calm_settleByList (s : State) (b : BundleId) :
    Calm (s.updRun b fun x => { x with state := if s.pendingList b = [] then .idle else .ready }) (s.settleByList b) := by
  unfold settleByList
  exact calm_setState s b _

/-! ### Release and detach -/

theorem ledger_releaseHold (s : State) (b : BundleId) (h : (s.run b).state = .held) : Ledger s (s.releaseHold b) := by
  unfold releaseHold
  dsimp only
  generalize hu : (s.updRun b fun x => { x with holdTimer := .stopped, reminderDue := false, remindersPosted := 0 }) = u
  have h1 : Calm s u := hu ▸ Calm.updRun rfl rfl fun k => ⟨fun e => absurd h e, k.2⟩
  have hs : (u.run b).state = .held := by rw [h1.state]; exact h
  generalize hv : u.reassert (s.run b).heldSet = v
  have h2 : Ledger u v := hv ▸ ledger_reassert u _
  have hr : v.run b = u.run b := by
    rw [← hv]; exact (woken_reassert u _).run (by rw [hs]; decide)
  refine ((Ledger.calm h1).trans h2).trans (.release b (by rw [hr]; exact hs) ?_)
  refine Calm.trans ?_ (calm_settleByList _ b)
  have hp : (v.updRun b fun x => { x with heldSet := [] }).pendingList b = v.pendingList b := rfl
  rw [hp]
  have hz : (v.run b).remindersPosted = 0 ∧ (v.run b).reminderDue = false ∧ (v.run b).holdTimer = .stopped := by
    rw [hr, ← hu]; simp
  refine ⟨rfl, rfl, rfl, rfl, fun c => ?_, fun c => ?_, fun c => ?_⟩ <;> by_cases hc : c = b <;> simp [unhold, updRun_run, hc, hz]

theorem releaseHold_run_ne (s : State) {b c : BundleId} (hc : c ≠ b) (h : (s.run c).state = .held) :
    ((s.releaseHold b).run c).state = .held := by
  unfold releaseHold
  dsimp only
  generalize hu : (s.updRun b fun x => { x with holdTimer := .stopped, reminderDue := false, remindersPosted := 0 }) = u
  have h1 : (u.run c).state = .held := by rw [← hu, updRun_run_ne s _ hc]; exact h
  have h2 : (u.reassert (s.run b).heldSet).run c = u.run c := (woken_reassert u _).run (by rw [h1]; decide)
  simp [settleByList, setState, updRun_run, hc, h2, h1]

theorem ledger_releaseAll (s : State) (l : List BundleId) (hn : l.Nodup) (h : ∀ b ∈ l, (s.run b).state = .held) :
    Ledger s (l.foldl releaseHold s) := by
  induction l generalizing s with
  | nil => exact .refl s
  | cons b l ih =>
    rw [List.nodup_cons] at hn
    refine (ledger_releaseHold s b (h b (by simp))).trans (ih _ hn.2 fun c hc => ?_)
    exact releaseHold_run_ne s (fun e => hn.1 (e ▸ hc)) (h c (by simp [hc]))

theorem ledger_release (s : State) (b : BundleId) (h : (s.run b).state = .held) : Ledger s (s.release b) :=
  (ledger_releaseHold s b h).andCalm (calm_sweepDeferred _)

theorem heldBundles_nodup (s : State) (t : TargetId) : (s.heldBundles t).Nodup := (List.nodup_finRange 48).filter _

theorem heldBundles_held (s : State) (t : TargetId) {b : BundleId} (h : b ∈ s.heldBundles t) : (s.run b).state = .held := by
  simp [heldBundles] at h; exact h.2.2

theorem ledger_performDetach (s : State) (t : TargetId) : Ledger s (s.performDetach t) := by
  unfold performDetach
  refine ((Ledger.calm (calm_updTarget s t _)).trans (ledger_releaseAll _ _ (heldBundles_nodup s t) fun b hb => ?_)).andCalm
    (calm_updTarget _ _ _)
  simpa using heldBundles_held s t hb

theorem ledger_detachNow (s : State) (t : TargetId) (met : List TargetId) : Ledger s (s.detachNow t met) :=
  (ledger_performDetach s t).andCalm (calm_sweepDeferredFor _ _ _ _)

theorem ledger_tryDetach (s : State) (t : TargetId) : Ledger s (s.tryDetach t) := by
  unfold tryDetach
  split
  · exact ledger_detachNow s t _
  · exact .refl s

theorem ledger_endWaits (s : State) (t : TargetId) (met : List TargetId) : Ledger s (s.endWaits t met) := by
  unfold endWaits
  split
  · exact ledger_detachNow s t met
  · exact .calm (calm_sweepDeferredFor _ _ _ _)

theorem ledger_judgeDeferrable (s : State) (c : CmdId) (w : DeferKind) : Ledger s (s.judgeDeferrable c w) := by
  unfold judgeDeferrable
  split
  · split
    · exact ledger_complete _ _ _ _
    · split
      · exact .calm (calm_enterTable _ _ _)
      · exact ((ledger_performDetach s _).andCalm (calm_sweepDeferredFor _ _ _ _)).trans (ledger_complete _ _ _ _)
  all_goals
    split
    · exact ledger_complete _ _ _ _
    · exact .calm (calm_enterTable _ _ _)

theorem ledger_settleHand (s : State) : Ledger s s.settleHand := by
  unfold settleHand
  split
  · split
    · exact ((Ledger.calm (calm_updProc _ _)).trans (ledger_judgeDeferrable _ _ _)).andCalm (calm_handDone _)
    · exact .refl s
  · exact .refl s

end Sys2Proof.Machine
end

