-- ==== Sys2Proof/Laws/Works.lean ====
section
/-! SUPPORT. Sys2Proof/Laws/Works.lean: what one step of the block can do to the ledger: the moves of Ledger.lean, and the few
operations that touch the assembly in flight. `works_step` is the one theorem that an invariant of the ledger needs. -/
namespace Sys2Proof.Machine

open State

/-- What the block does to the ledger, one thing after another. -/
inductive Works : State → State → Prop
  | ledger {s t : State} : Ledger s t → Works s t
  | trans {s t u : State} : Works s t → Works t u → Works s u
  | void (s : State) (n : SourceId) : Works s (s.voidCopy n)
  | resetTally (s : State) (n : SourceId) : Works s (s.resetTally n)
  | startEvent (s : State) (b : BundleId) (t : TargetId) : s.assembly = none → (s.run b).state = .ready →
      Works s (s.startEvent b t)
  | startReminder (s : State) (b : BundleId) (t : TargetId) : s.assembly = none → (s.run b).state = .held →
      Works s (s.startReminder b t)
  | write (s : State) : Works s s.issueWrite
  | position (s : State) (a : Assembly) (p : WritePosition) : s.assembly = some a →
      Works s (s.setAssembly (some { a with position := p }))
  | commit (s : State) (a : Assembly) : s.assembly = some a →
      Works s (((a.copies.foldl reportCopy (s.setAssembly none)).commitTarget a).commitBundle a)
  | abort (s : State) (a : Assembly) : s.assembly = some a →
      Works s (((a.copies.foldl returnCopy (s.setAssembly none)).abortBundle a).faultTarget a.target .ringWrite)
  | reset (s : State) : Works s s.resetBlocks

namespace Works

theorem refl (s : State) : Works s s := .ledger (.refl s)
theorem calm {s t : State} (h : Calm s t) : Works s t := .ledger (.calm h)
theorem thenCalm {s t u : State} (h : Works s t) (k : Calm t u) : Works s u := h.trans (.calm k)
theorem thenLedger {s t u : State} (h : Works s t) (k : Ledger t u) : Works s u := h.trans (.ledger k)

end Works

/-! ### Pieces of the assembler's work -/

/-- A take leaves everything of a source but its record, which goes. -/
theorem takeRecords_frame (l : List SourceId) (u : State) : (takeRecords l u).2.bundleRun = u.bundleRun ∧ (∀ m, (takeRecords l u).2.run m = u.run m) ∧ (∀ m, (takeRecords l u).2.route m = u.route m) ∧ (∀ m, (takeRecords l u).2.record m = if m ∈ l then none else u.record m) := by
  induction l generalizing u with
  | nil => simp [takeRecords]
  | cons a l ih =>
    simp only [takeRecords]
    split
    · refine ⟨by simp [ih], by simp [ih], by simp [ih], fun m => ?_⟩
      simp only [(ih _).2.2.2, setRecord_record, List.mem_cons]
      by_cases e : m = a <;> by_cases e2 : m ∈ l <;> simp [e, e2]
    · rename_i h
      refine ⟨by simp [ih], by simp [ih], by simp [ih], fun m => ?_⟩
      simp only [takeCopy, Option.map_eq_none_iff] at h
      simp only [(ih _).2.2.2, List.mem_cons]
      by_cases e : m = a
      · subst e; simp [h]
      · simp [e]

theorem ledger_ringPressure (s : State) (a : Assembly) : Ledger s (s.ringPressure a) := by
  unfold ringPressure
  split
  · exact ledger_accept _ _ _
  · exact .refl s

theorem ledger_commitTarget (s : State) (a : Assembly) : Ledger s (s.commitTarget a) :=
  ((Ledger.calm ((calm_updTarget s _ _).trans (calm_signalRules _ _))).trans (ledger_ringPressure _ _)).andCalm (calm_rejudgeSpace _ _)

/-! ### Routes and accounts -/

theorem ledger_recheckReported (s : State) (a : Assembly) : Ledger s (s.recheckReported a) := by
  unfold recheckReported
  split
  · exact ledger_reassert _ _
  · exact .refl s

theorem ledger_writeRoute (s : State) (n : SourceId) (e : RouteEntry) : Ledger s (s.writeRoute n e) := by
  refine .route n e ?_
  unfold writeRoute moveRoute
  dsimp only
  split
  · exact ((calm_listGained _ _).sleep _).trans (calm_listLost _ _)
  · exact .refl _

theorem ledger_changeFilter (s : State) (n : SourceId) (old e : RouteEntry) : Ledger s (s.changeFilter n old e) := by
  unfold changeFilter
  split
  · split
    · exact .refl s
    · split
      · exact .refl s
      · split
        · exact ledger_qualify _ _
        · exact .calm (.of_eq rfl rfl rfl rfl rfl)
  · exact .refl s

theorem ledger_reroute (s : State) (n : SourceId) (e : RouteEntry) : Ledger s (s.reroute n e) := by
  unfold reroute
  dsimp only
  have h := (ledger_writeRoute s n e).trans (ledger_changeFilter (s.writeRoute n e) n (s.route n) e)
  split
  · exact h.trans (ledger_levelCheck _ _)
  · exact h

theorem works_discardSource (s : State) (n : SourceId) : Works s (s.discardSource n) :=
  (Works.ledger (ledger_discardRecord s n)).trans (.void _ n)

theorem works_routeSetCommand (s : State) (c : CmdId) (n : Half) (e : Option RouteEntry) (d : Bool) :
    Works s (s.routeSetCommand c n e d) := by
  unfold routeSetCommand
  split
  · split
    · exact ((works_discardSource s _).thenLedger (ledger_reroute _ _ _)).thenLedger (ledger_complete _ _ _ _)
    · exact .ledger ((ledger_reroute _ _ _).trans (ledger_complete _ _ _ _))
  · exact .ledger (ledger_complete _ _ _ _)

theorem calm_issueReply (s : State) (c : CmdId) (r : BitVec 64) (a : Addr) (rec : List Byte) : Calm s (s.issueReply c r a rec) :=
  .of_eq (by simp) (by simp) (by simp) (by simp) (by simp)

theorem works_sourceClearCommand (s : State) (c : CmdId) (n : Half) : Works s (s.sourceClearCommand c n) := by
  unfold sourceClearCommand
  split
  · exact (works_discardSource s _).thenLedger (ledger_complete _ _ _ _)
  · exact .ledger (ledger_complete _ _ _ _)

theorem works_tallyResetCommand (s : State) (c : CmdId) (n : Half) : Works s (s.tallyResetCommand c n) := by
  have h : ∀ (l : List SourceId) (u : State), Works u (l.foldl resetTally u) := by
    intro l
    induction l with
    | nil => exact Works.refl
    | cons m l ih => exact fun u => (Works.resetTally u m).trans (ih _)
  unfold tallyResetCommand
  split
  · exact (h _ s).thenLedger (ledger_complete _ _ _ _)
  · split
    · exact (Works.resetTally s _).thenLedger (ledger_complete _ _ _ _)
    · exact .ledger (ledger_complete _ _ _ _)

/-! ### Bundles -/

theorem ledger_moveByEnabled (s : State) (b : BundleId) (e : Bool) : Ledger s (s.moveByEnabled b e) := by
  unfold moveByEnabled
  split
  case h_1 h =>
    refine .settle b (if s.pendingList b = [] then .idle else .ready) (by simp [h]) (by simp [h]) ?_ ?_ ?_ ?_
      (calm_settleByList s b)
    all_goals split <;> simp_all
  case h_2 h => exact .settle b .off (by simp [h]) (by simp [h]) nofun nofun nofun nofun (calm_setState s b .off)
  case h_3 h => exact .settle b .off (by simp [h]) (by simp [h]) nofun nofun nofun nofun (calm_setState s b .off)
  case h_4 => exact .refl s

theorem ledger_writeBundleSet (s : State) (b : BundleId) (c : BundleConfig) : Ledger s (s.writeBundleSet b c) := by
  unfold writeBundleSet
  dsimp only
  have h : Ledger s (((s.setConfig b c).moveByEnabled b c.enabled).rejudgeHold b) :=
    ((Ledger.calm (Calm.of_eq rfl rfl rfl rfl rfl : Calm s (s.setConfig b c))).trans (ledger_moveByEnabled _ _ _)).andCalm
      (calm_rejudgeHold _ _)
  refine Ledger.andCalm ?_ (calm_rejudgeSpaceOf _ b)
  split
  · exact h.andCalm (calm_rejudgeSpace _ _)
  · exact h

theorem ledger_applyBundleSet (s : State) (b : BundleId) (c : BundleConfig) : Ledger s (s.applyBundleSet b c) :=
  (ledger_writeBundleSet s b c).andCalm (calm_sweepDeferred _)

theorem ledger_completeBundleSet (s : State) (k : CmdId) (b : BundleId) (c : BundleConfig) :
    Ledger s (s.completeBundleSet k b c) := by
  unfold completeBundleSet
  exact (ledger_applyBundleSet s b c).trans (ledger_complete _ _ _ _)

theorem ledger_judgeBundleSet (s : State) (k : CmdId) (b : BundleId) (c : BundleConfig) :
    Ledger s (s.judgeBundleSet k b c) := by
  unfold judgeBundleSet
  split
  · exact ledger_completeBundleSet _ _ _ _
  · exact ledger_completeBundleSet _ _ _ _
  · exact ledger_completeBundleSet _ _ _ _
  · split
    · exact ledger_complete _ _ _ _
    · split
      · exact .calm (calm_holdInHand _ _ _)
      · exact ledger_completeBundleSet _ _ _ _
  · split
    · exact ledger_complete _ _ _ _
    · exact ledger_completeBundleSet _ _ _ _

theorem ledger_settleBundleSet (s : State) (k : CmdId) (b : BundleId) (c : BundleConfig) (t : TargetId) (met : List TargetId) :
    Ledger s (s.settleBundleSet k b c t met) := by
  unfold settleBundleSet
  dsimp only
  split
  · exact (((ledger_writeBundleSet s b c).trans (ledger_endWaits _ _ _)).trans (ledger_complete _ _ _ _)).andCalm (calm_handDone _)
  · exact ((ledger_endWaits s _ _).trans (ledger_complete _ _ _ _)).andCalm (calm_handDone _)

theorem works_flush (s : State) (b : BundleId) : Works s (s.flush b) := by
  have h : ∀ (l : List Copy) (u : State), Works u (l.foldl (fun u c => u.voidCopy c.source) u) := by
    intro l
    induction l with
    | nil => exact Works.refl
    | cons c l ih => exact fun u => (Works.void u c.source).trans (ih _)
  exact (Works.ledger (.flush b (calm_listLost _ _))).trans (h _ _)

theorem ledger_ackCommand (s : State) (c : CmdId) (b : Byte) (k : Half) : Ledger s (s.ackCommand c b k) := by
  unfold ackCommand staleAck
  split
  · exact ledger_complete _ _ _ _
  · split
    · exact (ledger_accept _ _ _).trans (ledger_complete _ _ _ _)
    · split
      · exact (ledger_accept _ _ _).trans (ledger_complete _ _ _ _)
      · rename_i h _
        exact (ledger_release _ _ (not_not.1 h)).trans (ledger_complete _ _ _ _)

theorem ledger_holdExpires (s : State) (b : BundleId) : Ledger s (s.holdExpires b) := by
  unfold holdExpires
  split
  · rename_i h
    split
    · exact .calm ((Calm.updRun rfl rfl fun k => ⟨fun e => absurd h.1 e, k.2⟩).trans (calm_rejudgeSpaceOf _ _))
    · exact ((ledger_release s b h.1).trans (ledger_accept _ _ _)).trans (ledger_settleHand _)
  · exact .refl s

theorem calm_countStale (s : State) : Calm s s.countStale := .of_eq rfl rfl rfl rfl rfl

theorem ledger_ackPortWrite (s : State) (b : Byte) (k : Half) : Ledger s (s.ackPortWrite b k) := by
  unfold ackPortWrite staleAck
  split
  · exact .calm (calm_countStale s)
  · split
    · rename_i h
      exact (ledger_release _ _ h.1).trans (ledger_settleHand _)
    · exact (ledger_accept _ _ _).andCalm (calm_countStale _)

/-! ### Targets -/

theorem ledger_moveTarget (s : State) (t : TargetId) (st : TargetState) : Ledger s (s.moveTarget t st) :=
  .calm (((calm_updTarget s t _).trans (calm_rejudgeHolds _)).trans (calm_rejudgeSpace _ _))

theorem ledger_attachAnswer (s : State) (v : ReadAnswer) : Ledger s (s.attachAnswer v) := by
  unfold attachAnswer
  split
  · split
    · split
      · exact ((Ledger.calm (calm_updTarget s _ _)).trans (ledger_complete _ _ _ _)).andCalm (calm_handDone _)
      · exact (ledger_complete _ _ _ _).andCalm (calm_handDone _)
    · exact (ledger_complete _ _ _ _).andCalm (calm_handDone _)
  · exact .refl s

theorem calm_consumedMoved (s : State) (t : TargetId) (v : Word) : Calm s (s.consumedMoved t v) :=
  .of_eq (by simp) (by simp) (by simp) (by simp) (by simp)

theorem ledger_consumerAnswer (s : State) (t : TargetId) (v : ReadAnswer) : Ledger s (s.consumerAnswer t v) := by
  unfold consumerAnswer
  split
  · split
    · split
      · exact .calm (calm_consumedMoved _ _ _)
      · split
        · exact .calm (calm_consumedMoved _ _ _)
        · exact ledger_faultTarget _ _ _
    · exact ledger_faultTarget _ _ _
  · exact .refl s

theorem ledger_afterTargetAnswer (s : State) (t : TargetId) : Ledger s (s.afterTargetAnswer t) :=
  (ledger_tryDetach s t).trans (ledger_settleHand _)

theorem ledger_signalAnswer (s : State) (t : TargetId) (v : WriteAnswer) : Ledger s (s.signalAnswer t v) := by
  unfold signalAnswer
  split
  · exact .refl s
  · exact ledger_faultTarget _ _ _

theorem calm_issueConsumerRead (s : State) (t : TargetId) : Calm s (s.issueConsumerRead t) :=
  .of_eq (by simp) (by simp) (by simp) (by simp) (by simp)

theorem ledger_pollExpires (s : State) (t : TargetId) : Ledger s (s.pollExpires t) := by
  unfold pollExpires
  dsimp only
  split
  · split
    · exact .calm ((calm_updTarget s t _).trans (calm_issueConsumerRead _ _))
    · exact .calm (calm_updTarget s t _)
  · exact .refl s

theorem ledger_holdoffExpires (s : State) (t : TargetId) : Ledger s (s.holdoffExpires t) := by
  unfold holdoffExpires
  dsimp only
  split
  · split
    · exact .calm ((calm_updTarget s t _).trans (calm_issueSignal _ _))
    · exact .calm (calm_updTarget s t _)
  · exact .refl s

theorem ledger_drainExpires (s : State) (e : Fin 4) : Ledger s (s.drainExpires e) := by
  unfold drainExpires
  split
  · exact (Ledger.calm (((calm_updProc s _).trans (calm_pushCompletion _ _)).trans (calm_sweepDeferred _))).trans
      (ledger_settleHand _)
  · exact .refl s

theorem calm_refreshTarget (s : State) (t : TargetId) : Calm s (s.refreshTarget t) :=
  .of_eq (by simp) (by simp) (by simp) (by simp) (by simp)

theorem calm_rearmTarget (s : State) (f : Bool) (t : TargetId) : Calm s (s.rearmTarget f t) :=
  .of_eq (by simp) (by simp) (by simp) (by simp) (by simp)

theorem calm_attentionRefresh (s : State) (c : BitVec 4) : Calm s (s.attentionRefresh c) := by
  unfold attentionRefresh
  generalize attentionTargets c = l
  induction l generalizing s with
  | nil => exact .refl s
  | cons t l ih => exact (calm_refreshTarget s t).trans (ih _)

theorem calm_attentionRearm (s : State) (c : BitVec 4) (f : Bool) : Calm s (s.attentionRearm c f) := by
  unfold attentionRearm
  generalize attentionTargets c = l
  induction l generalizing s with
  | nil => exact .refl s
  | cons t l ih => exact (calm_rearmTarget s f t).trans (ih _)

/-! ### The command path -/

theorem calm_issueCplRead (s : State) : Calm s s.issueCplRead := .of_eq (by simp) (by simp) (by simp) (by simp) (by simp)
theorem calm_takeCommand (s : State) : Calm s s.takeCommand := .of_eq (by simp) (by simp) (by simp) (by simp) (by simp)
theorem calm_setProcState (s : State) (st : ProcState) : Calm s (s.setProcState st) := calm_updProc _ _
theorem calm_issueCompletion (s : State) : Calm s s.issueCompletion := .of_eq (by simp) (by simp) (by simp) (by simp) (by simp)
theorem calm_issueCplSignal (s : State) (c : Completion) : Calm s (s.issueCplSignal c) :=
  .of_eq (by simp) (by simp) (by simp) (by simp) (by simp)
theorem calm_cplConsumedMoved (s : State) (v : Word) : Calm s (s.cplConsumedMoved v) :=
  .of_eq (by simp) (by simp) (by simp) (by simp) (by simp)

theorem ledger_replyAnswer (s : State) (v : WriteAnswer) : Ledger s (s.replyAnswer v) := by
  unfold replyAnswer
  split
  · split <;> exact (ledger_complete _ _ _ _).andCalm (calm_handDone _)
  · exact .refl s

theorem ledger_commandRefused (s : State) : Ledger s s.commandRefused := by
  unfold commandRefused
  split
  · exact ledger_halt _ _
  · exact .refl s

theorem ledger_completionAnswer (s : State) (v : WriteAnswer) : Ledger s (s.completionAnswer v) := by
  unfold completionAnswer
  split
  · exact .refl s
  · split
    · exact .calm (((calm_updProc s _).trans (calm_issueCplSignal _ _)).trans (calm_issueCompletion _))
    · exact ((Ledger.calm (calm_updProc s _)).trans (ledger_halt _ _)).andCalm (calm_issueCompletion _)

theorem ledger_cplSignalAnswer (s : State) (v : WriteAnswer) : Ledger s (s.cplSignalAnswer v) := by
  unfold cplSignalAnswer
  split
  · exact .refl s
  · exact ledger_halt _ _

theorem ledger_cplConsumerAnswer (s : State) (v : ReadAnswer) : Ledger s (s.cplConsumerAnswer v) := by
  unfold cplConsumerAnswer
  (repeat' split)
  all_goals first
    | exact .refl s
    | exact .calm (calm_cplConsumedMoved _ _)
    | exact ledger_halt _ _

theorem ledger_issueSetupRead (s : State) : Ledger s s.issueSetupRead := by
  unfold issueSetupRead
  split
  · exact .calm (calm_issueRequest _ _ _ _)
  · exact ledger_halt _ _

theorem ledger_loadSetup (s : State) (b : SetupBlock) : Ledger s (s.loadSetup b) := by
  unfold loadSetup
  dsimp only
  split
  · split
    · exact .calm (calm_updProc s _)
    all_goals exact .calm ((calm_updProc s _).trans (calm_setProcState _ _))
  · exact (Ledger.calm (calm_updProc s _)).trans (ledger_halt _ _)

theorem ledger_setupAnswer (s : State) (v : SetupAnswer) : Ledger s (s.setupAnswer v) := by
  unfold setupAnswer
  split
  · split
    · exact ledger_loadSetup _ _
    · exact ledger_halt _ _
  · exact ledger_halt _ _

theorem ledger_setEnable (s : State) (v : Bool) : Ledger s (s.setEnable v) := by
  have h : Calm s (s.storeEnable v) := .of_eq rfl rfl rfl rfl rfl
  unfold setEnable
  dsimp only
  (repeat' split)
  all_goals first
    | exact .refl s
    | exact .calm h
    | exact .calm (h.trans (calm_setProcState _ _))
    | exact (Ledger.calm h).trans (ledger_issueSetupRead _)

theorem ledger_restart (s : State) : Ledger s s.restart := by
  have h : ∀ (l : List TargetId) (u : State), Calm u (l.foldl (fun v t => v.rejudgeDetachPending t) u) := by
    intro l
    induction l with
    | nil => exact Calm.refl
    | cons t l ih => exact fun u => (calm_rejudgeDetachPending u t).trans (ih _)
  exact .calm ((calm_updProc s _).trans (h _ _))

theorem ledger_restartDrained (s : State) : Ledger s s.restartDrained := by
  unfold restartDrained
  split
  · exact (Ledger.calm (calm_updProc s _)).trans (ledger_issueSetupRead _)
  · exact .refl s

theorem calm_producerPassed (s : State) : Calm s s.producerPassed := by
  unfold producerPassed
  dsimp only
  split
  · split
    · exact (calm_issueCplRead s).trans (calm_setProcState _ _)
    · exact calm_issueCplRead s
  · exact .refl s

theorem ledger_producerWrite (s : State) (v : Word) : Ledger s (s.producerWrite v) := by
  unfold producerWrite
  dsimp only
  have h : Calm s (s.updProc fun p => { p with producer := v }) := calm_updProc s _
  split
  · exact .calm h
  · exact .calm h
  · split
    · exact (Ledger.calm h).trans (ledger_halt _ _)
    · split
      · exact .calm h
      · exact .calm (h.trans (calm_producerPassed _))

theorem ledger_refreshCompletions (s : State) : Ledger s s.refreshCompletions := by
  unfold refreshCompletions
  split
  · exact .refl s
  all_goals exact .calm (calm_issueCplRead s)

theorem ledger_abortCommand (s : State) (c : CmdId) (k : Half) : Ledger s (s.abortCommand c k) := by
  unfold abortCommand abortDeferred
  split
  · refine Ledger.trans (.calm (Calm.trans (Calm.trans (t := _) ?_ (calm_pushCompletion _ _)) (calm_sweepDeferred _)))
      (ledger_complete _ _ _ _)
    split
    · exact (calm_updProc s _).trans (calm_rejudgeDetachPending _ _)
    all_goals exact calm_updProc s _
  · exact ledger_complete _ _ _ _

/-! ### Registers -/

theorem ledger_attentionWrite (s : State) (v : Word) : Ledger s (s.attentionWrite v) := by
  have h : ∀ u, Calm s u → Ledger s (if v.getLsbD 10 then u.refreshCompletions else u) := by
    intro u h
    split
    · exact (Ledger.calm h).trans (ledger_refreshCompletions _)
    · exact .calm h
  unfold attentionWrite
  refine h _ ?_
  split
  · exact calm_attentionRearm _ _ _
  · split
    · exact calm_attentionRefresh _ _
    · exact .refl s

theorem ledger_controlWrite (s : State) (v : Word) : Ledger s (s.controlWrite v) := by
  have h : ∀ u, Calm s u → Ledger s (if v.getLsbD 2 then (u.setEnable (v.getLsbD 0)).restart else u.setEnable (v.getLsbD 0)) := by
    intro u h
    split
    · exact ((Ledger.calm h).trans (ledger_setEnable _ _)).trans (ledger_restart _)
    · exact (Ledger.calm h).trans (ledger_setEnable _ _)
  unfold controlWrite
  split
  · exact .calm (.of_eq rfl rfl rfl rfl rfl)
  · refine h _ ?_
    split
    · exact .of_eq rfl rfl rfl rfl rfl
    · exact .refl s

theorem ledger_windowWrite (s : State) (o n : Nat) (v : Word) : Ledger s (s.windowWrite o n v) := by
  unfold windowWrite
  (repeat' split)
  all_goals first
    | exact .refl s
    | exact ledger_controlWrite _ _
    | exact ledger_producerWrite _ _
    | exact ledger_attentionWrite _ _
    | exact ledger_ackPortWrite _ _ _
    | exact .calm (.of_eq rfl rfl rfl rfl rfl)

/-! ### The assembler -/

theorem works_eventStart (s : State) : Works s s.eventStart := by
  unfold eventStart
  split
  · rename_i b h
    split
    · split
      · rename_i hr
        exact .startEvent s b _ (by unfold chosen at h; split at h <;> simp_all) hr
      · exact .refl s
    · exact .refl s
  · exact .refl s

theorem works_reminderStart (s : State) : Works s s.reminderStart := by
  unfold reminderStart
  split
  · rename_i b h
    split
    · split
      · rename_i hr
        exact .startReminder s b _ (by unfold chosen at h; split at h <;> simp_all) hr
      · exact .refl s
    · exact .refl s
  · exact .refl s

theorem works_entryDone (s : State) : Works s s.entryDone := by
  unfold entryDone
  split
  · exact .refl s
  · rename_i a h
    split
    · exact (Works.position s a _ h).trans (.write _)
    · exact .refl s

theorem ledger_afterAssembly (s : State) (a : Assembly) (met : List TargetId) : Ledger s (s.afterAssembly a met) := by
  unfold afterAssembly
  split
  · split
    · exact ledger_endWaits s _ _
    · exact ledger_settleBundleSet s _ _ _ _ _
  · exact (ledger_endWaits s _ _).trans (ledger_settleHand _)

theorem works_commitAssembly (s : State) : Works s s.commitAssembly := by
  unfold commitAssembly
  split
  · exact .refl s
  · rename_i a h
    exact (Works.commit s a h).thenLedger (ledger_afterAssembly _ _ _)

theorem works_abortAssembly (s : State) : Works s s.abortAssembly := by
  unfold abortAssembly
  split
  · exact .refl s
  · rename_i a h
    exact (Works.abort s a h).thenLedger (ledger_afterAssembly _ _ _)

/-! ### Answers and steps -/

theorem works_answer {s : State} {i : Nat} {p : Issuer → Bool} {f : Issuer → State → State}
    (h : ∀ w u, p w = true → Works u (f w u)) : Works s (s.answer i p f) := by
  have e : Works s (s.endRequest i) := .calm (calm_endRequest s i)
  unfold answer
  split
  · split
    · rename_i hw
      split
      · exact e
      · exact e.trans (h _ _ hw)
    · exact .refl s
  · exact .refl s

theorem works_commandAnswer {s : State} {r : SlotRead} {f : State → State} (h : ∀ u, Works u (f u)) :
    Works s (s.commandAnswer r f) := by
  refine works_answer fun w u _ => ?_
  split
  · exact (Works.calm (calm_updProc u _)).trans (h _)
  · exact .refl u

theorem works_live {s : State} {f : State → State} (h : ∀ u, Works u (f u)) : Works s (live f s) := by
  unfold live
  split
  · exact .refl s
  · exact h s

theorem works_timedOut (s : State) (w : Issuer) : Works s (s.timedOut w) := by
  unfold timedOut
  split
  · exact works_abortAssembly s
  · exact .ledger ((ledger_consumerAnswer _ _ _).trans (ledger_afterTargetAnswer _ _))
  · exact .ledger ((ledger_signalAnswer _ _ _).trans (ledger_afterTargetAnswer _ _))
  · exact .ledger (ledger_commandRefused _)
  · exact .ledger (ledger_replyAnswer _ _)
  · exact .ledger (ledger_attachAnswer _ _)
  · exact .ledger (ledger_completionAnswer _ _)
  · exact .ledger (ledger_cplSignalAnswer _ _)
  · exact .ledger (ledger_cplConsumerAnswer _ _)
  · exact .ledger (ledger_setupAnswer _ _)

theorem calm_tickTimers (s : State) : Calm s s.tickTimers :=
  ⟨rfl, rfl, rfl, rfl, fun b => by simp [State.tickTimers, State.run], fun b => by simp [State.tickTimers, State.run],
    fun b k => by
      have e : (s.tickTimers).run b = { s.run b with holdTimer := (s.run b).holdTimer.tick } := by simp [State.tickTimers, State.run]
      rw [e]
      exact ⟨fun h => by simp [(k.1 h).1, (k.1 h).2.1, (k.1 h).2.2, HoldTimer.tick], k.2⟩⟩

theorem works_elapse (s : State) : Works s s.elapse := by
  have h : Calm s (live tickTimers s) := by
    unfold live
    split
    · exact .refl s
    · exact calm_tickTimers s
  exact .calm (h.trans (.of_eq rfl rfl rfl rfl rfl))

theorem works_lineMoved (s : State) (l : LineId) : Works s (s.lineMoved l) := by
  have hl : ∀ x, Calm s (s.setLine l x) := fun _ => .of_eq rfl rfl rfl rfl rfl
  unfold lineMoved
  dsimp only
  split
  · split
    · exact .refl s
    · split
      · exact .ledger (ledger_qualify _ _)
      · exact .calm (hl _)
  · split
    · exact .ledger ((Ledger.calm (hl _)).trans (ledger_accept _ _ _))
    · exact .calm (hl _)

theorem works_qualificationExpires (s : State) (l : LineId) : Works s (s.qualificationExpires l) := by
  unfold qualificationExpires
  split
  · exact .ledger (ledger_qualify _ _)
  · exact .refl s

theorem ledger_raiseCommand (s : State) (c : CmdId) (n : Half) (k : Byte) (d : Option Half) :
    Ledger s (s.raiseCommand c n k d) := by
  unfold raiseCommand
  split
  · exact ledger_complete _ _ _ _
  · split
    · exact ledger_complete _ _ _ _
    · split
      · exact (ledger_acceptMany _ _ _ _).trans (ledger_complete _ _ _ _)
      · exact ledger_complete _ _ _ _

theorem ledger_timeSetCommand (s : State) (c : CmdId) (v : BitVec 64) : Ledger s (s.timeSetCommand c v) := by
  unfold timeSetCommand
  split
  · exact ledger_complete _ _ _ _
  · have h : Calm s (s.setTimebase (v.setWidth 48)) := .of_eq rfl rfl rfl rfl rfl
    exact ((Ledger.calm h).trans (ledger_accept _ _ _)).trans (ledger_complete _ _ _ _)

theorem ledger_moveCommand (s : State) (c : CmdId) (t : Byte) (x y : TargetState) : Ledger s (s.moveCommand c t x y) := by
  unfold moveCommand
  split
  · exact ledger_complete _ _ _ _
  · split
    · exact (ledger_moveTarget _ _ _).trans (ledger_complete _ _ _ _)
    · exact ledger_complete _ _ _ _

/-- A command read's answer: the command is executed by moves of the ledger. -/
theorem works_command {s : State} {r : SlotRead} {f : State → State} (h : ∀ u, Ledger u (f u)) :
    Works s (s.commandAnswer r f) := works_commandAnswer fun u => .ledger (h u)

/-- Every row of the table does to the ledger what the moves allow, and nothing else. -/
theorem works_exec (c : Instr) (s t : State) (h : exec c s = .next t) : Works s t := by
  cases c <;>
  simp only [exec, execSampledLevelChange, execQualificationExpiry, execTimebaseWrap, execNop, execBadKind,
    execRaise, execTimeSet, execTimeRead, execRouteSet, execRouteRead, execSourceClear, execTallyReset,
    execBundleSet, execBundleRead, execBundleFlush, execAck, execTargetAttach, execTargetDetach, execTargetQuiesce,
    execTargetResume, execTargetRead, execDrain, execFence, execAbort, execCommandTake, execCommandReadRefused,
    execReplyWriteAnswer, execTargetAttachReadAnswer, execDrainTimerExpiry, execCompletionWriteAnswer,
    execCompletionSignalAnswer, execCompletionConsumerReadAnswer, execSetupReadAnswer, execEnable, execDeviceReset,
    execCmdRestart, execRestartDrainComplete, execClearCounts, execCmdProducer, execAttentionRefresh,
    execAttentionRearm, execCplRefresh, execAckPort, execRegisterWrite, execLinkLoss, execPowerOn, execResetEnd,
    execDrainedAnswerDiscard, execHostRequestTimeout, execLateAnswerDiscard, execEventAssemblyStart,
    execReminderAssemblyStart, execFirstWriteIssue, execEntryWriteDone, execCommit, execAssemblyAbort,
    execHoldTimerExpiry, execConsumerWordReadAnswer, execPollTimerExpiry, execHoldoffTimerExpiry,
    execSignalWriteAnswer, Host.Outcome.next.injEq] at h <;>
  subst h
  case sampledLevelChange l =>
    refine Works.trans (.calm (Calm.of_eq rfl rfl rfl rfl rfl : Calm s (s.setLine l _))) (works_live fun u => works_lineMoved u l)
  case qualificationExpiry l => exact works_live fun u => works_qualificationExpires u l
  case timebaseWrap => split; exacts [works_elapse s, .refl s]
  case nop => exact works_command fun u => ledger_complete _ _ _ _
  case badKind => exact works_command fun u => ledger_complete _ _ _ _
  case raise => exact works_command fun u => ledger_raiseCommand _ _ _ _ _
  case timeSet => exact works_command fun u => ledger_timeSetCommand _ _ _
  case timeRead => exact works_command fun u => ledger_complete _ _ _ _
  case routeSet => exact works_commandAnswer fun u => works_routeSetCommand _ _ _ _ _
  case routeRead =>
    refine works_command fun u => ?_
    unfold routeReadCommand
    (repeat' split)
    all_goals first
      | exact .calm (calm_issueReply _ _ _ _ _)
      | exact ledger_complete _ _ _ _
  case sourceClear => exact works_commandAnswer fun u => works_sourceClearCommand _ _ _
  case tallyReset => exact works_commandAnswer fun u => works_tallyResetCommand _ _ _
  case bundleSet =>
    refine works_command fun u => ?_
    unfold bundleSetCommand
    split
    · exact ledger_judgeBundleSet _ _ _ _
    · exact ledger_complete _ _ _ _
  case bundleRead =>
    refine works_command fun u => ?_
    unfold bundleReadCommand
    (repeat' split)
    all_goals first
      | exact .calm (calm_issueReply _ _ _ _ _)
      | exact ledger_complete _ _ _ _
  case bundleFlush =>
    refine works_commandAnswer fun u => ?_
    unfold bundleFlushCommand
    split
    · exact (works_flush _ _).thenLedger (ledger_complete _ _ _ _)
    · exact .ledger (ledger_complete _ _ _ _)
  case ack => exact works_command fun u => ledger_ackCommand _ _ _ _
  case targetAttach =>
    refine works_command fun u => ?_
    unfold attachCommand
    (repeat' split)
    all_goals first
      | exact ledger_complete _ _ _ _
      | exact .calm ((calm_holdInHand u _ _).trans (calm_issueRequest _ _ _ _))
  case targetDetach =>
    refine works_command fun u => ?_
    unfold detachCommand
    split
    · exact ledger_judgeDeferrable _ _ _
    · exact ledger_complete _ _ _ _
  case targetQuiesce => exact works_command fun u => ledger_moveCommand _ _ _ _ _
  case targetResume => exact works_command fun u => ledger_moveCommand _ _ _ _ _
  case targetRead =>
    refine works_command fun u => ?_
    unfold targetReadCommand
    (repeat' split)
    all_goals first
      | exact .calm (calm_issueReply _ _ _ _ _)
      | exact ledger_complete _ _ _ _
  case drain =>
    refine works_command fun u => ?_
    unfold drainCommand
    split
    · exact ledger_judgeDeferrable _ _ _
    · exact ledger_complete _ _ _ _
  case fence => exact works_command fun u => ledger_judgeDeferrable _ _ _
  case abort => exact works_command fun u => ledger_abortCommand _ _ _
  case commandTake => exact works_live fun u => .calm (calm_takeCommand u)
  case commandReadRefused => exact works_answer fun _ u _ => .ledger (ledger_commandRefused u)
  case replyWriteAnswer => exact works_answer fun _ u _ => .ledger (ledger_replyAnswer u _)
  case targetAttachReadAnswer => exact works_answer fun _ u _ => .ledger (ledger_attachAnswer u _)
  case drainTimerExpiry => exact works_live fun u => .ledger (ledger_drainExpires u _)
  case completionWriteAnswer => exact works_answer fun _ u _ => .ledger (ledger_completionAnswer u _)
  case completionSignalAnswer => exact works_answer fun _ u _ => .ledger (ledger_cplSignalAnswer u _)
  case completionConsumerReadAnswer => exact works_answer fun _ u _ => .ledger (ledger_cplConsumerAnswer u _)
  case setupReadAnswer => exact works_answer fun _ u _ => .ledger (ledger_setupAnswer u _)
  case enable => exact works_live fun u => .ledger (ledger_setEnable u _)
  case deviceReset => exact .calm (.of_eq rfl rfl rfl rfl rfl)
  case cmdRestart => exact works_live fun u => .ledger (ledger_restart u)
  case restartDrainComplete => exact works_live fun u => .ledger (ledger_restartDrained u)
  case clearCounts => exact works_live fun u => .calm (.of_eq rfl rfl rfl rfl rfl)
  case cmdProducer => exact works_live fun u => .ledger (ledger_producerWrite u _)
  case attentionRefresh => exact works_live fun u => .calm (calm_attentionRefresh u _)
  case attentionRearm => exact works_live fun u => .calm (calm_attentionRearm u _ _)
  case cplRefresh => exact works_live fun u => .ledger (ledger_refreshCompletions u)
  case ackPort => exact works_live fun u => .ledger (ledger_ackPortWrite u _ _)
  case registerWrite => exact works_live fun u => .ledger (ledger_windowWrite u _ _ _)
  case linkLoss => exact .calm (.of_eq rfl rfl rfl rfl rfl)
  case powerOn => exact (Works.reset s).thenCalm (.of_eq rfl rfl rfl rfl rfl)
  case resetEnd =>
    unfold resetEnds
    split
    · exact .reset s
    · exact .refl s
  case drainedAnswerDiscard =>
    split
    · exact .calm (calm_endRequest _ _)
    · exact .refl s
  case hostRequestTimeout =>
    split
    · exact works_answer fun w u _ => works_timedOut u w
    · exact .refl s
  case lateAnswerDiscard => exact .refl s
  case eventAssemblyStart => exact works_live works_eventStart
  case reminderAssemblyStart => exact works_live works_reminderStart
  case firstWriteIssue =>
    refine works_live fun u => ?_
    split
    · exact .refl u
    · exact .write u
  case entryWriteDone =>
    split
    · exact .refl s
    · exact works_answer fun _ u _ => works_entryDone u
  case commit =>
    split
    · exact works_answer fun _ u _ => works_commitAssembly u
    · exact .refl s
  case assemblyAbort => exact works_answer fun _ u _ => works_abortAssembly u
  case holdTimerExpiry => exact works_live fun u => .ledger (ledger_holdExpires u _)
  case consumerWordReadAnswer =>
    refine works_answer fun w u _ => ?_
    unfold consumerHandler
    split
    · exact .ledger ((ledger_consumerAnswer _ _ _).trans (ledger_afterTargetAnswer _ _))
    · exact .refl u
  case pollTimerExpiry => exact works_live fun u => .ledger (ledger_pollExpires u _)
  case holdoffTimerExpiry => exact works_live fun u => .ledger (ledger_holdoffExpires u _)
  case signalWriteAnswer =>
    refine works_answer fun w u _ => ?_
    unfold signalHandler
    split
    · exact .ledger ((ledger_signalAnswer _ _ _).trans (ledger_afterTargetAnswer _ _))
    · exact .refl u

/-- What one step of the block can do to the ledger. -/
theorem works_step (s t : State) (h : step s = .next t) : Works s t := by
  unfold step at h
  split at h
  · cases h
    unfold idle
    split
    · exact works_elapse s
    · exact .calm (.of_eq rfl rfl rfl rfl rfl)
  · rename_i c rest hp
    exact Works.trans (t := { s with pending := rest }) (.calm (.of_eq rfl rfl rfl rfl rfl)) (works_exec _ _ _ h)

end Sys2Proof.Machine
end

