-- ==== Sys2Proof/Laws/Balance.lean ====
section
/-! SUPPORT. Sys2Proof/Laws/Balance.lean: every move keeps the balance of every source (R46). -/
namespace Sys2Proof.Machine

open State

/-- What the balance of a source lacks; 0 in a balanced state. -/
def State.net (s : State) (n : SourceId) : Word := (s.tally n).net - BitVec.ofNat 32 (s.pendingCount n) - BitVec.ofNat 32 (s.inFlightCount n)

theorem balanced_iff (s : State) : Balanced s ↔ ∀ n, s.net n = 0 := by
  unfold Balanced State.net Tallies.net
  refine forall_congr' fun n => ?_
  constructor
  · intro h; rw [h]; ring
  · intro h
    rw [← sub_eq_zero, ← h]; ring

/-- The balance of a source without its copy in flight. -/
def State.net0 (s : State) (n : SourceId) : Word := (s.tally n).net - BitVec.ofNat 32 (s.pendingCount n)

theorem net_eq (s : State) (n) : s.net n = s.net0 n - BitVec.ofNat 32 (s.inFlightCount n) := rfl

theorem Calm.net0 {s t : State} (h : Calm s t) (n) : t.net0 n = s.net0 n := by
  simp [State.net0, pendingCount, h.record, h.tally]

/-- A discard moves a count from the record to cleared. -/
theorem net0_clearRecord (s : State) (n m) : (s.clearRecord n).net0 m = s.net0 m := by
  unfold clearRecord
  split
  · rename_i r h
    by_cases e : m = n
    · subst e
      simp [State.net0, pendingCount, h, Tallies.net]; ring
    · simp [State.net0, pendingCount, updTally_tally, setRecord_record, e]
  · rfl

/-- No move of the ledger unbalances a source. -/
theorem Ledger.net0 {s t : State} (h : Ledger s t) (m) : t.net0 m = s.net0 m := by
  induction h with
  | calm h => exact h.net0 m
  | trans _ _ a b => exact b.trans a
  | @create s t n r f h1 h2 _ _ h =>
    rw [h.net0]
    by_cases e : m = n
    · subst e
      simp [State.net0, pendingCount, h1, h2]
    · simp [State.net0, pendingCount, updTally_tally, setRecord_record, e]
  | @grow s t n r r' f h1 h2 _ _ h =>
    rw [h.net0]
    by_cases e : m = n
    · subst e
      simp [State.net0, pendingCount, h1, h2]
    · simp [State.net0, pendingCount, updTally_tally, setRecord_record, e]
  | @discard s t n h => 
    rw [h.net0, ← net0_clearRecord s n]; simp [State.net0, pendingCount]
  | @flush s t b h =>
    rw [h.net0]
    have H : ∀ (l : List SourceId) (u : State), (l.foldl (fun u n => u.clearRecord n) u).net0 m = u.net0 m := by
      intro l; induction l with
      | nil => simp
      | cons a l ih => intro u; simp [ih, net0_clearRecord]
    rw [← H (s.pendingList b) s]; simp [State.net0, pendingCount]
  | route n e h => rw [h.net0]; unfold moveRoute; split <;> simp [State.net0, pendingCount]
  | settle b st _ _ _ _ _ _ h => rw [h.net0]; simp [State.net0, pendingCount]
  | release b _ h => rw [h.net0]; simp [State.net0, pendingCount, unhold]

/-- Making a source's copy VOID takes its count out of flight. -/
theorem inFlightCountIn_void (n m : SourceId) (cs : List Copy) :
    BitVec.ofNat 32 (inFlightCountIn m (voidIn n cs)) = BitVec.ofNat 32 (inFlightCountIn m cs) - (if m = n then BitVec.ofNat 32 (voidableIn n cs) else 0) := by
  induction cs with
  | nil => simp [voidIn, inFlightCountIn, voidableIn]
  | cons c cs ih =>
    simp only [voidIn, List.map_cons] at ih ⊢
    by_cases e : m = n
    · subst e
      simp only [inFlightCountIn, voidableIn, if_pos, BitVec.ofNat_add, ih]
      by_cases h1 : c.source = m
      · by_cases h2 : c.state = .unwritten
        · simp [h1, h2, Copy.inFlightCount]
        · simp [h1, h2, Copy.inFlightCount]; ring
      · simp [h1]
    · simp only [inFlightCountIn, if_neg e, BitVec.ofNat_add, ih]
      by_cases h1 : c.source = n ∧ c.state = .unwritten
      · simp [h1, Ne.symm e]
      · simp [h1]

theorem copies_eq (s : State) : s.inFlightCount = fun n => match s.assembly with | some a => inFlightCountIn n a.copies | none => 0 := by
  funext n
  simp only [inFlightCount, copies]; split <;> simp_all [inFlightCountIn]

theorem net_voidCopy (s : State) (n m) : (s.voidCopy n).net m = s.net m := by
  simp only [State.net, copies_eq, voidCopy]
  cases ha : s.assembly with
  | none =>
    by_cases e : m = n
    · subst e; simp [pendingCount, copies, ha, voidableIn]
    · simp [pendingCount, updTally_tally, e]
  | some a =>
    by_cases e : m = n
    · subst e; simp [pendingCount, copies, ha, inFlightCountIn_void, Tallies.net]; ring
    · simp [pendingCount, updTally_tally, e, inFlightCountIn_void]

/-- Whatever the block does, a balanced state stays balanced (R46). -/
theorem Works.balanced {s t : State} (h : Works s t) : Balanced s → Balanced t := by
  simp only [balanced_iff]
  induction h with
  | ledger h => intro k m; rw [net_eq, h.net0]; simp only [copies_eq, h.assembly]; simpa [net_eq, copies_eq] using k m
  | trans _ _ a b => exact b ∘ a
  | void s n => intro k m; rw [net_voidCopy]; exact k m
  | resetTally s n => 
    intro k m
    have hf : ∀ (cs : List Copy), inFlightCountIn m (cs.map fun c => if c.source = n then { c with lossFlag := false, takenLoss := 0#32 } else c) = inFlightCountIn m cs := by
      intro cs; induction cs with
      | nil => rfl
      | cons c cs ih => simp only [List.map_cons, inFlightCountIn, ih]; split <;> split <;> simp_all [Copy.inFlightCount]
    have h2 : (s.resetTally n).inFlightCount m = s.inFlightCount m := by
      simp only [copies_eq, State.resetTally]
      cases s.assembly <;> simp [hf]
    rw [State.net, h2]
    by_cases e : m = n
    · subst e
      simp [State.resetTally, Tallies.net, pendingCount, BitVec.ofNat_add]
    · have := k m; simp [State.resetTally, updTally_tally, e, pendingCount] at this ⊢; exact this
  | startEvent s b t ha hr =>
    intro k m
    have := k m
    rw [net_eq] at this ⊢
    have h0 : s.inFlightCount m = 0 := by simp [copies_eq, ha]
    have H : ∀ (l : List SourceId) (u : State), (takeRecords l u).2.net0 m = u.net0 m + BitVec.ofNat 32 (inFlightCountIn m (takeRecords l u).1) := by
      intro l; induction l with
      | nil => simp [takeRecords, inFlightCountIn]
      | cons a l ih =>
        intro u
        simp only [takeRecords]
        split
        · rename_i c hc
          simp only [takeCopy, Option.map_eq_some_iff] at hc
          obtain ⟨r, hr, rfl⟩ := hc
          simp only [ih, inFlightCountIn, BitVec.ofNat_add]
          by_cases e : m = a
          · subst e; simp [State.net0, pendingCount, hr, Copy.inFlightCount]; ring
          · simp [State.net0, pendingCount, setRecord_record, e, Ne.symm e]
        · exact ih u
    rw [h0] at this
    have e1 : (s.startEvent b t).net0 m = (takeRecords ((s.pendingList b).take (s.assemblySize b t)) (s.takeTurn b)).2.net0 m := by
      simp [State.startEvent, State.net0, pendingCount]
    have e2 : (s.startEvent b t).inFlightCount m = inFlightCountIn m (takeRecords ((s.pendingList b).take (s.assemblySize b t)) (s.takeTurn b)).1 := by
      simp [State.startEvent, copies_eq]
    rw [e1, e2, H]
    have e3 : (s.takeTurn b).net0 m = s.net0 m := by simp [State.net0, pendingCount]
    rw [e3]; simp at this ⊢; exact this
  | startReminder s b t ha hr =>
    intro k m
    have := k m
    simp [State.startReminder, State.net, pendingCount, copies_eq, ha, inFlightCountIn] at this ⊢; exact this
  | write s =>
    intro k m
    have h1 : s.issueWrite.net0 m = s.net0 m := by simp [State.net0, pendingCount]
    have h2 : s.issueWrite.inFlightCount m = s.inFlightCount m := by
      unfold issueWrite
      cases ha : s.assembly with
      | none => rfl
      | some a =>
        simp only
        split
        · rename_i k hk
          split
          · rename_i c hc
            simp only [copies_eq, ha, issueRequest_assembly, setAssembly_assembly]
            generalize k - 1 = j at hc
            generalize a.copies = cs at hc
            induction cs generalizing j with
            | nil => simp at hc
            | cons d cs ih =>
              cases j with
              | zero => 
                simp at hc; subst hc
                simp only [List.set_cons_zero, inFlightCountIn, Copy.issued]
                split <;> simp_all [Copy.inFlightCount]
              | succ j =>
                simp at hc
                simp only [List.set_cons_succ, inFlightCountIn, ih j hc]
          · rfl
        · simp [copies_eq, ha]
    rw [net_eq, h1, h2]; exact k m
  | position s a p ha =>
    intro k m
    have := k m
    simp [State.net, pendingCount, copies_eq, ha] at this ⊢; exact this
  | commit s a ha =>
    intro k m
    have hrep : ∀ (cs : List Copy) (u : State), (cs.foldl reportCopy u).net0 m = u.net0 m - BitVec.ofNat 32 (inFlightCountIn m cs) := by
      intro cs; induction cs with
      | nil => simp [inFlightCountIn]
      | cons c cs ih =>
        intro u
        simp only [List.foldl_cons, ih, inFlightCountIn, BitVec.ofNat_add]
        have : (u.reportCopy c).net0 m = u.net0 m - BitVec.ofNat 32 (if c.source = m then c.inFlightCount else 0) := by
          unfold reportCopy Copy.inFlightCount
          split
          · simp
          · by_cases e : c.source = m
            · subst e; simp [State.net0, pendingCount, Tallies.net]; ring
            · simp [State.net0, pendingCount, updTally_tally, e, Ne.symm e]
        rw [this]; ring
    have hl : ∀ u : State, (((u.commitTarget a).commitBundle a).net0 m) = u.net0 m := by
      intro u
      have h1 := (ledger_commitTarget u a).net0 m
      rw [← h1]
      generalize u.commitTarget a = v
      unfold commitBundle
      rw [(ledger_recheckReported _ a).net0]
      simp [State.net0, pendingCount]
    have h0 : (((a.copies.foldl reportCopy (s.setAssembly none)).commitTarget a).commitBundle a).inFlightCount m = 0 := by
      simp [copies_eq]
    have e : (s.setAssembly none).net0 m = s.net0 m := rfl
    rw [net_eq, h0, hl, hrep, e]
    have := k m
    simpa [net_eq, copies_eq, ha] using this
  | abort s a ha =>
    intro k m
    have hret : ∀ (cs : List Copy) (u : State), (cs.foldl returnCopy u).net0 m = u.net0 m - BitVec.ofNat 32 (inFlightCountIn m cs) := by
      intro cs; induction cs with
      | nil => simp [inFlightCountIn]
      | cons c cs ih =>
        intro u
        simp only [List.foldl_cons, ih, inFlightCountIn, BitVec.ofNat_add]
        have : (u.returnCopy c).net0 m = u.net0 m - BitVec.ofNat 32 (if c.source = m then c.inFlightCount else 0) := by
          unfold returnCopy Copy.inFlightCount
          split
          · simp
          · rename_i hv
            split
            · rename_i hr
              rw [Calm.net0 (calm_listGained _ _)]
              by_cases e : c.source = m
              · subst e; simp [State.net0, pendingCount, hr]
              · simp [State.net0, pendingCount, setRecord_record, e, Ne.symm e]
            · rename_i r hr
              dsimp only
              have key : ((u.setRecord c.source (some ⟨min (c.count + r.count) Config.countLimit, c.firstTime, r.lastTime, c.interval, r.detail⟩)).updTally c.source
                fun y => { y with lost := y.lost + BitVec.ofNat 32 (c.count + r.count - Config.countLimit) }).net0 m = u.net0 m - BitVec.ofNat 32 (if c.source = m then c.count else 0) := by
                by_cases e : c.source = m
                · subst e
                  have : c.count + r.count = min (c.count + r.count) Config.countLimit + (c.count + r.count - Config.countLimit) := by omega
                  have h2 := congrArg (BitVec.ofNat 32) this
                  rw [BitVec.ofNat_add, BitVec.ofNat_add] at h2
                  simp [State.net0, pendingCount, hr, Tallies.net]
                  linear_combination h2
                · simp [State.net0, pendingCount, setRecord_record, updTally_tally, e, Ne.symm e]
              split
              · exact key
              · rw [(ledger_acceptMany _ _ _ _).net0]; exact key
        rw [this]; ring
    have e : (s.setAssembly none).net0 m = s.net0 m := rfl
    have hb : ∀ u : State, (u.abortBundle a).net0 m = u.net0 m := by intro u; simp [State.net0, pendingCount]
    have hi : (((a.copies.foldl returnCopy (s.setAssembly none)).abortBundle a).faultTarget a.target .ringWrite).inFlightCount m = 0 := by
      simp [copies_eq]
    rw [net_eq, hi, (ledger_faultTarget _ _ _).net0, hb, hret, e]
    have := k m
    simpa [net_eq, copies_eq, ha] using this
  | reset s =>
    intro k m
    have h1 : s.resetBlocks.tally m = Tallies.reset := by simp [resetBlocks, State.tally, State.reset]
    have h2 : s.resetBlocks.pendingCount m = 0 := by simp [resetBlocks, State.pendingCount, State.record, State.reset]
    have h3 : s.resetBlocks.inFlightCount m = 0 := by simp [copies_eq]; rfl
    rw [State.net, h1, h2, h3]; rfl

end Sys2Proof.Machine
end

