-- ==== Sys2Proof/Laws/Commands.lean ====
section
/-! SUPPORT. Sys2Proof/Laws/Commands.lean: for each command and answer, one lemma with every field of State that it leaves alone. -/
namespace Sys2Proof.Machine.State

@[simp] theorem raiseCommand_kept (s : State) (c : CmdId) (n : Half) (k : Byte) (d : Option Half) :
    (s.raiseCommand c n k d).pending = s.pending ∧ (s.raiseCommand c n k d).timebase = s.timebase ∧
    (s.raiseCommand c n k d).lines = s.lines ∧ (s.raiseCommand c n k d).routes = s.routes ∧
    (s.raiseCommand c n k d).bundleConfig = s.bundleConfig ∧ (s.raiseCommand c n k d).assembly = s.assembly ∧
    (s.raiseCommand c n k d).roundRobin = s.roundRobin ∧ (s.raiseCommand c n k d).enable = s.enable ∧
    (s.raiseCommand c n k d).setupAddrLo = s.setupAddrLo ∧ (s.raiseCommand c n k d).setupAddrHi = s.setupAddrHi ∧
    (s.raiseCommand c n k d).staleCount = s.staleCount ∧ (s.raiseCommand c n k d).resetting = s.resetting ∧
    (s.raiseCommand c n k d).choices = s.choices := by
  unfold raiseCommand; (repeat' split) <;> simp

@[simp] theorem timeSetCommand_kept (s : State) (c : CmdId) (v : BitVec 64) :
    (s.timeSetCommand c v).pending = s.pending ∧ (s.timeSetCommand c v).lines = s.lines ∧
    (s.timeSetCommand c v).routes = s.routes ∧ (s.timeSetCommand c v).bundleConfig = s.bundleConfig ∧
    (s.timeSetCommand c v).assembly = s.assembly ∧ (s.timeSetCommand c v).roundRobin = s.roundRobin ∧
    (s.timeSetCommand c v).enable = s.enable ∧ (s.timeSetCommand c v).setupAddrLo = s.setupAddrLo ∧
    (s.timeSetCommand c v).setupAddrHi = s.setupAddrHi ∧ (s.timeSetCommand c v).staleCount = s.staleCount ∧
    (s.timeSetCommand c v).resetting = s.resetting ∧ (s.timeSetCommand c v).choices = s.choices := by
  unfold timeSetCommand; (repeat' split) <;> simp

@[simp] theorem routeSetCommand_kept (s : State) (c : CmdId) (n : Half) (e : Option RouteEntry) (d : Bool) :
    (s.routeSetCommand c n e d).pending = s.pending ∧ (s.routeSetCommand c n e d).timebase = s.timebase ∧
    (s.routeSetCommand c n e d).bundleConfig = s.bundleConfig ∧ (s.routeSetCommand c n e d).roundRobin = s.roundRobin ∧
    (s.routeSetCommand c n e d).enable = s.enable ∧ (s.routeSetCommand c n e d).setupAddrLo = s.setupAddrLo ∧
    (s.routeSetCommand c n e d).setupAddrHi = s.setupAddrHi ∧ (s.routeSetCommand c n e d).staleCount = s.staleCount ∧
    (s.routeSetCommand c n e d).resetting = s.resetting ∧ (s.routeSetCommand c n e d).choices = s.choices := by
  unfold routeSetCommand; (repeat' split) <;> simp

@[simp] theorem routeReadCommand_kept (s : State) (c : CmdId) (n : Half) (a : Addr) :
    (s.routeReadCommand c n a).pending = s.pending ∧ (s.routeReadCommand c n a).timebase = s.timebase ∧
    (s.routeReadCommand c n a).lines = s.lines ∧ (s.routeReadCommand c n a).routes = s.routes ∧
    (s.routeReadCommand c n a).bundleConfig = s.bundleConfig ∧ (s.routeReadCommand c n a).assembly = s.assembly ∧
    (s.routeReadCommand c n a).roundRobin = s.roundRobin ∧ (s.routeReadCommand c n a).enable = s.enable ∧
    (s.routeReadCommand c n a).setupAddrLo = s.setupAddrLo ∧ (s.routeReadCommand c n a).setupAddrHi = s.setupAddrHi ∧
    (s.routeReadCommand c n a).staleCount = s.staleCount ∧ (s.routeReadCommand c n a).resetting = s.resetting ∧
    (s.routeReadCommand c n a).choices = s.choices := by
  unfold routeReadCommand; (repeat' split) <;> simp

@[simp] theorem sourceClearCommand_kept (s : State) (c : CmdId) (n : Half) :
    (s.sourceClearCommand c n).pending = s.pending ∧ (s.sourceClearCommand c n).timebase = s.timebase ∧
    (s.sourceClearCommand c n).lines = s.lines ∧ (s.sourceClearCommand c n).routes = s.routes ∧
    (s.sourceClearCommand c n).bundleConfig = s.bundleConfig ∧ (s.sourceClearCommand c n).roundRobin = s.roundRobin ∧
    (s.sourceClearCommand c n).enable = s.enable ∧ (s.sourceClearCommand c n).setupAddrLo = s.setupAddrLo ∧
    (s.sourceClearCommand c n).setupAddrHi = s.setupAddrHi ∧ (s.sourceClearCommand c n).staleCount = s.staleCount ∧
    (s.sourceClearCommand c n).resetting = s.resetting ∧ (s.sourceClearCommand c n).choices = s.choices := by
  unfold sourceClearCommand; (repeat' split) <;> simp

@[simp] theorem resetTally_kept (s : State) (n : SourceId) :
    (s.resetTally n).pending = s.pending ∧ (s.resetTally n).timebase = s.timebase ∧ (s.resetTally n).lines = s.lines ∧
    (s.resetTally n).routes = s.routes ∧ (s.resetTally n).intervals = s.intervals ∧ (s.resetTally n).records = s.records ∧
    (s.resetTally n).bundleConfig = s.bundleConfig ∧ (s.resetTally n).bundleRun = s.bundleRun ∧
    (s.resetTally n).roundRobin = s.roundRobin ∧ (s.resetTally n).targets = s.targets ∧ (s.resetTally n).proc = s.proc ∧
    (s.resetTally n).enable = s.enable ∧ (s.resetTally n).setupAddrLo = s.setupAddrLo ∧
    (s.resetTally n).setupAddrHi = s.setupAddrHi ∧ (s.resetTally n).staleCount = s.staleCount ∧
    (s.resetTally n).resetting = s.resetting ∧ (s.resetTally n).requests = s.requests ∧
    (s.resetTally n).nextRequest = s.nextRequest ∧ (s.resetTally n).choices = s.choices := by
  simp [resetTally]

@[simp] theorem foldl_resetTally_kept (s : State) (l : List SourceId) :
    (l.foldl resetTally s).pending = s.pending ∧ (l.foldl resetTally s).timebase = s.timebase ∧
    (l.foldl resetTally s).lines = s.lines ∧ (l.foldl resetTally s).routes = s.routes ∧
    (l.foldl resetTally s).intervals = s.intervals ∧ (l.foldl resetTally s).records = s.records ∧
    (l.foldl resetTally s).bundleConfig = s.bundleConfig ∧ (l.foldl resetTally s).bundleRun = s.bundleRun ∧
    (l.foldl resetTally s).roundRobin = s.roundRobin ∧ (l.foldl resetTally s).targets = s.targets ∧
    (l.foldl resetTally s).proc = s.proc ∧ (l.foldl resetTally s).enable = s.enable ∧
    (l.foldl resetTally s).setupAddrLo = s.setupAddrLo ∧ (l.foldl resetTally s).setupAddrHi = s.setupAddrHi ∧
    (l.foldl resetTally s).staleCount = s.staleCount ∧ (l.foldl resetTally s).resetting = s.resetting ∧
    (l.foldl resetTally s).requests = s.requests ∧ (l.foldl resetTally s).nextRequest = s.nextRequest ∧
    (l.foldl resetTally s).choices = s.choices := by
  induction l generalizing s with
  | nil => simp
  | cons x l ih => simp [ih]

@[simp] theorem tallyResetCommand_kept (s : State) (c : CmdId) (n : Half) :
    (s.tallyResetCommand c n).pending = s.pending ∧ (s.tallyResetCommand c n).timebase = s.timebase ∧
    (s.tallyResetCommand c n).lines = s.lines ∧ (s.tallyResetCommand c n).routes = s.routes ∧
    (s.tallyResetCommand c n).bundleConfig = s.bundleConfig ∧ (s.tallyResetCommand c n).roundRobin = s.roundRobin ∧
    (s.tallyResetCommand c n).enable = s.enable ∧ (s.tallyResetCommand c n).setupAddrLo = s.setupAddrLo ∧
    (s.tallyResetCommand c n).setupAddrHi = s.setupAddrHi ∧ (s.tallyResetCommand c n).staleCount = s.staleCount ∧
    (s.tallyResetCommand c n).resetting = s.resetting ∧ (s.tallyResetCommand c n).choices = s.choices := by
  unfold tallyResetCommand; (repeat' split) <;> simp

@[simp] theorem bundleSetCommand_kept (s : State) (c : CmdId) (b : Byte) (x : Option BundleConfig) :
    (s.bundleSetCommand c b x).pending = s.pending ∧ (s.bundleSetCommand c b x).timebase = s.timebase ∧
    (s.bundleSetCommand c b x).lines = s.lines ∧ (s.bundleSetCommand c b x).routes = s.routes ∧
    (s.bundleSetCommand c b x).assembly = s.assembly ∧ (s.bundleSetCommand c b x).roundRobin = s.roundRobin ∧
    (s.bundleSetCommand c b x).enable = s.enable ∧ (s.bundleSetCommand c b x).setupAddrLo = s.setupAddrLo ∧
    (s.bundleSetCommand c b x).setupAddrHi = s.setupAddrHi ∧ (s.bundleSetCommand c b x).staleCount = s.staleCount ∧
    (s.bundleSetCommand c b x).resetting = s.resetting ∧ (s.bundleSetCommand c b x).choices = s.choices := by
  unfold bundleSetCommand; (repeat' split) <;> simp

@[simp] theorem bundleReadCommand_kept (s : State) (c : CmdId) (b : Byte) (k : Half) (a : Addr) :
    (s.bundleReadCommand c b k a).pending = s.pending ∧ (s.bundleReadCommand c b k a).timebase = s.timebase ∧
    (s.bundleReadCommand c b k a).lines = s.lines ∧ (s.bundleReadCommand c b k a).routes = s.routes ∧
    (s.bundleReadCommand c b k a).bundleConfig = s.bundleConfig ∧ (s.bundleReadCommand c b k a).assembly = s.assembly ∧
    (s.bundleReadCommand c b k a).roundRobin = s.roundRobin ∧ (s.bundleReadCommand c b k a).enable = s.enable ∧
    (s.bundleReadCommand c b k a).setupAddrLo = s.setupAddrLo ∧ (s.bundleReadCommand c b k a).setupAddrHi = s.setupAddrHi ∧
    (s.bundleReadCommand c b k a).staleCount = s.staleCount ∧ (s.bundleReadCommand c b k a).resetting = s.resetting ∧
    (s.bundleReadCommand c b k a).choices = s.choices := by
  unfold bundleReadCommand; (repeat' split) <;> simp

@[simp] theorem bundleFlushCommand_kept (s : State) (c : CmdId) (b : Byte) :
    (s.bundleFlushCommand c b).pending = s.pending ∧ (s.bundleFlushCommand c b).timebase = s.timebase ∧
    (s.bundleFlushCommand c b).lines = s.lines ∧ (s.bundleFlushCommand c b).routes = s.routes ∧
    (s.bundleFlushCommand c b).bundleConfig = s.bundleConfig ∧ (s.bundleFlushCommand c b).roundRobin = s.roundRobin ∧
    (s.bundleFlushCommand c b).enable = s.enable ∧ (s.bundleFlushCommand c b).setupAddrLo = s.setupAddrLo ∧
    (s.bundleFlushCommand c b).setupAddrHi = s.setupAddrHi ∧ (s.bundleFlushCommand c b).staleCount = s.staleCount ∧
    (s.bundleFlushCommand c b).resetting = s.resetting ∧ (s.bundleFlushCommand c b).choices = s.choices := by
  unfold bundleFlushCommand; (repeat' split) <;> simp

@[simp] theorem ackCommand_kept (s : State) (c : CmdId) (b : Byte) (k : Half) :
    (s.ackCommand c b k).pending = s.pending ∧ (s.ackCommand c b k).timebase = s.timebase ∧
    (s.ackCommand c b k).lines = s.lines ∧ (s.ackCommand c b k).routes = s.routes ∧
    (s.ackCommand c b k).bundleConfig = s.bundleConfig ∧ (s.ackCommand c b k).assembly = s.assembly ∧
    (s.ackCommand c b k).roundRobin = s.roundRobin ∧ (s.ackCommand c b k).enable = s.enable ∧
    (s.ackCommand c b k).setupAddrLo = s.setupAddrLo ∧ (s.ackCommand c b k).setupAddrHi = s.setupAddrHi ∧
    (s.ackCommand c b k).staleCount = s.staleCount ∧ (s.ackCommand c b k).resetting = s.resetting ∧
    (s.ackCommand c b k).choices = s.choices := by
  unfold ackCommand; (repeat' split) <;> simp

@[simp] theorem holdExpires_kept (s : State) (b : BundleId) :
    (s.holdExpires b).pending = s.pending ∧ (s.holdExpires b).timebase = s.timebase ∧ (s.holdExpires b).lines = s.lines ∧
    (s.holdExpires b).routes = s.routes ∧ (s.holdExpires b).bundleConfig = s.bundleConfig ∧
    (s.holdExpires b).assembly = s.assembly ∧ (s.holdExpires b).roundRobin = s.roundRobin ∧
    (s.holdExpires b).enable = s.enable ∧ (s.holdExpires b).setupAddrLo = s.setupAddrLo ∧
    (s.holdExpires b).setupAddrHi = s.setupAddrHi ∧ (s.holdExpires b).staleCount = s.staleCount ∧
    (s.holdExpires b).resetting = s.resetting ∧ (s.holdExpires b).choices = s.choices := by
  unfold holdExpires; (repeat' split) <;> simp

@[simp] theorem ackPortWrite_kept (s : State) (b : Byte) (k : Half) :
    (s.ackPortWrite b k).pending = s.pending ∧ (s.ackPortWrite b k).timebase = s.timebase ∧
    (s.ackPortWrite b k).lines = s.lines ∧ (s.ackPortWrite b k).routes = s.routes ∧
    (s.ackPortWrite b k).bundleConfig = s.bundleConfig ∧ (s.ackPortWrite b k).assembly = s.assembly ∧
    (s.ackPortWrite b k).roundRobin = s.roundRobin ∧ (s.ackPortWrite b k).enable = s.enable ∧
    (s.ackPortWrite b k).setupAddrLo = s.setupAddrLo ∧ (s.ackPortWrite b k).setupAddrHi = s.setupAddrHi ∧
    (s.ackPortWrite b k).resetting = s.resetting ∧ (s.ackPortWrite b k).choices = s.choices := by
  unfold ackPortWrite countStale; (repeat' split) <;> simp

@[simp] theorem attachCommand_kept (s : State) (c : CmdId) (p h : Half) (d : BitVec 64) (o v : Word) (a : Addr) :
    (s.attachCommand c p h d o v a).pending = s.pending ∧ (s.attachCommand c p h d o v a).timebase = s.timebase ∧
    (s.attachCommand c p h d o v a).lines = s.lines ∧ (s.attachCommand c p h d o v a).routes = s.routes ∧
    (s.attachCommand c p h d o v a).bundleConfig = s.bundleConfig ∧ (s.attachCommand c p h d o v a).assembly = s.assembly ∧
    (s.attachCommand c p h d o v a).roundRobin = s.roundRobin ∧ (s.attachCommand c p h d o v a).enable = s.enable ∧
    (s.attachCommand c p h d o v a).setupAddrLo = s.setupAddrLo ∧
    (s.attachCommand c p h d o v a).setupAddrHi = s.setupAddrHi ∧
    (s.attachCommand c p h d o v a).staleCount = s.staleCount ∧ (s.attachCommand c p h d o v a).resetting = s.resetting ∧
    (s.attachCommand c p h d o v a).choices = s.choices := by
  unfold attachCommand; (repeat' split) <;> simp

@[simp] theorem attachAnswer_kept (s : State) (v : ReadAnswer) :
    (s.attachAnswer v).pending = s.pending ∧ (s.attachAnswer v).timebase = s.timebase ∧ (s.attachAnswer v).lines = s.lines ∧
    (s.attachAnswer v).routes = s.routes ∧ (s.attachAnswer v).bundleConfig = s.bundleConfig ∧
    (s.attachAnswer v).assembly = s.assembly ∧ (s.attachAnswer v).roundRobin = s.roundRobin ∧
    (s.attachAnswer v).enable = s.enable ∧ (s.attachAnswer v).setupAddrLo = s.setupAddrLo ∧
    (s.attachAnswer v).setupAddrHi = s.setupAddrHi ∧ (s.attachAnswer v).staleCount = s.staleCount ∧
    (s.attachAnswer v).resetting = s.resetting ∧ (s.attachAnswer v).choices = s.choices := by
  unfold attachAnswer; (repeat' split) <;> simp

@[simp] theorem moveCommand_kept (s : State) (c : CmdId) (t : Byte) (x y : TargetState) :
    (s.moveCommand c t x y).pending = s.pending ∧ (s.moveCommand c t x y).timebase = s.timebase ∧
    (s.moveCommand c t x y).lines = s.lines ∧ (s.moveCommand c t x y).routes = s.routes ∧
    (s.moveCommand c t x y).bundleConfig = s.bundleConfig ∧ (s.moveCommand c t x y).assembly = s.assembly ∧
    (s.moveCommand c t x y).roundRobin = s.roundRobin ∧ (s.moveCommand c t x y).enable = s.enable ∧
    (s.moveCommand c t x y).setupAddrLo = s.setupAddrLo ∧ (s.moveCommand c t x y).setupAddrHi = s.setupAddrHi ∧
    (s.moveCommand c t x y).staleCount = s.staleCount ∧ (s.moveCommand c t x y).resetting = s.resetting ∧
    (s.moveCommand c t x y).choices = s.choices := by
  unfold moveCommand; (repeat' split) <;> simp

@[simp] theorem targetReadCommand_kept (s : State) (c : CmdId) (t : Byte) (a : Addr) :
    (s.targetReadCommand c t a).pending = s.pending ∧ (s.targetReadCommand c t a).timebase = s.timebase ∧
    (s.targetReadCommand c t a).lines = s.lines ∧ (s.targetReadCommand c t a).routes = s.routes ∧
    (s.targetReadCommand c t a).bundleConfig = s.bundleConfig ∧ (s.targetReadCommand c t a).assembly = s.assembly ∧
    (s.targetReadCommand c t a).roundRobin = s.roundRobin ∧ (s.targetReadCommand c t a).enable = s.enable ∧
    (s.targetReadCommand c t a).setupAddrLo = s.setupAddrLo ∧ (s.targetReadCommand c t a).setupAddrHi = s.setupAddrHi ∧
    (s.targetReadCommand c t a).staleCount = s.staleCount ∧ (s.targetReadCommand c t a).resetting = s.resetting ∧
    (s.targetReadCommand c t a).choices = s.choices := by
  unfold targetReadCommand; (repeat' split) <;> simp

@[simp] theorem detachCommand_kept (s : State) (c : CmdId) (t : Byte) :
    (s.detachCommand c t).pending = s.pending ∧ (s.detachCommand c t).timebase = s.timebase ∧
    (s.detachCommand c t).lines = s.lines ∧ (s.detachCommand c t).routes = s.routes ∧
    (s.detachCommand c t).bundleConfig = s.bundleConfig ∧ (s.detachCommand c t).assembly = s.assembly ∧
    (s.detachCommand c t).roundRobin = s.roundRobin ∧ (s.detachCommand c t).enable = s.enable ∧
    (s.detachCommand c t).setupAddrLo = s.setupAddrLo ∧ (s.detachCommand c t).setupAddrHi = s.setupAddrHi ∧
    (s.detachCommand c t).staleCount = s.staleCount ∧ (s.detachCommand c t).resetting = s.resetting ∧
    (s.detachCommand c t).choices = s.choices := by
  unfold detachCommand; (repeat' split) <;> simp

@[simp] theorem drainCommand_kept (s : State) (c : CmdId) (t : Byte) (k : Half) :
    (s.drainCommand c t k).pending = s.pending ∧ (s.drainCommand c t k).timebase = s.timebase ∧
    (s.drainCommand c t k).lines = s.lines ∧ (s.drainCommand c t k).routes = s.routes ∧
    (s.drainCommand c t k).bundleConfig = s.bundleConfig ∧ (s.drainCommand c t k).assembly = s.assembly ∧
    (s.drainCommand c t k).roundRobin = s.roundRobin ∧ (s.drainCommand c t k).enable = s.enable ∧
    (s.drainCommand c t k).setupAddrLo = s.setupAddrLo ∧ (s.drainCommand c t k).setupAddrHi = s.setupAddrHi ∧
    (s.drainCommand c t k).staleCount = s.staleCount ∧ (s.drainCommand c t k).resetting = s.resetting ∧
    (s.drainCommand c t k).choices = s.choices := by
  unfold drainCommand; (repeat' split) <;> simp

@[simp] theorem consumerHandler_kept (s : State) (v : ReadAnswer) (w : Issuer) :
    (consumerHandler v w s).pending = s.pending ∧ (consumerHandler v w s).timebase = s.timebase ∧
    (consumerHandler v w s).lines = s.lines ∧ (consumerHandler v w s).routes = s.routes ∧
    (consumerHandler v w s).bundleConfig = s.bundleConfig ∧ (consumerHandler v w s).assembly = s.assembly ∧
    (consumerHandler v w s).roundRobin = s.roundRobin ∧ (consumerHandler v w s).enable = s.enable ∧
    (consumerHandler v w s).setupAddrLo = s.setupAddrLo ∧ (consumerHandler v w s).setupAddrHi = s.setupAddrHi ∧
    (consumerHandler v w s).staleCount = s.staleCount ∧ (consumerHandler v w s).resetting = s.resetting ∧
    (consumerHandler v w s).choices = s.choices := by
  unfold consumerHandler; split <;> simp

@[simp] theorem signalHandler_kept (s : State) (v : WriteAnswer) (w : Issuer) :
    (signalHandler v w s).pending = s.pending ∧ (signalHandler v w s).timebase = s.timebase ∧
    (signalHandler v w s).lines = s.lines ∧ (signalHandler v w s).routes = s.routes ∧
    (signalHandler v w s).bundleConfig = s.bundleConfig ∧ (signalHandler v w s).assembly = s.assembly ∧
    (signalHandler v w s).roundRobin = s.roundRobin ∧ (signalHandler v w s).enable = s.enable ∧
    (signalHandler v w s).setupAddrLo = s.setupAddrLo ∧ (signalHandler v w s).setupAddrHi = s.setupAddrHi ∧
    (signalHandler v w s).staleCount = s.staleCount ∧ (signalHandler v w s).resetting = s.resetting ∧
    (signalHandler v w s).choices = s.choices := by
  unfold signalHandler; split <;> simp

@[simp] theorem pollExpires_kept (s : State) (t : TargetId) :
    (s.pollExpires t).pending = s.pending ∧ (s.pollExpires t).timebase = s.timebase ∧ (s.pollExpires t).lines = s.lines ∧
    (s.pollExpires t).routes = s.routes ∧ (s.pollExpires t).intervals = s.intervals ∧
    (s.pollExpires t).records = s.records ∧ (s.pollExpires t).tallies = s.tallies ∧
    (s.pollExpires t).bundleConfig = s.bundleConfig ∧ (s.pollExpires t).bundleRun = s.bundleRun ∧
    (s.pollExpires t).assembly = s.assembly ∧ (s.pollExpires t).roundRobin = s.roundRobin ∧
    (s.pollExpires t).proc = s.proc ∧ (s.pollExpires t).enable = s.enable ∧ (s.pollExpires t).setupAddrLo = s.setupAddrLo ∧
    (s.pollExpires t).setupAddrHi = s.setupAddrHi ∧ (s.pollExpires t).staleCount = s.staleCount ∧
    (s.pollExpires t).resetting = s.resetting ∧ (s.pollExpires t).choices = s.choices := by
  unfold pollExpires; dsimp only; (repeat' split) <;> simp

@[simp] theorem holdoffExpires_kept (s : State) (t : TargetId) :
    (s.holdoffExpires t).pending = s.pending ∧ (s.holdoffExpires t).timebase = s.timebase ∧
    (s.holdoffExpires t).lines = s.lines ∧ (s.holdoffExpires t).routes = s.routes ∧
    (s.holdoffExpires t).intervals = s.intervals ∧ (s.holdoffExpires t).records = s.records ∧
    (s.holdoffExpires t).tallies = s.tallies ∧ (s.holdoffExpires t).bundleConfig = s.bundleConfig ∧
    (s.holdoffExpires t).bundleRun = s.bundleRun ∧ (s.holdoffExpires t).assembly = s.assembly ∧
    (s.holdoffExpires t).roundRobin = s.roundRobin ∧ (s.holdoffExpires t).proc = s.proc ∧
    (s.holdoffExpires t).enable = s.enable ∧ (s.holdoffExpires t).setupAddrLo = s.setupAddrLo ∧
    (s.holdoffExpires t).setupAddrHi = s.setupAddrHi ∧ (s.holdoffExpires t).staleCount = s.staleCount ∧
    (s.holdoffExpires t).resetting = s.resetting ∧ (s.holdoffExpires t).choices = s.choices := by
  unfold holdoffExpires; dsimp only; (repeat' split) <;> simp

@[simp] theorem drainExpires_kept (s : State) (e : Fin 4) :
    (s.drainExpires e).pending = s.pending ∧ (s.drainExpires e).timebase = s.timebase ∧ (s.drainExpires e).lines = s.lines ∧
    (s.drainExpires e).routes = s.routes ∧ (s.drainExpires e).bundleConfig = s.bundleConfig ∧
    (s.drainExpires e).assembly = s.assembly ∧ (s.drainExpires e).roundRobin = s.roundRobin ∧
    (s.drainExpires e).enable = s.enable ∧ (s.drainExpires e).setupAddrLo = s.setupAddrLo ∧
    (s.drainExpires e).setupAddrHi = s.setupAddrHi ∧ (s.drainExpires e).staleCount = s.staleCount ∧
    (s.drainExpires e).resetting = s.resetting ∧ (s.drainExpires e).choices = s.choices := by
  unfold drainExpires; (repeat' split) <;> simp

@[simp] theorem foldl_refreshTarget_kept (s : State) (l : List TargetId) :
    (l.foldl refreshTarget s).pending = s.pending ∧ (l.foldl refreshTarget s).timebase = s.timebase ∧
    (l.foldl refreshTarget s).lines = s.lines ∧ (l.foldl refreshTarget s).routes = s.routes ∧
    (l.foldl refreshTarget s).intervals = s.intervals ∧ (l.foldl refreshTarget s).records = s.records ∧
    (l.foldl refreshTarget s).tallies = s.tallies ∧ (l.foldl refreshTarget s).bundleConfig = s.bundleConfig ∧
    (l.foldl refreshTarget s).bundleRun = s.bundleRun ∧ (l.foldl refreshTarget s).assembly = s.assembly ∧
    (l.foldl refreshTarget s).roundRobin = s.roundRobin ∧ (l.foldl refreshTarget s).targets = s.targets ∧
    (l.foldl refreshTarget s).proc = s.proc ∧ (l.foldl refreshTarget s).enable = s.enable ∧
    (l.foldl refreshTarget s).setupAddrLo = s.setupAddrLo ∧ (l.foldl refreshTarget s).setupAddrHi = s.setupAddrHi ∧
    (l.foldl refreshTarget s).staleCount = s.staleCount ∧ (l.foldl refreshTarget s).resetting = s.resetting ∧
    (l.foldl refreshTarget s).choices = s.choices := by
  induction l generalizing s with
  | nil => simp
  | cons x l ih => simp [ih]

@[simp] theorem foldl_rearmTarget_kept (s : State) (r : Bool) (l : List TargetId) :
    (l.foldl (rearmTarget r) s).pending = s.pending ∧ (l.foldl (rearmTarget r) s).timebase = s.timebase ∧
    (l.foldl (rearmTarget r) s).lines = s.lines ∧ (l.foldl (rearmTarget r) s).routes = s.routes ∧
    (l.foldl (rearmTarget r) s).intervals = s.intervals ∧ (l.foldl (rearmTarget r) s).records = s.records ∧
    (l.foldl (rearmTarget r) s).tallies = s.tallies ∧ (l.foldl (rearmTarget r) s).bundleConfig = s.bundleConfig ∧
    (l.foldl (rearmTarget r) s).bundleRun = s.bundleRun ∧ (l.foldl (rearmTarget r) s).assembly = s.assembly ∧
    (l.foldl (rearmTarget r) s).roundRobin = s.roundRobin ∧ (l.foldl (rearmTarget r) s).proc = s.proc ∧
    (l.foldl (rearmTarget r) s).enable = s.enable ∧ (l.foldl (rearmTarget r) s).setupAddrLo = s.setupAddrLo ∧
    (l.foldl (rearmTarget r) s).setupAddrHi = s.setupAddrHi ∧ (l.foldl (rearmTarget r) s).staleCount = s.staleCount ∧
    (l.foldl (rearmTarget r) s).resetting = s.resetting ∧ (l.foldl (rearmTarget r) s).choices = s.choices := by
  induction l generalizing s with
  | nil => simp
  | cons x l ih => simp [ih]

@[simp] theorem attentionRefresh_kept (s : State) (c : BitVec 4) :
    (s.attentionRefresh c).pending = s.pending ∧ (s.attentionRefresh c).timebase = s.timebase ∧
    (s.attentionRefresh c).lines = s.lines ∧ (s.attentionRefresh c).routes = s.routes ∧
    (s.attentionRefresh c).intervals = s.intervals ∧ (s.attentionRefresh c).records = s.records ∧
    (s.attentionRefresh c).tallies = s.tallies ∧ (s.attentionRefresh c).bundleConfig = s.bundleConfig ∧
    (s.attentionRefresh c).bundleRun = s.bundleRun ∧ (s.attentionRefresh c).assembly = s.assembly ∧
    (s.attentionRefresh c).roundRobin = s.roundRobin ∧ (s.attentionRefresh c).targets = s.targets ∧
    (s.attentionRefresh c).proc = s.proc ∧ (s.attentionRefresh c).enable = s.enable ∧
    (s.attentionRefresh c).setupAddrLo = s.setupAddrLo ∧ (s.attentionRefresh c).setupAddrHi = s.setupAddrHi ∧
    (s.attentionRefresh c).staleCount = s.staleCount ∧ (s.attentionRefresh c).resetting = s.resetting ∧
    (s.attentionRefresh c).choices = s.choices := by
  simp [attentionRefresh]

@[simp] theorem attentionRearm_kept (s : State) (c : BitVec 4) (r : Bool) :
    (s.attentionRearm c r).pending = s.pending ∧ (s.attentionRearm c r).timebase = s.timebase ∧
    (s.attentionRearm c r).lines = s.lines ∧ (s.attentionRearm c r).routes = s.routes ∧
    (s.attentionRearm c r).intervals = s.intervals ∧ (s.attentionRearm c r).records = s.records ∧
    (s.attentionRearm c r).tallies = s.tallies ∧ (s.attentionRearm c r).bundleConfig = s.bundleConfig ∧
    (s.attentionRearm c r).bundleRun = s.bundleRun ∧ (s.attentionRearm c r).assembly = s.assembly ∧
    (s.attentionRearm c r).roundRobin = s.roundRobin ∧ (s.attentionRearm c r).proc = s.proc ∧
    (s.attentionRearm c r).enable = s.enable ∧ (s.attentionRearm c r).setupAddrLo = s.setupAddrLo ∧
    (s.attentionRearm c r).setupAddrHi = s.setupAddrHi ∧ (s.attentionRearm c r).staleCount = s.staleCount ∧
    (s.attentionRearm c r).resetting = s.resetting ∧ (s.attentionRearm c r).choices = s.choices := by
  simp [attentionRearm]

@[simp] theorem commandRefused_kept (s : State) :
    (s.commandRefused).pending = s.pending ∧ (s.commandRefused).timebase = s.timebase ∧ (s.commandRefused).lines = s.lines ∧
    (s.commandRefused).routes = s.routes ∧ (s.commandRefused).bundleConfig = s.bundleConfig ∧
    (s.commandRefused).assembly = s.assembly ∧ (s.commandRefused).roundRobin = s.roundRobin ∧
    (s.commandRefused).enable = s.enable ∧ (s.commandRefused).setupAddrLo = s.setupAddrLo ∧
    (s.commandRefused).setupAddrHi = s.setupAddrHi ∧ (s.commandRefused).staleCount = s.staleCount ∧
    (s.commandRefused).resetting = s.resetting ∧ (s.commandRefused).choices = s.choices := by
  unfold commandRefused; (repeat' split) <;> simp

@[simp] theorem replyAnswer_kept (s : State) (v : WriteAnswer) :
    (s.replyAnswer v).pending = s.pending ∧ (s.replyAnswer v).timebase = s.timebase ∧ (s.replyAnswer v).lines = s.lines ∧
    (s.replyAnswer v).routes = s.routes ∧ (s.replyAnswer v).bundleConfig = s.bundleConfig ∧
    (s.replyAnswer v).assembly = s.assembly ∧ (s.replyAnswer v).roundRobin = s.roundRobin ∧
    (s.replyAnswer v).enable = s.enable ∧ (s.replyAnswer v).setupAddrLo = s.setupAddrLo ∧
    (s.replyAnswer v).setupAddrHi = s.setupAddrHi ∧ (s.replyAnswer v).staleCount = s.staleCount ∧
    (s.replyAnswer v).resetting = s.resetting ∧ (s.replyAnswer v).choices = s.choices := by
  unfold replyAnswer; (repeat' split) <;> simp

@[simp] theorem completionAnswer_kept (s : State) (v : WriteAnswer) :
    (s.completionAnswer v).pending = s.pending ∧ (s.completionAnswer v).timebase = s.timebase ∧
    (s.completionAnswer v).lines = s.lines ∧ (s.completionAnswer v).routes = s.routes ∧
    (s.completionAnswer v).bundleConfig = s.bundleConfig ∧ (s.completionAnswer v).assembly = s.assembly ∧
    (s.completionAnswer v).roundRobin = s.roundRobin ∧ (s.completionAnswer v).enable = s.enable ∧
    (s.completionAnswer v).setupAddrLo = s.setupAddrLo ∧ (s.completionAnswer v).setupAddrHi = s.setupAddrHi ∧
    (s.completionAnswer v).staleCount = s.staleCount ∧ (s.completionAnswer v).resetting = s.resetting ∧
    (s.completionAnswer v).choices = s.choices := by
  unfold completionAnswer; (repeat' split) <;> simp

@[simp] theorem cplSignalAnswer_kept (s : State) (v : WriteAnswer) :
    (s.cplSignalAnswer v).pending = s.pending ∧ (s.cplSignalAnswer v).timebase = s.timebase ∧
    (s.cplSignalAnswer v).lines = s.lines ∧ (s.cplSignalAnswer v).routes = s.routes ∧
    (s.cplSignalAnswer v).bundleConfig = s.bundleConfig ∧ (s.cplSignalAnswer v).assembly = s.assembly ∧
    (s.cplSignalAnswer v).roundRobin = s.roundRobin ∧ (s.cplSignalAnswer v).enable = s.enable ∧
    (s.cplSignalAnswer v).setupAddrLo = s.setupAddrLo ∧ (s.cplSignalAnswer v).setupAddrHi = s.setupAddrHi ∧
    (s.cplSignalAnswer v).staleCount = s.staleCount ∧ (s.cplSignalAnswer v).resetting = s.resetting ∧
    (s.cplSignalAnswer v).choices = s.choices := by
  unfold cplSignalAnswer; (repeat' split) <;> simp

@[simp] theorem cplConsumerAnswer_kept (s : State) (v : ReadAnswer) :
    (s.cplConsumerAnswer v).pending = s.pending ∧ (s.cplConsumerAnswer v).timebase = s.timebase ∧
    (s.cplConsumerAnswer v).lines = s.lines ∧ (s.cplConsumerAnswer v).routes = s.routes ∧
    (s.cplConsumerAnswer v).bundleConfig = s.bundleConfig ∧ (s.cplConsumerAnswer v).assembly = s.assembly ∧
    (s.cplConsumerAnswer v).roundRobin = s.roundRobin ∧ (s.cplConsumerAnswer v).enable = s.enable ∧
    (s.cplConsumerAnswer v).setupAddrLo = s.setupAddrLo ∧ (s.cplConsumerAnswer v).setupAddrHi = s.setupAddrHi ∧
    (s.cplConsumerAnswer v).staleCount = s.staleCount ∧ (s.cplConsumerAnswer v).resetting = s.resetting ∧
    (s.cplConsumerAnswer v).choices = s.choices := by
  unfold cplConsumerAnswer; (repeat' split) <;> simp

@[simp] theorem setupAnswer_kept (s : State) (v : SetupAnswer) :
    (s.setupAnswer v).pending = s.pending ∧ (s.setupAnswer v).timebase = s.timebase ∧ (s.setupAnswer v).lines = s.lines ∧
    (s.setupAnswer v).routes = s.routes ∧ (s.setupAnswer v).bundleConfig = s.bundleConfig ∧
    (s.setupAnswer v).assembly = s.assembly ∧ (s.setupAnswer v).roundRobin = s.roundRobin ∧
    (s.setupAnswer v).enable = s.enable ∧ (s.setupAnswer v).setupAddrLo = s.setupAddrLo ∧
    (s.setupAnswer v).setupAddrHi = s.setupAddrHi ∧ (s.setupAnswer v).staleCount = s.staleCount ∧
    (s.setupAnswer v).resetting = s.resetting ∧ (s.setupAnswer v).choices = s.choices := by
  unfold setupAnswer; (repeat' split) <;> simp

@[simp] theorem setEnable_kept (s : State) (v : Bool) :
    (s.setEnable v).pending = s.pending ∧ (s.setEnable v).timebase = s.timebase ∧ (s.setEnable v).lines = s.lines ∧
    (s.setEnable v).routes = s.routes ∧ (s.setEnable v).bundleConfig = s.bundleConfig ∧
    (s.setEnable v).assembly = s.assembly ∧ (s.setEnable v).roundRobin = s.roundRobin ∧
    (s.setEnable v).setupAddrLo = s.setupAddrLo ∧ (s.setEnable v).setupAddrHi = s.setupAddrHi ∧
    (s.setEnable v).staleCount = s.staleCount ∧ (s.setEnable v).resetting = s.resetting ∧ (s.setEnable v).choices = s.choices := by
  unfold setEnable; dsimp only; (repeat' split) <;> simp

@[simp] theorem foldl_rejudgeDetachPending_kept (s : State) (l : List TargetId) :
    (l.foldl (fun u x => u.rejudgeDetachPending x) s).pending = s.pending ∧
    (l.foldl (fun u x => u.rejudgeDetachPending x) s).timebase = s.timebase ∧
    (l.foldl (fun u x => u.rejudgeDetachPending x) s).lines = s.lines ∧
    (l.foldl (fun u x => u.rejudgeDetachPending x) s).routes = s.routes ∧
    (l.foldl (fun u x => u.rejudgeDetachPending x) s).intervals = s.intervals ∧
    (l.foldl (fun u x => u.rejudgeDetachPending x) s).records = s.records ∧
    (l.foldl (fun u x => u.rejudgeDetachPending x) s).tallies = s.tallies ∧
    (l.foldl (fun u x => u.rejudgeDetachPending x) s).bundleConfig = s.bundleConfig ∧
    (l.foldl (fun u x => u.rejudgeDetachPending x) s).bundleRun = s.bundleRun ∧
    (l.foldl (fun u x => u.rejudgeDetachPending x) s).assembly = s.assembly ∧
    (l.foldl (fun u x => u.rejudgeDetachPending x) s).roundRobin = s.roundRobin ∧
    (l.foldl (fun u x => u.rejudgeDetachPending x) s).proc = s.proc ∧
    (l.foldl (fun u x => u.rejudgeDetachPending x) s).enable = s.enable ∧
    (l.foldl (fun u x => u.rejudgeDetachPending x) s).setupAddrLo = s.setupAddrLo ∧
    (l.foldl (fun u x => u.rejudgeDetachPending x) s).setupAddrHi = s.setupAddrHi ∧
    (l.foldl (fun u x => u.rejudgeDetachPending x) s).staleCount = s.staleCount ∧
    (l.foldl (fun u x => u.rejudgeDetachPending x) s).resetting = s.resetting ∧
    (l.foldl (fun u x => u.rejudgeDetachPending x) s).choices = s.choices := by
  induction l generalizing s with
  | nil => simp
  | cons x l ih => simp [ih]

@[simp] theorem restart_kept (s : State) :
    (s.restart).pending = s.pending ∧ (s.restart).timebase = s.timebase ∧ (s.restart).lines = s.lines ∧
    (s.restart).routes = s.routes ∧ (s.restart).intervals = s.intervals ∧ (s.restart).records = s.records ∧
    (s.restart).tallies = s.tallies ∧ (s.restart).bundleConfig = s.bundleConfig ∧ (s.restart).bundleRun = s.bundleRun ∧
    (s.restart).assembly = s.assembly ∧ (s.restart).roundRobin = s.roundRobin ∧ (s.restart).enable = s.enable ∧
    (s.restart).setupAddrLo = s.setupAddrLo ∧ (s.restart).setupAddrHi = s.setupAddrHi ∧
    (s.restart).staleCount = s.staleCount ∧ (s.restart).resetting = s.resetting ∧ (s.restart).choices = s.choices := by
  simp [restart]

@[simp] theorem restartDrained_kept (s : State) :
    (s.restartDrained).pending = s.pending ∧ (s.restartDrained).timebase = s.timebase ∧ (s.restartDrained).lines = s.lines ∧
    (s.restartDrained).routes = s.routes ∧ (s.restartDrained).bundleConfig = s.bundleConfig ∧
    (s.restartDrained).assembly = s.assembly ∧ (s.restartDrained).roundRobin = s.roundRobin ∧
    (s.restartDrained).enable = s.enable ∧ (s.restartDrained).setupAddrLo = s.setupAddrLo ∧
    (s.restartDrained).setupAddrHi = s.setupAddrHi ∧ (s.restartDrained).staleCount = s.staleCount ∧
    (s.restartDrained).resetting = s.resetting ∧ (s.restartDrained).choices = s.choices := by
  unfold restartDrained; (repeat' split) <;> simp

@[simp] theorem producerPassed_kept (s : State) :
    (s.producerPassed).pending = s.pending ∧ (s.producerPassed).timebase = s.timebase ∧ (s.producerPassed).lines = s.lines ∧
    (s.producerPassed).routes = s.routes ∧ (s.producerPassed).intervals = s.intervals ∧
    (s.producerPassed).records = s.records ∧ (s.producerPassed).tallies = s.tallies ∧
    (s.producerPassed).bundleConfig = s.bundleConfig ∧ (s.producerPassed).bundleRun = s.bundleRun ∧
    (s.producerPassed).assembly = s.assembly ∧ (s.producerPassed).roundRobin = s.roundRobin ∧
    (s.producerPassed).targets = s.targets ∧ (s.producerPassed).enable = s.enable ∧
    (s.producerPassed).setupAddrLo = s.setupAddrLo ∧ (s.producerPassed).setupAddrHi = s.setupAddrHi ∧
    (s.producerPassed).staleCount = s.staleCount ∧ (s.producerPassed).resetting = s.resetting ∧
    (s.producerPassed).choices = s.choices := by
  unfold producerPassed; dsimp only; (repeat' split) <;> simp

@[simp] theorem producerWrite_kept (s : State) (v : Word) :
    (s.producerWrite v).pending = s.pending ∧ (s.producerWrite v).timebase = s.timebase ∧
    (s.producerWrite v).lines = s.lines ∧ (s.producerWrite v).routes = s.routes ∧
    (s.producerWrite v).bundleConfig = s.bundleConfig ∧ (s.producerWrite v).assembly = s.assembly ∧
    (s.producerWrite v).roundRobin = s.roundRobin ∧ (s.producerWrite v).enable = s.enable ∧
    (s.producerWrite v).setupAddrLo = s.setupAddrLo ∧ (s.producerWrite v).setupAddrHi = s.setupAddrHi ∧
    (s.producerWrite v).staleCount = s.staleCount ∧ (s.producerWrite v).resetting = s.resetting ∧
    (s.producerWrite v).choices = s.choices := by
  unfold producerWrite; dsimp only; (repeat' split) <;> simp

@[simp] theorem refreshCompletions_kept (s : State) :
    (s.refreshCompletions).pending = s.pending ∧ (s.refreshCompletions).timebase = s.timebase ∧
    (s.refreshCompletions).lines = s.lines ∧ (s.refreshCompletions).routes = s.routes ∧
    (s.refreshCompletions).intervals = s.intervals ∧ (s.refreshCompletions).records = s.records ∧
    (s.refreshCompletions).tallies = s.tallies ∧ (s.refreshCompletions).bundleConfig = s.bundleConfig ∧
    (s.refreshCompletions).bundleRun = s.bundleRun ∧ (s.refreshCompletions).assembly = s.assembly ∧
    (s.refreshCompletions).roundRobin = s.roundRobin ∧ (s.refreshCompletions).targets = s.targets ∧
    (s.refreshCompletions).proc = s.proc ∧ (s.refreshCompletions).enable = s.enable ∧
    (s.refreshCompletions).setupAddrLo = s.setupAddrLo ∧ (s.refreshCompletions).setupAddrHi = s.setupAddrHi ∧
    (s.refreshCompletions).staleCount = s.staleCount ∧ (s.refreshCompletions).resetting = s.resetting ∧
    (s.refreshCompletions).choices = s.choices := by
  unfold refreshCompletions; (repeat' split) <;> simp

@[simp] theorem abortCommand_kept (s : State) (c : CmdId) (k : Half) :
    (s.abortCommand c k).pending = s.pending ∧ (s.abortCommand c k).timebase = s.timebase ∧
    (s.abortCommand c k).lines = s.lines ∧ (s.abortCommand c k).routes = s.routes ∧
    (s.abortCommand c k).bundleConfig = s.bundleConfig ∧ (s.abortCommand c k).assembly = s.assembly ∧
    (s.abortCommand c k).roundRobin = s.roundRobin ∧ (s.abortCommand c k).enable = s.enable ∧
    (s.abortCommand c k).setupAddrLo = s.setupAddrLo ∧ (s.abortCommand c k).setupAddrHi = s.setupAddrHi ∧
    (s.abortCommand c k).staleCount = s.staleCount ∧ (s.abortCommand c k).resetting = s.resetting ∧
    (s.abortCommand c k).choices = s.choices := by
  unfold abortCommand abortDeferred
  split
  · dsimp only
    split <;> simp
  · simp

@[simp] theorem attentionWrite_kept (s : State) (v : Word) :
    (s.attentionWrite v).pending = s.pending ∧ (s.attentionWrite v).timebase = s.timebase ∧
    (s.attentionWrite v).lines = s.lines ∧ (s.attentionWrite v).routes = s.routes ∧
    (s.attentionWrite v).intervals = s.intervals ∧ (s.attentionWrite v).records = s.records ∧
    (s.attentionWrite v).tallies = s.tallies ∧ (s.attentionWrite v).bundleConfig = s.bundleConfig ∧
    (s.attentionWrite v).bundleRun = s.bundleRun ∧ (s.attentionWrite v).assembly = s.assembly ∧
    (s.attentionWrite v).roundRobin = s.roundRobin ∧ (s.attentionWrite v).proc = s.proc ∧
    (s.attentionWrite v).enable = s.enable ∧ (s.attentionWrite v).setupAddrLo = s.setupAddrLo ∧
    (s.attentionWrite v).setupAddrHi = s.setupAddrHi ∧ (s.attentionWrite v).staleCount = s.staleCount ∧
    (s.attentionWrite v).resetting = s.resetting ∧ (s.attentionWrite v).choices = s.choices := by
  unfold attentionWrite; (repeat' split) <;> simp

@[simp] theorem controlWrite_kept (s : State) (v : Word) :
    (s.controlWrite v).pending = s.pending ∧ (s.controlWrite v).timebase = s.timebase ∧ (s.controlWrite v).lines = s.lines ∧
    (s.controlWrite v).routes = s.routes ∧ (s.controlWrite v).bundleConfig = s.bundleConfig ∧
    (s.controlWrite v).assembly = s.assembly ∧ (s.controlWrite v).roundRobin = s.roundRobin ∧
    (s.controlWrite v).setupAddrLo = s.setupAddrLo ∧ (s.controlWrite v).setupAddrHi = s.setupAddrHi ∧
    (s.controlWrite v).choices = s.choices := by
  unfold controlWrite beginReset clearStale; dsimp only; (repeat' split) <;> simp

@[simp] theorem windowWrite_kept (s : State) (o k : Nat) (v : Word) :
    (s.windowWrite o k v).pending = s.pending ∧ (s.windowWrite o k v).timebase = s.timebase ∧
    (s.windowWrite o k v).lines = s.lines ∧ (s.windowWrite o k v).routes = s.routes ∧
    (s.windowWrite o k v).bundleConfig = s.bundleConfig ∧ (s.windowWrite o k v).assembly = s.assembly ∧
    (s.windowWrite o k v).roundRobin = s.roundRobin ∧ (s.windowWrite o k v).choices = s.choices := by
  unfold windowWrite; (repeat' split) <;> simp

@[simp] theorem takeRecords_kept (s : State) (l : List SourceId) :
    (takeRecords l s).2.pending = s.pending ∧ (takeRecords l s).2.timebase = s.timebase ∧
    (takeRecords l s).2.lines = s.lines ∧ (takeRecords l s).2.routes = s.routes ∧
    (takeRecords l s).2.intervals = s.intervals ∧ (takeRecords l s).2.tallies = s.tallies ∧
    (takeRecords l s).2.bundleConfig = s.bundleConfig ∧ (takeRecords l s).2.bundleRun = s.bundleRun ∧
    (takeRecords l s).2.assembly = s.assembly ∧ (takeRecords l s).2.roundRobin = s.roundRobin ∧
    (takeRecords l s).2.targets = s.targets ∧ (takeRecords l s).2.proc = s.proc ∧ (takeRecords l s).2.enable = s.enable ∧
    (takeRecords l s).2.setupAddrLo = s.setupAddrLo ∧ (takeRecords l s).2.setupAddrHi = s.setupAddrHi ∧
    (takeRecords l s).2.staleCount = s.staleCount ∧ (takeRecords l s).2.resetting = s.resetting ∧
    (takeRecords l s).2.requests = s.requests ∧ (takeRecords l s).2.nextRequest = s.nextRequest ∧
    (takeRecords l s).2.choices = s.choices := by
  induction l generalizing s with
  | nil => simp [takeRecords]
  | cons x l ih => simp only [takeRecords]; split <;> simp [ih]

@[simp] theorem startEvent_kept (s : State) (b : BundleId) (t : TargetId) :
    (s.startEvent b t).pending = s.pending ∧ (s.startEvent b t).timebase = s.timebase ∧ (s.startEvent b t).lines = s.lines ∧
    (s.startEvent b t).routes = s.routes ∧ (s.startEvent b t).intervals = s.intervals ∧
    (s.startEvent b t).tallies = s.tallies ∧ (s.startEvent b t).bundleConfig = s.bundleConfig ∧
    (s.startEvent b t).targets = s.targets ∧ (s.startEvent b t).proc = s.proc ∧ (s.startEvent b t).enable = s.enable ∧
    (s.startEvent b t).setupAddrLo = s.setupAddrLo ∧ (s.startEvent b t).setupAddrHi = s.setupAddrHi ∧
    (s.startEvent b t).staleCount = s.staleCount ∧ (s.startEvent b t).resetting = s.resetting ∧
    (s.startEvent b t).requests = s.requests ∧ (s.startEvent b t).nextRequest = s.nextRequest ∧
    (s.startEvent b t).choices = s.choices := by
  simp [startEvent]

@[simp] theorem startReminder_kept (s : State) (b : BundleId) (t : TargetId) :
    (s.startReminder b t).pending = s.pending ∧ (s.startReminder b t).timebase = s.timebase ∧
    (s.startReminder b t).lines = s.lines ∧ (s.startReminder b t).routes = s.routes ∧
    (s.startReminder b t).intervals = s.intervals ∧ (s.startReminder b t).records = s.records ∧
    (s.startReminder b t).tallies = s.tallies ∧ (s.startReminder b t).bundleConfig = s.bundleConfig ∧
    (s.startReminder b t).targets = s.targets ∧ (s.startReminder b t).proc = s.proc ∧
    (s.startReminder b t).enable = s.enable ∧ (s.startReminder b t).setupAddrLo = s.setupAddrLo ∧
    (s.startReminder b t).setupAddrHi = s.setupAddrHi ∧ (s.startReminder b t).staleCount = s.staleCount ∧
    (s.startReminder b t).resetting = s.resetting ∧ (s.startReminder b t).requests = s.requests ∧
    (s.startReminder b t).nextRequest = s.nextRequest ∧ (s.startReminder b t).choices = s.choices := by
  simp [startReminder]

@[simp] theorem eventStart_kept (s : State) :
    (s.eventStart).pending = s.pending ∧ (s.eventStart).timebase = s.timebase ∧ (s.eventStart).lines = s.lines ∧
    (s.eventStart).routes = s.routes ∧ (s.eventStart).intervals = s.intervals ∧ (s.eventStart).tallies = s.tallies ∧
    (s.eventStart).bundleConfig = s.bundleConfig ∧ (s.eventStart).targets = s.targets ∧ (s.eventStart).proc = s.proc ∧
    (s.eventStart).enable = s.enable ∧ (s.eventStart).setupAddrLo = s.setupAddrLo ∧
    (s.eventStart).setupAddrHi = s.setupAddrHi ∧ (s.eventStart).staleCount = s.staleCount ∧
    (s.eventStart).resetting = s.resetting ∧ (s.eventStart).requests = s.requests ∧
    (s.eventStart).nextRequest = s.nextRequest ∧ (s.eventStart).choices = s.choices := by
  unfold eventStart; (repeat' split) <;> simp

@[simp] theorem reminderStart_kept (s : State) :
    (s.reminderStart).pending = s.pending ∧ (s.reminderStart).timebase = s.timebase ∧ (s.reminderStart).lines = s.lines ∧
    (s.reminderStart).routes = s.routes ∧ (s.reminderStart).intervals = s.intervals ∧
    (s.reminderStart).records = s.records ∧ (s.reminderStart).tallies = s.tallies ∧
    (s.reminderStart).bundleConfig = s.bundleConfig ∧ (s.reminderStart).targets = s.targets ∧
    (s.reminderStart).proc = s.proc ∧ (s.reminderStart).enable = s.enable ∧ (s.reminderStart).setupAddrLo = s.setupAddrLo ∧
    (s.reminderStart).setupAddrHi = s.setupAddrHi ∧ (s.reminderStart).staleCount = s.staleCount ∧
    (s.reminderStart).resetting = s.resetting ∧ (s.reminderStart).requests = s.requests ∧
    (s.reminderStart).nextRequest = s.nextRequest ∧ (s.reminderStart).choices = s.choices := by
  unfold reminderStart; (repeat' split) <;> simp

@[simp] theorem commitAssembly_kept (s : State) :
    (s.commitAssembly).pending = s.pending ∧ (s.commitAssembly).timebase = s.timebase ∧ (s.commitAssembly).lines = s.lines ∧
    (s.commitAssembly).routes = s.routes ∧ (s.commitAssembly).roundRobin = s.roundRobin ∧
    (s.commitAssembly).enable = s.enable ∧ (s.commitAssembly).setupAddrLo = s.setupAddrLo ∧
    (s.commitAssembly).setupAddrHi = s.setupAddrHi ∧ (s.commitAssembly).staleCount = s.staleCount ∧
    (s.commitAssembly).resetting = s.resetting ∧ (s.commitAssembly).choices = s.choices := by
  unfold commitAssembly; (repeat' split) <;> simp

@[simp] theorem abortAssembly_kept (s : State) :
    (s.abortAssembly).pending = s.pending ∧ (s.abortAssembly).timebase = s.timebase ∧ (s.abortAssembly).lines = s.lines ∧
    (s.abortAssembly).routes = s.routes ∧ (s.abortAssembly).roundRobin = s.roundRobin ∧
    (s.abortAssembly).enable = s.enable ∧ (s.abortAssembly).setupAddrLo = s.setupAddrLo ∧
    (s.abortAssembly).setupAddrHi = s.setupAddrHi ∧ (s.abortAssembly).staleCount = s.staleCount ∧
    (s.abortAssembly).resetting = s.resetting ∧ (s.abortAssembly).choices = s.choices := by
  unfold abortAssembly; (repeat' split) <;> simp

@[simp] theorem timedOut_kept (s : State) (w : Issuer) :
    (s.timedOut w).pending = s.pending ∧ (s.timedOut w).timebase = s.timebase ∧ (s.timedOut w).lines = s.lines ∧
    (s.timedOut w).routes = s.routes ∧ (s.timedOut w).roundRobin = s.roundRobin ∧ (s.timedOut w).enable = s.enable ∧
    (s.timedOut w).setupAddrLo = s.setupAddrLo ∧ (s.timedOut w).setupAddrHi = s.setupAddrHi ∧
    (s.timedOut w).staleCount = s.staleCount ∧ (s.timedOut w).resetting = s.resetting ∧ (s.timedOut w).choices = s.choices := by
  unfold timedOut; (repeat' split) <;> simp

@[simp] theorem lineMoved_kept (s : State) (l : LineId) :
    (s.lineMoved l).pending = s.pending ∧ (s.lineMoved l).timebase = s.timebase ∧ (s.lineMoved l).routes = s.routes ∧
    (s.lineMoved l).bundleConfig = s.bundleConfig ∧ (s.lineMoved l).assembly = s.assembly ∧
    (s.lineMoved l).roundRobin = s.roundRobin ∧ (s.lineMoved l).proc = s.proc ∧ (s.lineMoved l).enable = s.enable ∧
    (s.lineMoved l).setupAddrLo = s.setupAddrLo ∧ (s.lineMoved l).setupAddrHi = s.setupAddrHi ∧
    (s.lineMoved l).staleCount = s.staleCount ∧ (s.lineMoved l).resetting = s.resetting ∧ (s.lineMoved l).choices = s.choices := by
  unfold lineMoved; dsimp only; (repeat' split) <;> simp

@[simp] theorem qualificationExpires_kept (s : State) (l : LineId) :
    (s.qualificationExpires l).pending = s.pending ∧ (s.qualificationExpires l).timebase = s.timebase ∧
    (s.qualificationExpires l).routes = s.routes ∧ (s.qualificationExpires l).bundleConfig = s.bundleConfig ∧
    (s.qualificationExpires l).assembly = s.assembly ∧ (s.qualificationExpires l).roundRobin = s.roundRobin ∧
    (s.qualificationExpires l).proc = s.proc ∧ (s.qualificationExpires l).enable = s.enable ∧
    (s.qualificationExpires l).setupAddrLo = s.setupAddrLo ∧ (s.qualificationExpires l).setupAddrHi = s.setupAddrHi ∧
    (s.qualificationExpires l).staleCount = s.staleCount ∧ (s.qualificationExpires l).resetting = s.resetting ∧
    (s.qualificationExpires l).choices = s.choices := by
  unfold qualificationExpires; (repeat' split) <;> simp

end Sys2Proof.Machine.State
end

