-- ==== Sys2Proof/Laws/Counts.lean ====
section
/-! SUPPORT. Sys2Proof/Laws/Counts.lean: every move keeps the counts of records and copies within 1 to 65535 (R35, R43). -/
namespace Sys2Proof.Machine

open State

/-- A count that a record or a copy can hold (R35, R43). -/
def CountOk (k : Nat) : Prop := 1 ≤ k ∧ k ≤ Config.countLimit

/-- Every record's count is one that it can hold. -/
def RecordsOk (s : State) : Prop := ∀ n r, s.record n = some r → CountOk r.count

theorem countsInRange_iff (s : State) : CountsInRange s ↔ RecordsOk s ∧ ∀ c ∈ s.copies, CountOk c.count := Iff.rfl

theorem RecordsOk.of_record {s t : State} (h : RecordsOk s) (k : ∀ n, t.record n = none ∨ t.record n = s.record n) : RecordsOk t := by
  intro n r hr
  rcases k n with e | e
  · rw [e] at hr; cases hr
  · exact h n r (e ▸ hr)

theorem RecordsOk.set {s : State} (h : RecordsOk s) (n : SourceId) {r : PendingRecord} (k : CountOk r.count) : RecordsOk (s.setRecord n (some r)) := by
  intro m r' hr
  rw [setRecord_record] at hr
  split at hr
  · cases hr; exact k
  · exact h m r' hr

theorem Ledger.recordsOk {s t : State} (h : Ledger s t) : RecordsOk s → RecordsOk t := by
  induction h with
  | calm h => exact fun k => k.of_record fun n => .inr (h.record n)
  | trans _ _ a b => exact b ∘ a
  | create n r f _ _ h1 h2 h => exact fun k => (k.set n ⟨h1, h2⟩).of_record fun m => .inr (by simp [h.record])
  | grow n r r' f hr _ h1 h2 h =>
    exact fun k => (k.set n ⟨Nat.le_trans (k n r hr).1 h1, h2 (k n r hr).2⟩).of_record fun m => .inr (by simp [h.record])
  | @discard s t n h =>
    refine fun k => k.of_record fun m => ?_
    have := record_foldl_clear [n] s m
    simp only [List.foldl_cons, List.foldl_nil] at this
    simp only [h.record, sleep_frame, this]
    split <;> simp
  | flush b h =>
    refine fun k => k.of_record fun m => ?_
    simp only [h.record, sleep_frame, record_foldl_clear]
    split <;> simp
  | route n e h => exact fun k => k.of_record fun m => .inr (by simp [h.record])
  | settle b st _ _ _ _ _ _ h => exact fun k => k.of_record fun m => .inr (by simp [h.record])
  | release b _ h => exact fun k => k.of_record fun m => .inr (by simp [h.record, unhold])

theorem copies_eq_of_assembly {s t : State} (h : t.assembly = s.assembly) : t.copies = s.copies := by simp [copies, h]

theorem recordsOk_returnCopies (l : List Copy) (s : State) (h : ∀ c ∈ l, CountOk c.count) : RecordsOk s → RecordsOk (l.foldl returnCopy s) := by
  induction l generalizing s with
  | nil => exact id
  | cons c cs ih =>
    have hc := h c (by simp)
    refine fun k => ih _ (fun d hd => h d (by simp [hd])) ?_
    unfold returnCopy
    split
    · exact k
    · split
      · refine (k.set c.source (r := ⟨c.count, c.firstTime, c.lastTime, c.interval, c.detail⟩) hc).of_record fun m => .inr (by simp)
      · rename_i r hr
        dsimp only
        have hm : CountOk (min (c.count + r.count) Config.countLimit) := ⟨by have := hc.1; simp only [Config.countLimit]; omega, Nat.min_le_right _ _⟩
        have hu : ∀ f, RecordsOk ((s.setRecord c.source (some ⟨min (c.count + r.count) Config.countLimit, c.firstTime, r.lastTime, c.interval, r.detail⟩)).updTally c.source f) :=
          fun f => (k.set c.source hm).of_record fun m => .inr rfl
        split
        · exact hu _
        · exact (ledger_acceptMany _ _ _ _).recordsOk (hu _)

theorem countOk_takeRecords (l : List SourceId) (s : State) (h : RecordsOk s) : ∀ c ∈ (takeRecords l s).1, CountOk c.count := by
  induction l generalizing s with
  | nil => simp [takeRecords]
  | cons a l ih =>
    simp only [takeRecords]
    split
    · rename_i c hc
      simp only [takeCopy, Option.map_eq_some_iff] at hc
      obtain ⟨r, hr, rfl⟩ := hc
      intro d hd
      rcases List.mem_cons.1 hd with rfl | hd
      · exact h a r hr
      · refine ih _ (h.of_record fun m => ?_) d hd
        rw [setRecord_record]; split <;> simp
    · exact ih s h

/-- Whatever the block does, the counts stay in range. -/
theorem Works.counts {s t : State} (h : Works s t) : CountsInRange s → CountsInRange t := by
  simp only [countsInRange_iff]
  induction h with
  | ledger h => exact fun k => ⟨h.recordsOk k.1, copies_eq_of_assembly h.assembly ▸ k.2⟩
  | trans _ _ a b => exact b ∘ a
  | void s n =>
    refine fun k => ⟨k.1.of_record fun m => .inr (by simp), ?_⟩
    have h2 := k.2
    simp only [copies, voidCopy, setAssembly_assembly] at h2 ⊢
    cases ha : s.assembly with
    | none => simp
    | some a =>
      simp only [ha, Option.map_some, voidIn, List.mem_map] at h2 ⊢
      rintro c ⟨d, hd, rfl⟩
      split <;> exact h2 d hd
  | resetTally s n =>
    refine fun k => ⟨k.1.of_record fun m => .inr (by simp [State.resetTally]), ?_⟩
    have h2 := k.2
    simp only [copies, State.resetTally, setAssembly_assembly] at h2 ⊢
    cases ha : s.assembly with
    | none => simp
    | some a =>
      simp only [ha, Option.map_some, List.mem_map] at h2 ⊢
      rintro c ⟨d, hd, rfl⟩
      split <;> exact h2 d hd
  | startEvent s b t ha hr =>
    refine fun k => ⟨k.1.of_record fun m => ?_, ?_⟩
    · simp only [State.startEvent, updRun_record, setAssembly_record, takeRecords_frame, takeTurn_frame]
      split <;> simp
    · have : (s.startEvent b t).copies = (takeRecords ((s.pendingList b).take (s.assemblySize b t)) (s.takeTurn b)).1 := by
        simp [copies, State.startEvent]
      rw [this]
      exact countOk_takeRecords _ _ (k.1.of_record fun m => .inr (by simp))
  | startReminder s b t ha hr =>
    refine fun k => ⟨k.1.of_record fun m => .inr (by simp [State.startReminder]), ?_⟩
    simp [copies, State.startReminder]
  | write s =>
    refine fun k => ⟨k.1.of_record fun m => .inr (by simp), ?_⟩
    have h2 := k.2
    simp only [copies] at h2 ⊢
    unfold issueWrite
    cases ha : s.assembly with
    | none => simp [ha]
    | some a =>
      simp only [ha] at h2 ⊢
      cases hp : a.position with
      | header => simpa [ha] using h2
      | entry j =>
        cases hd : a.copies[j - 1]? with
        | none => simpa [ha, hd] using h2
        | some d =>
          simp only [hd, issueRequest_assembly, setAssembly_assembly]
          intro c hc
          rcases List.mem_or_eq_of_mem_set hc with hc | rfl
          · exact h2 c hc
          · have := h2 d (List.mem_of_getElem? hd)
            unfold Copy.issued; split <;> exact this
  | position s a p ha =>
    refine fun k => ⟨k.1.of_record fun m => .inr (by simp), ?_⟩
    have h2 := k.2
    simpa [copies, ha] using h2
  | commit s a ha =>
    refine fun k => ⟨?_, by simp [copies]⟩
    have h1 : RecordsOk ((a.copies.foldl reportCopy (s.setAssembly none)).commitTarget a) :=
      (ledger_commitTarget _ a).recordsOk (k.1.of_record fun m => .inr (by simp))
    generalize (a.copies.foldl reportCopy (s.setAssembly none)).commitTarget a = v at h1
    exact (ledger_recheckReported _ a).recordsOk (h1.of_record fun m => .inr (by simp))
  | abort s a ha =>
    refine fun k => ⟨?_, by simp [copies]⟩
    have hc : ∀ c ∈ a.copies, CountOk c.count := by simpa [copies, ha] using k.2
    have h1 := recordsOk_returnCopies a.copies (s.setAssembly none) hc (k.1.of_record fun m => .inr rfl)
    exact (ledger_faultTarget _ _ _).recordsOk (h1.of_record fun m => .inr (by simp))
  | reset s =>
    refine fun k => ⟨fun n r h => ?_, ?_⟩
    · simp [resetBlocks, State.record, State.reset] at h
    · simp [copies, resetBlocks, State.reset]

end Sys2Proof.Machine
end

