-- ==== Sys2Proof/Laws/Deferred.lean ====
section
/-! SUPPORT. Sys2Proof/Laws/Deferred.lean: what one pass over the deferred table leaves and completes (R126, R128, R145), in closed
form: the table's front of ended commands and FENCEs, and the ended commands behind it. -/
namespace Sys2Proof.Machine.State

/-- The wait of a deferred command other than a FENCE ends in this pass. -/
def waitEnds (s : State) (gone : Option TargetId) (met : List TargetId) (d : Deferred) : Bool :=
  match d.what with
  | .detach k => gone == some k
  | .drain k _ => s.drained k || met.contains k
  | .fence => false

/-- OK with result 0. -/
def plainCompletion (d : Deferred) : Completion := ⟨d.cmd, .ok, 0⟩

/-- The completions of ended commands: the first TARGET_DETACH has the holds released as its result. -/
def endings : Nat → List Deferred → List Completion
  | _, [] => []
  | holds, d :: l =>
    match d.what with
    | .detach _ => ⟨d.cmd, .ok, result1 holds⟩ :: endings 0 l
    | .drain _ _ | .fence => plainCompletion d :: endings holds l

theorem endings_append (holds : Nat) (l k : List Deferred) (h : ∀ d ∈ l, ∀ t, d.what ≠ .detach t) :
    endings holds (l ++ k) = l.map plainCompletion ++ endings holds k := by
  induction l with
  | nil => rfl
  | cons d l ih =>
    have hd := h d (by simp)
    simp only [List.cons_append, endings, List.map_cons]
    cases e : d.what with
    | detach t => exact absurd e (hd t)
    | drain t us => simp [ih fun x hx => h x (by simp [hx])]
    | fence => simp [ih fun x hx => h x (by simp [hx])]

theorem endings_zero (l : List Deferred) : endings 0 l = l.map plainCompletion := by
  induction l with
  | nil => rfl
  | cons d l ih => simp only [endings]; cases d.what <;> simp [ih, result1, plainCompletion]

variable (s : State) (gone : Option TargetId) (met : List TargetId)

/-- Behind an entry that stays, no FENCE ends. -/
theorem sweepTable_kept (l : List Deferred) : ∀ holds kept, kept ≠ [] →
    s.sweepTable gone met holds kept l =
      (kept ++ l.filter (fun d => !s.waitEnds gone met d), endings holds (l.filter (s.waitEnds gone met))) := by
  induction l with
  | nil => intro holds kept _; simp [sweepTable, endings]
  | cons d l ih =>
    intro holds kept hk
    have go := fun holds => ih holds kept hk
    have keep := fun holds => ih holds (kept ++ [d]) (by simp)
    unfold sweepTable
    cases e : d.what with
    | detach k =>
      by_cases g : gone = some k
      · have he : s.waitEnds gone met d = true := by simp [waitEnds, e, g]
        simp only [g, if_true]
        rw [← g, go 0]
        simp [he, endings, e]
      · have he : s.waitEnds gone met d = false := by simp [waitEnds, e, g]
        simp [he, g, keep]
    | drain k us =>
      by_cases g : (s.drained k || met.contains k) = true
      · have he : s.waitEnds gone met d = true := by simp only [waitEnds, e]; exact g
        dsimp only; rw [if_pos g, go holds]; simp [he, endings, e, plainCompletion]
      · have he : s.waitEnds gone met d = false := by simp only [waitEnds, e]; simpa using g
        dsimp only; rw [if_neg g, keep holds]; simp [he]
    | fence =>
      have he : s.waitEnds gone met d = false := by simp [waitEnds, e]
      simp [he, keep, hk]

/-- A whole pass: the ended commands and FENCEs at the front of the table go, and the ended commands behind them. -/
theorem sweepTable_nil (l : List Deferred) : ∀ holds,
    let passes := fun d : Deferred => s.waitEnds gone met d || d.what == .fence
    s.sweepTable gone met holds [] l =
      ((l.dropWhile passes).filter (fun d => !s.waitEnds gone met d),
        endings holds (l.takeWhile passes ++ (l.dropWhile passes).filter (s.waitEnds gone met))) := by
  induction l with
  | nil => intro holds; simp [sweepTable, endings]
  | cons d l ih =>
    intro holds passes
    simp only at ih
    unfold sweepTable
    cases e : d.what with
    | detach k =>
      by_cases g : gone = some k
      · have he : s.waitEnds gone met d = true := by simp [waitEnds, e, g]
        have hp : passes d = true := by simp [passes, he]
        simp only [g, if_true, List.takeWhile_cons, List.dropWhile_cons, hp, endings, e, List.cons_append]
        rw [← g, ih 0]
      · have he : s.waitEnds gone met d = false := by simp [waitEnds, e, g]
        have hp : passes d = false := by simp [passes, he, e]
        simp only [g, if_false, List.takeWhile_cons, List.dropWhile_cons, hp, List.nil_append]
        rw [sweepTable_kept _ _ _ _ _ _ (by simp)]
        simp [he]
    | drain k us =>
      by_cases g : (s.drained k || met.contains k) = true
      · have he : s.waitEnds gone met d = true := by simp only [waitEnds, e]; exact g
        have hp : passes d = true := by simp [passes, he]
        simp only [g, if_true, List.takeWhile_cons, List.dropWhile_cons, hp, endings, e, List.cons_append]
        rw [ih holds]; rfl
      · have he : s.waitEnds gone met d = false := by simp only [waitEnds, e]; simpa using g
        have hp : passes d = false := by simp [passes, he, e]
        simp only [g, Bool.false_eq_true, if_false, List.takeWhile_cons, List.dropWhile_cons, hp, List.nil_append]
        rw [sweepTable_kept _ _ _ _ _ _ (by simp)]
        simp [he]
    | fence =>
      have hp : passes d = true := by simp [passes, e]
      simp only [List.isEmpty_nil, if_true, List.takeWhile_cons, List.dropWhile_cons, hp, endings, e, List.cons_append]
      rw [ih holds]; rfl

theorem pushCompletions_proc (l : List Completion) : ∀ u : State,
    (l.foldl (fun u c => u.pushCompletion c) u).proc = { u.proc with completions := u.proc.completions ++ l } := by
  induction l with
  | nil => intro u; simp
  | cons c l ih => intro u; rw [List.foldl_cons, ih]; simp [pushCompletion]

theorem sweepDeferredFor_proc (holds : Nat) :
    (s.sweepDeferredFor gone holds met).proc = { s.proc with
      deferred := (s.sweepTable gone met holds [] s.proc.deferred).1
      completions := s.proc.completions ++ (s.sweepTable gone met holds [] s.proc.deferred).2 } := by
  simp [sweepDeferredFor, pushCompletions_proc]

end Sys2Proof.Machine.State
end

