-- ==== Sys2Proof/Laws/HeldSets.lean ====
section
/-! SUPPORT. Sys2Proof/Laws/HeldSets.lean: every move keeps held sets and ASSEMBLING bundles in step with the assembler (R52, R54). -/
namespace Sys2Proof.Machine

open State

/-- One bundle's part of `HoldsInStep`, with the bundle of the event assembly given. -/
def HoldOk (ev : Option BundleId) (s : State) (b : BundleId) : Prop :=
  ((s.run b).state = .held ↔ (s.run b).heldSet ≠ []) ∧ ((s.run b).state = .assembling ↔ ev = some b) ∧
    (s.run b).HoldFields

/-- The token that an EVENT assembly in flight has taken is not 0 (R62). -/
def TokenOk (s : State) : Prop := ∀ a, s.assembly = some a → a.kind = .event → a.token ≠ 0

theorem holdsInStep_iff (s : State) : HoldsInStep s ↔ (∀ b, HoldOk s.eventBundle s b) ∧ TokenOk s := Iff.rfl

theorem Calm.holdOk {s t : State} (h : Calm s t) {ev b} (k : HoldOk ev s b) : HoldOk ev t b :=
  ⟨by rw [h.state, h.heldSet]; exact k.1, by rw [h.state]; exact k.2.1, h.rest b k.2.2⟩

theorem TokenOk.of_eq {s t : State} (k : TokenOk s) (h : t.assembly = s.assembly) : TokenOk t := by rw [TokenOk, h]; exact k

/-- The next token is never 0 (R62). -/
theorem nextToken_ne (x : Half) : nextToken x ≠ 0 := by
  unfold nextToken
  split
  · decide
  · rename_i h
    intro e
    refine h (BitVec.eq_of_toNat_eq ?_)
    have := congrArg BitVec.toNat e
    simp at this ⊢
    have := x.isLt
    omega

theorem eventBundle_congr {s t : State} (h : t.assembly = s.assembly) : t.eventBundle = s.eventBundle := by simp [eventBundle, h]

/-- A change of one bundle between states other than HELD and ASSEMBLING. -/
theorem HoldOk.move {s : State} {b c ev} {f : BundleRun → BundleRun} (h : HoldOk ev s c) (h1 : (s.run b).state ≠ .held) (h2 : (s.run b).state ≠ .assembling)
   (h3 : (f (s.run b)).state ≠ .held) (h4 : (f (s.run b)).state ≠ .assembling) (h5 : (f (s.run b)).heldSet = (s.run b).heldSet)
   (h6 : (s.run b).HoldFields → (f (s.run b)).HoldFields) :
   HoldOk ev (s.updRun b f) c := by
  by_cases e : c = b
  · subst e
    refine ⟨?_, ?_, ?_⟩
    · rw [updRun_run_self, h5]; have := h.1; simp_all
    · rw [updRun_run_self]; have := h.2.1; simp_all
    · rw [updRun_run_self]; exact h6 h.2.2
  · simpa [HoldOk, updRun_run, e] using h

theorem HoldOk.wake {s : State} {c ev} (h : HoldOk ev s c) (b) : HoldOk ev (wake b s) c := by
  cases b with
  | none => exact h
  | some b =>
    simp only [Machine.wake]
    split
    · rename_i hb; exact h.move (by simp [hb]) (by simp [hb]) (by simp) (by simp) rfl fun k => ⟨fun _ => k.1 (by simp [hb]), nofun⟩
    · exact h

theorem HoldOk.sleep {s : State} {c ev} (h : HoldOk ev s c) (b) : HoldOk ev (sleep b s) c := by
  cases b with
  | none => exact h
  | some b =>
    simp only [Machine.sleep]
    split
    · rename_i hb; exact h.move (by simp [hb]) (by simp [hb]) (by simp) (by simp) rfl fun k => ⟨fun _ => k.1 (by simp [hb]), nofun⟩
    · exact h

theorem HoldOk.of_run {s t : State} {c ev} (h : HoldOk ev s c) (hr : t.run c = s.run c) : HoldOk ev t c := by
  simpa [HoldOk, hr] using h

theorem Ledger.holdOk {s t : State} (h : Ledger s t) {ev} : (∀ b, HoldOk ev s b) → ∀ b, HoldOk ev t b := by
  induction h with
  | calm h => exact fun k b => h.holdOk (k b)
  | trans _ _ a b => exact b ∘ a
  | @create s t n r f _ _ _ _ h =>
    exact fun k b => h.holdOk (HoldOk.wake (s := (s.setRecord n (some r)).updTally n f) ((k b).of_run rfl) _)
  | grow n r r' f _ _ _ _ h => exact fun k b => h.holdOk ((k b).of_run rfl)
  | @discard s t n h =>
    exact fun k b => h.holdOk (HoldOk.sleep (s := s.clearRecord n) ((k b).of_run (by simp)) _)
  | @flush s t b0 h =>
    refine fun k b => h.holdOk (HoldOk.sleep ?_ _)
    exact (k b).of_run (by simp)
  | @route s t n e h =>
    refine fun k b => h.holdOk ?_
    have h1 : HoldOk ev (s.setRoute n e) b := (k b).of_run rfl
    unfold moveRoute
    split
    · exact (h1.wake _).sleep _
    · exact h1
  | settle b st h1 h2 h3 h4 _ _ h => exact fun k c => h.holdOk ((k c).move h2 h1 h4 h3 rfl fun k => ⟨fun _ => k.1 h2, fun e => absurd e h4⟩)
  | @release s t b0 h0 h =>
    refine fun k c => h.holdOk ?_
    have h1 := k c
    by_cases e : c = b0
    · subst e
      have : (unhold c s).run c = ⟨if s.pendingList c = [] then .idle else .ready, (s.run c).token, [], 0, false, .stopped⟩ := by
        simp [unhold]
      simp only [HoldOk, this, BundleRun.HoldFields] at h1 ⊢
      simp only [h0] at h1
      split <;> simp_all
    · exact h1.of_run (by simp [unhold, updRun_run, e])

theorem holdOk_enter {s : State} {b c} {f : BundleRun → BundleRun} {ev ev' : Option BundleId} (h : ∀ c, HoldOk ev s c)
    (h1 : (f (s.run b)).state = .held ↔ (f (s.run b)).heldSet ≠ []) (h2 : (f (s.run b)).state = .assembling ↔ ev' = some b)
    (h3 : ∀ c, c ≠ b → (ev = some c ↔ ev' = some c)) (h4 : (f (s.run b)).HoldFields) : HoldOk ev' (s.updRun b f) c := by
  by_cases e : c = b
  · subst e; simp only [HoldOk, updRun_run_self]; exact ⟨h1, h2, h4⟩
  · have := h c; simp only [HoldOk, updRun_run_ne s f e] at this ⊢; rw [← h3 c e]; exact this

theorem reportedSources_ne (a : Assembly) (h : a.headerKind = .event) : reportedSources a ≠ [] := by
  unfold Assembly.headerKind at h
  split at h
  · cases h
  · split at h
    · cases h
    · rename_i h2
      intro h3
      simp only [reportedSources, List.map_eq_nil_iff, List.filter_eq_nil_iff] at h3
      simp only [List.all_eq_true] at h2
      refine h2 fun c hc => by simpa using h3 c hc

/-- The bundle of an EVENT assembly that ended settles by its list. -/
theorem holdOk_settleByList {s : State} {b} (h : ∀ c, HoldOk (some b) s c) (hs : (s.run b).state = .assembling) (c) : HoldOk none (s.settleByList b) c := by
  refine (calm_settleByList s b).holdOk ?_
  have := (h b).1
  rw [hs] at this
  refine holdOk_enter h ?_ ?_ ?_ ⟨fun _ => (h b).2.2.1 (by simp [hs]), fun e => ?_⟩
  · dsimp only; split <;> simpa using this
  · dsimp only; split <;> simp
  · intro c hc; simp [Ne.symm hc]
  · split at e <;> cases e

/-- Whatever the block does, held sets and ASSEMBLING bundles stay in step. -/
theorem Works.holds {s t : State} (h : Works s t) : HoldsInStep s → HoldsInStep t := by
  simp only [holdsInStep_iff]
  induction h with
  | ledger h => rw [eventBundle_congr h.assembly]; exact fun k => ⟨h.holdOk k.1, k.2.of_eq h.assembly⟩
  | trans _ _ a b => exact b ∘ a
  | void s n =>
    intro k
    have e : (s.voidCopy n).eventBundle = s.eventBundle := by unfold voidCopy eventBundle; cases s.assembly <;> rfl
    refine ⟨fun b => ?_, fun a ha hk => ?_⟩
    · rw [e]; exact (k.1 b).of_run (by simp)
    · unfold voidCopy at ha
      cases hs : s.assembly with
      | none => simp [hs] at ha
      | some x => simp only [setAssembly_assembly, hs, Option.map_some, Option.some.injEq] at ha; subst ha; exact k.2 x hs hk
  | resetTally s n =>
    intro k
    have e : (s.resetTally n).eventBundle = s.eventBundle := by unfold State.resetTally eventBundle; cases s.assembly <;> rfl
    refine ⟨fun b => ?_, fun a ha hk => ?_⟩
    · rw [e]; exact (k.1 b).of_run (by simp [State.resetTally])
    · unfold State.resetTally at ha
      cases hs : s.assembly with
      | none => simp [hs] at ha
      | some x => simp only [setAssembly_assembly, hs, Option.map_some, Option.some.injEq] at ha; subst ha; exact k.2 x hs hk
  | startEvent s b t ha hr =>
    intro k
    have e1 : s.eventBundle = none := by simp [eventBundle, ha]
    have e2 : (s.startEvent b t).eventBundle = some b := by simp [eventBundle, State.startEvent]
    rw [e1] at k; rw [e2]
    refine ⟨fun c => ?_, fun a ha _ => ?_⟩
    · unfold State.startEvent
      refine holdOk_enter (ev := none) (fun c => (k.1 c).of_run (by simp [takeRecords_frame])) ?_ ?_ ?_ ⟨fun _ => ?_, nofun⟩
      · have := (k.1 b).1; simpa [hr, takeRecords_frame] using this
      · simp
      · intro c hc; simp [Ne.symm hc]
      · simpa [takeRecords_frame] using (k.1 b).2.2.1 (by simp [hr])
    · simp only [State.startEvent, updRun_assembly, setAssembly_assembly, Option.some.injEq] at ha
      subst ha; exact nextToken_ne _
  | startReminder s b t ha hr =>
    intro k
    have e1 : s.eventBundle = none := by simp [eventBundle, ha]
    have e2 : (s.startReminder b t).eventBundle = none := by simp [eventBundle, State.startReminder]
    rw [e1] at k; rw [e2]
    refine ⟨fun c => ?_, fun a ha hk => ?_⟩
    · unfold State.startReminder
      refine holdOk_enter (ev := none) (fun c => (k.1 c).of_run (by simp)) ?_ ?_ ?_ ⟨fun e => absurd (by simpa using hr) e, ?_⟩
      · have := (k.1 b).1; simpa using this
      · simp [hr]
      · simp
      · simpa using (k.1 b).2.2.2
    · simp only [State.startReminder, updRun_assembly, setAssembly_assembly, Option.some.injEq] at ha
      subst ha; cases hk
  | write s =>
    intro k
    have e : s.issueWrite.eventBundle = s.eventBundle := by
      unfold issueWrite
      cases ha : s.assembly with
      | none => rfl
      | some a => dsimp only; (repeat' split) <;> simp [eventBundle, ha]
    refine ⟨fun b => ?_, ?_⟩
    · rw [e]; exact (k.1 b).of_run (by simp)
    · unfold issueWrite
      split
      · exact k.2
      · rename_i a ha
        dsimp only
        (repeat' split)
        · intro x hx hk
          simp only [issueRequest_assembly, setAssembly_assembly, Option.some.injEq] at hx
          subst hx; exact k.2 a ha hk
        · exact k.2
        · exact k.2.of_eq rfl
  | position s a p ha =>
    intro k
    have e : (s.setAssembly (some { a with position := p })).eventBundle = s.eventBundle := by simp [eventBundle, ha]
    refine ⟨fun b => ?_, fun x hx hk => ?_⟩
    · rw [e]; exact (k.1 b).of_run (by simp)
    · simp only [setAssembly_assembly, Option.some.injEq] at hx
      subst hx; exact k.2 a ha hk
  | commit s a ha =>
    intro k
    have e2 : (((a.copies.foldl reportCopy (s.setAssembly none)).commitTarget a).commitBundle a).eventBundle = none := by simp [eventBundle]
    rw [e2]
    refine ⟨?_, fun x hx => by simp at hx⟩
    have e1 : s.eventBundle = if a.kind = .event then some a.bundle else none := by simp [eventBundle, ha]
    have h1 : ∀ b, HoldOk s.eventBundle (a.copies.foldl reportCopy (s.setAssembly none)) b := fun b => (k.1 b).of_run (by simp)
    have h2 := (ledger_commitTarget _ a).holdOk h1
    generalize (a.copies.foldl reportCopy (s.setAssembly none)).commitTarget a = v at h2
    unfold commitBundle
    refine (ledger_recheckReported _ a).holdOk ?_
    unfold moveBundle
    by_cases hk : a.kind = .event
    · rw [e1, if_pos hk] at h2
      have hs : (v.run a.bundle).state = .assembling := (h2 a.bundle).2.1.2 rfl
      split
      · rename_i hh
        split
        · unfold beginHold
          intro c
          refine (calm_startHold _ _ (by simp [State.setState])).holdOk ((calm_setState _ _ _).holdOk ?_)
          have h3 : (v.updRun a.bundle fun x => { x with token := a.token, heldSet := reportedSources a, remindersPosted := 0, reminderDue := false }).updRun a.bundle (fun x => { x with state := .held }) = v.updRun a.bundle fun x => { x with token := a.token, heldSet := reportedSources a, remindersPosted := 0, reminderDue := false, state := .held } := by
            simp [updRun, State.run]
          rw [h3]
          refine holdOk_enter h2 ?_ ?_ ?_ ⟨fun e => absurd rfl e, fun _ => k.2 a ha hk⟩
          · simpa using reportedSources_ne a hh
          · simp
          · intro c hc; simp [Ne.symm hc]
        · unfold noholdCommit
          refine holdOk_settleByList (fun c => ?_) (by simpa using hs)
          by_cases e : c = a.bundle
          · subst e
            have := h2 a.bundle
            simp only [HoldOk, updRun_run_self]
            exact ⟨this.1, by simpa using hs, this.2.2.1, fun e => by simp [hs] at e⟩
          · exact (h2 c).of_run (updRun_run_ne _ _ e)
      · exact holdOk_settleByList h2 hs
      · rename_i hh
        unfold Assembly.headerKind at hh; rw [hk] at hh; simp only at hh; split at hh <;> cases hh
    · have hk2 : a.kind = .reminder := by cases h : a.kind <;> simp_all
      have : a.headerKind = .reminder := by unfold Assembly.headerKind; rw [hk2]
      rw [e1, if_neg hk] at h2
      simp only [this]
      unfold reminderCommit; intro b
      split
      · rename_i hs
        have hs : (v.run a.bundle).state = .held := by simp [holdStands] at hs; exact hs.1
        exact (calm_startHold _ _ (by simpa using hs)).holdOk
          ((Calm.updRun rfl rfl fun k => ⟨fun e => absurd hs e, k.2⟩).holdOk (h2 b))
      · exact h2 b
  | abort s a ha =>
    intro k
    have e2 : (((a.copies.foldl returnCopy (s.setAssembly none)).abortBundle a).faultTarget a.target .ringWrite).eventBundle = none := by simp [eventBundle]
    rw [e2]
    refine ⟨?_, fun x hx => by simp at hx⟩
    have e1 : s.eventBundle = if a.kind = .event then some a.bundle else none := by simp [eventBundle, ha]
    have h1 : ∀ (cs : List Copy) (u : State), (∀ b, HoldOk s.eventBundle u b) → ∀ b, HoldOk s.eventBundle (cs.foldl returnCopy u) b := by
      intro cs; induction cs with
      | nil => exact fun u h => h
      | cons c cs ih =>
        intro u hu
        refine ih _ ?_
        unfold returnCopy
        split
        · exact hu
        · split
          · exact fun b => (calm_listGained _ _).holdOk (HoldOk.wake (s := u.setRecord c.source _) ((hu b).of_run rfl) _)
          · dsimp only
            split
            · exact fun b => (hu b).of_run rfl
            · exact (ledger_acceptMany _ _ _ _).holdOk fun b => (hu b).of_run rfl
    have h2 := h1 a.copies (s.setAssembly none) (fun b => (k.1 b).of_run rfl)
    generalize a.copies.foldl returnCopy (s.setAssembly none) = v at h2
    refine (ledger_faultTarget _ _ _).holdOk ?_
    unfold abortBundle
    split
    · rename_i hk
      rw [e1, if_pos hk] at h2
      exact holdOk_settleByList h2 ((h2 a.bundle).2.1.2 rfl)
    · rename_i hk
      rw [e1, if_neg (by simp [hk])] at h2
      split
      · rename_i hs
        have hs : (v.run a.bundle).state = .held := by simp [holdStands] at hs; exact hs.1
        exact fun b => (Calm.updRun rfl rfl fun k => ⟨fun e => absurd hs e, k.2⟩).holdOk (h2 b)
      · exact h2
  | reset s =>
    intro k
    have h1 : ∀ b, s.resetBlocks.run b = BundleRun.reset := fun b => by simp [resetBlocks, State.run, State.reset]
    have h2 : s.resetBlocks.eventBundle = none := rfl
    refine ⟨fun b => ?_, fun a ha => by simp [resetBlocks, State.reset] at ha⟩
    rw [h2]; simp [HoldOk, h1, BundleRun.reset, BundleRun.HoldFields]

/-! ### In-flight copies (R37) -/

/-- The sources of the copies in flight. -/
def State.copySources (s : State) : List SourceId := s.copies.map fun c => c.source

theorem copySources_map (s : State) (f : Copy → Copy) (h : ∀ c, (f c).source = c.source) :
    (s.setAssembly (s.assembly.map fun a => { a with copies := a.copies.map f })).copySources = s.copySources := by
  unfold copySources copies
  cases s.assembly <;> simp [h, Function.comp_def]

theorem takeRecords_sources (l : List SourceId) (s : State) : ((takeRecords l s).1.map fun c => c.source).Sublist l := by
  induction l generalizing s with
  | nil => simp [takeRecords]
  | cons n ns ih =>
    unfold takeRecords
    split
    · rename_i c hc
      have : c.source = n := by
        unfold takeCopy at hc
        rw [Option.map_eq_some_iff] at hc
        obtain ⟨r, _, rfl⟩ := hc
        rfl
      simp only [List.map_cons, this]
      exact (ih _).cons_cons n
    · exact (ih _).cons n

/-- Whatever the block does, no source has two copies in flight. -/
theorem Works.copiesDistinct {s t : State} (h : Works s t) : CopiesDistinct s → CopiesDistinct t := by
  have key : ∀ s : State, CopiesDistinct s ↔ s.copySources.Nodup := fun _ => Iff.rfl
  simp only [key]
  induction h with
  | ledger h => simp only [copySources, copies, h.assembly]; exact id
  | trans _ _ a b => exact b ∘ a
  | void s n =>
    have : (s.voidCopy n).copySources = s.copySources :=
      copySources_map (s.updTally n _) _ fun c => by split <;> rfl
    rw [this]; exact id
  | resetTally s n =>
    have : (s.resetTally n).copySources = s.copySources :=
      copySources_map (s.updTally n _) _ fun c => by split <;> rfl
    rw [this]; exact id
  | startEvent s b t ha hr =>
    intro _
    have : (s.startEvent b t).copySources =
        (takeRecords ((s.pendingList b).take (s.assemblySize b t)) (s.takeTurn b)).1.map fun c => c.source := rfl
    rw [this]
    exact ((takeRecords_sources _ _).trans (List.take_sublist _ _)).nodup (pendingList_nodup s b)
  | startReminder s b t ha hr => intro _; simp [copySources, copies, State.startReminder]
  | write s =>
    have : s.issueWrite.copySources = s.copySources := by
      unfold issueWrite
      split
      · rfl
      · rename_i a ha
        dsimp only
        (repeat' split)
        · rename_i c hc
          simp only [copySources, copies, issueRequest_assembly, setAssembly_assembly, ha]
          apply List.ext_getElem (by simp)
          intro i h1 h2
          simp only [List.getElem_map, List.getElem_set]
          split
          · rename_i e
            subst e
            obtain ⟨hl, rfl⟩ := List.getElem?_eq_some_iff.1 hc
            unfold Copy.issued; split <;> rfl
          · rfl
        · rfl
        · simp [copySources, copies]
    rw [this]; exact id
  | position s a p ha =>
    have : (s.setAssembly (some { a with position := p })).copySources = s.copySources := by simp [copySources, copies, ha]
    rw [this]; exact id
  | commit s a ha => intro _; simp [copySources, copies]
  | abort s a ha => intro _; simp [copySources, copies]
  | reset s => intro _; simp [copySources, copies, resetBlocks, State.reset]

end Sys2Proof.Machine
end

