-- ==== Sys2Proof/Laws/Lists.lean ====
section
/-! SUPPORT. Sys2Proof/Laws/Lists.lean: every move keeps each bundle's state in step with its list (R54, R55). -/
namespace Sys2Proof.Machine

open State

/-- A record is routed to the bundle. -/
def Has (s : State) (b : BundleId) : Prop := ∃ n, (s.record n).isSome = true ∧ (s.route n).bundle = some b

theorem nil_iff (s : State) (b) : s.pendingList b = [] ↔ ¬ Has s b := by rw [pendingList_eq_nil]; simp [Has]

/-- One bundle's part of `ListsInStep`. -/
def LI (s : State) (b : BundleId) : Prop := ((s.run b).state = .ready → Has s b) ∧ ((s.run b).state = .idle → ¬ Has s b)
theorem lists_iff (s) : ListsInStep s ↔ ∀ b, LI s b := by simp [ListsInStep, LI, nil_iff]

theorem Calm.has {s t} (h : Calm s t) (b) : Has t b ↔ Has s b := by simp [Has, h.record, h.route]
theorem Calm.li {s t} (h : Calm s t) (b) : LI t b ↔ LI s b := by simp [LI, h.has, h.state]

theorem wake_ready (c s b) : ((wake c s).run b).state = .ready ↔ (s.run b).state = .ready ∨ ((s.run b).state = .idle ∧ c = some b) := by
  unfold wake
  cases c with
  | none => simp
  | some c =>
    by_cases e : b = c
    · subst e; simp only; split <;> simp_all
    · simp only; split <;> simp [updRun_run, e, Ne.symm e]
theorem wake_idle (c s b) : ((wake c s).run b).state = .idle ↔ (s.run b).state = .idle ∧ c ≠ some b := by
  unfold wake
  cases c with
  | none => simp
  | some c =>
    by_cases e : b = c
    · subst e; simp only; split <;> simp_all
    · simp only; split <;> simp [updRun_run, e, Ne.symm e]
theorem sleep_ready (c s b) : ((sleep c s).run b).state = .ready ↔ (s.run b).state = .ready ∧ (c = some b → Has s b) := by
  unfold sleep
  cases c with
  | none => simp
  | some c =>
    by_cases e : b = c
    · subst e; simp only [nil_iff]; by_cases h : (s.run b).state = .ready ∧ s.pendingList b = []
      · rw [if_pos h]; have := h.2; rw [nil_iff] at this; simp [this]
      · rw [if_neg h]; rw [nil_iff] at h; simp; tauto
    · simp only; split <;> simp [updRun_run, e, Ne.symm e]
theorem sleep_idle (c s b) : ((sleep c s).run b).state = .idle ↔ (s.run b).state = .idle ∨ ((s.run b).state = .ready ∧ c = some b ∧ ¬ Has s b) := by
  unfold sleep
  cases c with
  | none => simp
  | some c =>
    by_cases e : b = c
    · subst e; simp only [nil_iff]; by_cases h : (s.run b).state = .ready ∧ s.pendingList b = []
      · rw [if_pos h]; have := h.2; rw [nil_iff] at this; simp [this, h.1]
      · rw [if_neg h]; rw [nil_iff] at h; simp; tauto
    · simp only; split <;> simp [updRun_run, e, Ne.symm e]

theorem has_wake (c s b) : Has (wake c s) b ↔ Has s b := by simp [Has]
theorem has_sleep (c s b) : Has (sleep c s) b ↔ Has s b := by simp [Has]

theorem li_settle {s : State} {b c} (f : BundleRun → BundleRun) (hf : (f (s.run b)).state = if s.pendingList b = [] then .idle else .ready) (h : ∀ c, LI s c) : LI (s.updRun b f) c := by
  have hh : Has (s.updRun b f) c ↔ Has s c := by simp [Has]
  by_cases e : c = b
  · subst e
    simp only [LI, hh, updRun_run_self, hf]
    by_cases hp : s.pendingList c = []
    · simp [hp, (nil_iff _ _).1 hp]
    · rw [nil_iff, not_not] at hp; simp [nil_iff, hp]
  · simpa [LI, hh, updRun_run, e] using h c

/-- The moves of the ledger keep states and lists in step. -/
theorem Ledger.li {s t : State} (h : Ledger s t) : (∀ b, LI s b) → ∀ b, LI t b := by
  induction h with
  | calm h => intro k b; rw [h.li]; exact k b
  | trans _ _ a b => exact b ∘ a
  | @create s t n r f h1 _ _ _ h =>
    intro k b; rw [h.li]
    have hh : Has ((s.setRecord n (some r)).updTally n f) b ↔ Has s b ∨ (s.route n).bundle = some b := by
      simp only [Has, updTally_record, updTally_route, setRecord_record, setRecord_route]
      constructor
      · rintro ⟨m, h, h'⟩
        by_cases e : m = n
        · subst e; exact .inr h'
        · simp [e] at h; exact .inl ⟨m, h, h'⟩
      · rintro (⟨m, h, h'⟩ | h)
        · refine ⟨m, ?_, h'⟩; split <;> simp_all
        · exact ⟨n, by simp, h⟩
    have := k b
    simp only [LI, has_wake, hh, wake_ready, wake_idle, updTally_run, setRecord_run] at this ⊢
    tauto
  | @grow s t n r r' f h1 h2 _ _ h =>
    intro k b; rw [h.li]
    have hh : Has ((s.setRecord n (some r')).updTally n f) b ↔ Has s b := by
      simp only [Has, updTally_record, updTally_route, setRecord_record, setRecord_route]
      refine exists_congr fun m => ?_
      by_cases e : m = n
      · subst e; simp [h1]
      · simp [e]
    simpa [LI, hh] using k b
  | @discard s t n h =>
    intro k b; rw [h.li]
    have hr := record_foldl_clear [n] s
    simp only [List.foldl_cons, List.foldl_nil, List.mem_singleton] at hr
    have hh : Has (s.clearRecord n) b → Has s b := by
      rintro ⟨m, h, h'⟩; rw [hr] at h; refine ⟨m, ?_, by simpa using h'⟩; split at h <;> simp_all
    have hh2 : (s.route n).bundle ≠ some b → Has s b → Has (s.clearRecord n) b := by
      rintro hne ⟨m, h, h'⟩; refine ⟨m, ?_, by simpa using h'⟩
      rw [hr, if_neg]; exact h
      rintro rfl; exact hne h'
    have := k b
    simp only [LI, has_sleep, sleep_ready, sleep_idle, clearRecord_frame] at this ⊢
    tauto
  | @flush s t b0 h =>
    intro k b; rw [h.li]; clear h
    have hr := record_foldl_clear (s.pendingList b0) s
    generalize hu : (s.pendingList b0).foldl (fun u n => u.clearRecord n) s = u at *
    have hroute : ∀ m, u.route m = s.route m := by rw [← hu]; simp
    have hrun : ∀ m, u.run m = s.run m := by rw [← hu]; simp
    have hh : Has u b ↔ Has s b ∧ b ≠ b0 := by
      constructor
      · rintro ⟨m, h, h'⟩
        rw [hr] at h; rw [hroute] at h'
        split at h
        · simp at h
        · rename_i h2
          rw [mem_pendingList] at h2
          exact ⟨⟨m, h, h'⟩, by rintro rfl; exact h2 ⟨h, h'⟩⟩
      · rintro ⟨⟨m, h, h'⟩, hne⟩
        refine ⟨m, ?_, by rw [hroute]; exact h'⟩
        rw [hr, if_neg, h]
        rw [mem_pendingList, h']; rintro ⟨_, e⟩; exact hne (by simpa using e)
    have := k b
    simp only [LI, has_sleep, sleep_ready, sleep_idle, hrun, hh] at this ⊢
    by_cases e : b = b0
    · subst e; simp
    · simp [e, Ne.symm e]; exact this
  | @route s t n e h =>
    intro k b; rw [h.li]; clear h
    have hh : Has (moveRoute n e s) b ↔ (∃ m, m ≠ n ∧ (s.record m).isSome = true ∧ (s.route m).bundle = some b) ∨ ((s.record n).isSome = true ∧ e.bundle = some b) := by
      simp only [Has, moveRoute_frame]
      constructor
      · rintro ⟨m, h, h'⟩
        by_cases em : m = n
        · subst em; simp at h'; exact .inr ⟨h, h'⟩
        · simp [em] at h'; exact .inl ⟨m, em, h, h'⟩
      · rintro (⟨m, em, h, h'⟩ | h)
        · exact ⟨m, h, by simp [em, h']⟩
        · exact ⟨n, h.1, by simp [h.2]⟩
    have hs : Has s b ↔ (∃ m, m ≠ n ∧ (s.record m).isSome = true ∧ (s.route m).bundle = some b) ∨ ((s.record n).isSome = true ∧ (s.route n).bundle = some b) := by
      simp only [Has]
      constructor
      · rintro ⟨m, h, h'⟩
        by_cases em : m = n
        · subst em; exact .inr ⟨h, h'⟩
        · exact .inl ⟨m, em, h, h'⟩
      · rintro (⟨m, em, h, h'⟩ | h)
        · exact ⟨m, h, h'⟩
        · exact ⟨n, h.1, h.2⟩
    have kb := k b
    simp only [LI, hh] at kb ⊢
    rw [hs] at kb
    generalize (∃ m, m ≠ n ∧ (s.record m).isSome = true ∧ (s.route m).bundle = some b) = P at *
    unfold moveRoute at hh ⊢
    split at hh
    · rename_i hc
      rw [if_pos hc]
      simp only [Bool.and_eq_true, bne_iff_ne, ne_eq] at hc
      simp only [has_sleep, has_wake] at hh
      simp only [sleep_ready, sleep_idle, wake_ready, wake_idle, setRoute_run, has_wake, hh, hc.1, true_and]
      simp only [hc.1, true_and] at kb
      have := hc.2
      clear hs hh k
      have h3 : (s.route n).bundle = some b → e.bundle ≠ some b := by intro h h'; exact hc.2 (h.trans h'.symm)
      tauto
    · rename_i hc
      rw [if_neg hc]
      simp only [Bool.and_eq_true, bne_iff_ne, ne_eq, not_and, not_not] at hc
      simp only [setRoute_run]
      by_cases hrec : (s.record n).isSome = true
      · simp [← hc hrec]; simpa using kb
      · simp [hrec] at kb ⊢; simpa using kb
  | @settle s t b0 st _ _ _ _ h1 h2 h =>
    intro k b; rw [h.li]
    have hh : Has (s.updRun b0 fun x => { x with state := st }) b ↔ Has s b := by simp [Has]
    by_cases e : b = b0
    · subst e
      simp only [LI, hh, updRun_run_self]
      simp only [nil_iff, ne_eq, not_not] at h1 h2
      exact ⟨h1, h2⟩
    · simpa [LI, hh, updRun_run, e] using k b
  | @release s t b0 hs h =>
    intro k b; rw [h.li]
    exact li_settle _ rfl k

theorem li_updRun {s : State} {b c} (f : BundleRun → BundleRun) (h1 : (f (s.run b)).state ≠ .ready) (h2 : (f (s.run b)).state ≠ .idle) (h : ∀ c, LI s c) : LI (s.updRun b f) c := by
  have hh : Has (s.updRun b f) c ↔ Has s c := by simp [Has]
  by_cases e : c = b
  · subst e; simp [LI, h1, h2]
  · simpa [LI, hh, updRun_run, e] using h c

theorem li_settleByList {s : State} (b) (k : ∀ c, LI s c) (c) : LI (s.settleByList b) c := by
  rw [(calm_settleByList s b).li]; exact li_settle _ rfl k

/-- Whatever the block does, states and lists stay in step. -/
theorem Works.li {s t : State} (h : Works s t) : (∀ b, LI s b) → ∀ b, LI t b := by
  induction h with
  | ledger h => exact h.li
  | trans _ _ a b => exact b ∘ a
  | void s n => intro k b; simpa [LI, Has] using k b
  | resetTally s n => intro k b; simpa [LI, Has, State.resetTally] using k b
  | startEvent s b0 t ha hr =>
    intro k b
    have ht := takeRecords_frame ((s.pendingList b0).take (s.assemblySize b0 t)) (s.takeTurn b0)
    by_cases e : b = b0
    · subst e
      simp [LI, State.startEvent]
    · have hh : Has (s.startEvent b0 t) b ↔ Has s b := by
        simp only [Has, State.startEvent, updRun_record, updRun_route, setAssembly_record, setAssembly_route, ht, takeTurn_frame]
        refine exists_congr fun m => ?_
        split
        · rename_i hm
          have := (mem_pendingList s b0 m).1 (List.mem_of_mem_take hm)
          simp [this.2, Ne.symm e]
        · rfl
      have hrun : (s.startEvent b0 t).run b = s.run b := by simp [State.startEvent, updRun_run, e, ht]
      simpa [LI, hh, hrun] using k b
  | startReminder s b0 t ha hr =>
    intro k b
    have : Calm (s.setAssembly (s.startReminder b0 t).assembly) (s.startReminder b0 t) := by
      unfold State.startReminder
      refine ⟨by simp, by simp, by simp, by simp, fun c => ?_, fun c => ?_, fun c k => ?_⟩
      · by_cases e : c = b0 <;> simp [updRun_run, e]
      · by_cases e : c = b0 <;> simp [updRun_run, e]
      · by_cases e : c = b0
        · subst e
          exact ⟨fun h => absurd (by simpa using hr) h, by simpa [BundleRun.HoldFields] using k.2⟩
        · simpa [updRun_run, e] using k
    rw [this.li]; simpa [LI, Has] using k b
  | write s => intro k b; simpa [LI, Has] using k b
  | position s a p ha => intro k b; simpa [LI, Has] using k b
  | commit s a ha =>
    intro k
    have h1 : ∀ b, LI (a.copies.foldl reportCopy (s.setAssembly none)) b := by
      intro b; simpa [LI, Has] using k b
    have h2 := (ledger_commitTarget _ a).li h1
    generalize (a.copies.foldl reportCopy (s.setAssembly none)).commitTarget a = v at h2
    refine (ledger_recheckReported _ a).li ?_
    unfold moveBundle
    split
    · split
      · unfold beginHold
        intro b
        rw [(calm_startHold _ _ (by simp [State.setState])).li, (calm_setState _ _ _).li]
        have h3 := fun c => li_updRun (s := (v.updRun a.bundle fun x =>
            { x with token := a.token, heldSet := reportedSources a, remindersPosted := 0, reminderDue := false })) (b := a.bundle) (c := c) (fun x => { x with state := .held }) nofun nofun
        refine h3 b fun c => ?_
        have hh : Has (v.updRun a.bundle fun x =>
            { x with token := a.token, heldSet := reportedSources a, remindersPosted := 0, reminderDue := false }) c ↔ Has v c := by simp [Has]
        have h4 : ((v.updRun a.bundle fun x =>
            { x with token := a.token, heldSet := reportedSources a, remindersPosted := 0, reminderDue := false }).run c).state = (v.run c).state := by
          by_cases e : c = a.bundle <;> simp [updRun_run, e]
        simpa only [LI, hh, h4] using h2 c
      · unfold noholdCommit
        refine li_settleByList _ fun c => ?_
        have hh : Has (v.updRun a.bundle fun x => { x with token := a.token }) c ↔ Has v c := by simp [Has]
        have h4 : ((v.updRun a.bundle fun x => { x with token := a.token }).run c).state = (v.run c).state := by
          by_cases e : c = a.bundle <;> simp [updRun_run, e]
        simpa only [LI, hh, h4] using h2 c
    · exact li_settleByList _ h2
    · unfold reminderCommit; intro b
      split
      · rename_i hs
        have hs : (v.run a.bundle).state = .held := by simp [holdStands] at hs; exact hs.1
        rw [(calm_startHold _ _ (by simpa using hs)).li,
          (Calm.updRun rfl rfl fun k => ⟨fun e => absurd hs e, k.2⟩).li]
        exact h2 b
      · exact h2 b
  | abort s a ha =>
    intro k
    have h1 : ∀ (cs : List Copy) (u : State), (∀ b, LI u b) → ∀ b, LI (cs.foldl returnCopy u) b := by
      intro cs; induction cs with
      | nil => exact fun u h => h
      | cons c cs ih =>
        intro u hu
        refine ih _ ?_
        unfold returnCopy
        split
        · exact hu
        · split
          · rename_i hr
            intro b
            rw [(calm_listGained _ _).li]
            have hh : Has (u.setRecord c.source (some ⟨c.count, c.firstTime, c.lastTime, c.interval, c.detail⟩)) b ↔ Has u b ∨ (u.route c.source).bundle = some b := by
              simp only [Has, setRecord_record, setRecord_route]
              constructor
              · rintro ⟨m, h, h'⟩
                by_cases e : m = c.source
                · subst e; exact .inr h'
                · simp [e] at h; exact .inl ⟨m, h, h'⟩
              · rintro (⟨m, h, h'⟩ | h)
                · refine ⟨m, ?_, h'⟩; split <;> simp_all
                · exact ⟨c.source, by simp, h⟩
            have := hu b
            simp only [LI, has_wake, hh, wake_ready, wake_idle, setRecord_run] at this ⊢
            tauto
          · rename_i r hr
            dsimp only
            have key : ∀ f r', ∀ b, LI ((u.setRecord c.source (some r')).updTally c.source f) b := by
              intro f r' b
              have hh : Has ((u.setRecord c.source (some r')).updTally c.source f) b ↔ Has u b := by
                simp only [Has, updTally_record, updTally_route, setRecord_record, setRecord_route]
                refine exists_congr fun m => ?_
                by_cases e : m = c.source
                · subst e; simp [hr]
                · simp [e]
              simpa [LI, hh] using hu b
            split
            · exact key _ _
            · exact (ledger_acceptMany _ _ _ _).li (key _ _)
    have h2 := h1 a.copies (s.setAssembly none) (fun b => by simpa [LI, Has] using k b)
    refine (ledger_faultTarget _ _ _).li ?_
    unfold abortBundle
    split
    · exact li_settleByList _ h2
    · split
      · rename_i hs
        intro b
        simp only [holdStands, Bool.and_eq_true, beq_iff_eq] at hs
        rw [(Calm.updRun rfl rfl fun k => ⟨fun e => absurd hs.1 e, k.2⟩).li]; exact h2 b
      · exact h2
  | reset s => 
    intro k b
    have h1 : s.resetBlocks.run b = BundleRun.reset := by simp [resetBlocks, State.run, State.reset]
    simp [LI, h1, BundleRun.reset]

end Sys2Proof.Machine
end

