-- ==== Sys2Proof/Laws/Outcomes.lean ====
section
/-! SUPPORT. Sys2Proof/Laws/Outcomes.lean: how a command's outcome is read off its parts: the state after the taking of it, its
completion, and the words OnlyStates and CompletesLast of Safety. -/
namespace Sys2Proof.Machine

open State

/-! ### A command just taken -/

theorem taken_proc (s : State) (r : SlotRead) : (s.taken r).proc = { s.proc with taken := s.proc.taken + 1 } := rfl
theorem taken_requests (s : State) (r : SlotRead) : (s.taken r).requests = s.requests.filter fun q => q.id != r.req := rfl

@[simp] theorem taken_kept (s : State) (r : SlotRead) :
    (s.taken r).pending = s.pending ∧ (s.taken r).timebase = s.timebase ∧ (s.taken r).lines = s.lines ∧
    (s.taken r).routes = s.routes ∧ (s.taken r).intervals = s.intervals ∧ (s.taken r).records = s.records ∧
    (s.taken r).tallies = s.tallies ∧ (s.taken r).bundleConfig = s.bundleConfig ∧ (s.taken r).bundleRun = s.bundleRun ∧
    (s.taken r).assembly = s.assembly ∧ (s.taken r).roundRobin = s.roundRobin ∧ (s.taken r).targets = s.targets ∧
    (s.taken r).enable = s.enable ∧ (s.taken r).setupAddrLo = s.setupAddrLo ∧ (s.taken r).setupAddrHi = s.setupAddrHi ∧
    (s.taken r).staleCount = s.staleCount ∧ (s.taken r).resetting = s.resetting ∧ (s.taken r).nextRequest = s.nextRequest ∧
    (s.taken r).choices = s.choices ∧ (∀ k, (s.taken r).line k = s.line k) ∧ (∀ k, (s.taken r).route k = s.route k) ∧
    (∀ k, (s.taken r).interval k = s.interval k) ∧ (∀ k, (s.taken r).record k = s.record k) ∧
    (∀ k, (s.taken r).tally k = s.tally k) ∧ (∀ k, (s.taken r).config k = s.config k) ∧ (∀ k, (s.taken r).run k = s.run k) ∧
    (∀ k, (s.taken r).target k = s.target k) := by
  simp [State.taken]

/-- What is worked out from the fields that the taking of a command leaves alone. -/
@[simp] theorem taken_views (s : State) (r : SlotRead) :
    (s.taken r).pendingList = s.pendingList ∧ (s.taken r).pendingCount = s.pendingCount ∧ (s.taken r).copies = s.copies ∧
    (s.taken r).inFlightCount = s.inFlightCount ∧ (s.taken r).drained = s.drained ∧ (s.taken r).heldBundles = s.heldBundles ∧
    (s.taken r).levelActive = s.levelActive ∧ (s.taken r).lossFlag = s.lossFlag := by
  refine ⟨?_, ?_, ?_, ?_, ?_, ?_, ?_, ?_⟩ <;> rfl

/-! ### Completing -/

theorem complete_ok (s : State) (c : CmdId) (v : BitVec 64) : s.complete c .ok v = s.pushCompletion ⟨c, .ok, v⟩ := by
  simp [complete, Status.rejected]

/-- A completion that is not a rejection only joins the queue (R139, R141). -/
theorem complete_push (s : State) (c : CmdId) {st : Status} (v : BitVec 64) (h : st.rejected = false) :
    s.complete c st v = s.pushCompletion ⟨c, st, v⟩ := by
  simp [complete, h]

theorem pushCompletion_proc (s : State) (c : Completion) :
    (s.pushCompletion c).proc = { s.proc with completions := s.proc.completions ++ [c] } := by
  simp [pushCompletion]

theorem complete_proc (s : State) (c : CmdId) (st : Status) (v : BitVec 64) :
    (s.complete c st v).proc = { s.proc with completions := s.proc.completions ++ [⟨c, st, v⟩] } := by
  unfold complete
  dsimp only
  split <;> simp [pushCompletion_proc]

theorem completes_complete (s : State) (r : SlotRead) (c : CmdId) (st : Status) (v : BitVec 64) :
    Completes s ((s.taken r).complete c st v) ⟨c, st, v⟩ := by
  rw [Completes, complete_proc, taken_proc]

theorem issues_push (s : State) (r : SlotRead) (c : Completion) :
    Issues s ((s.taken r).pushCompletion c) r.req [.completionWrite] := by
  unfold Issues pushCompletion issueCompletion
  split
  · split
    · exact ⟨[], by simp [taken_requests], by simp⟩
    · exact ⟨[⟨_, .completionWrite, _, _, _⟩], rfl, by simp⟩
  · exact ⟨[], by simp [taken_requests], by simp⟩

theorem only_push (s : State) (r : SlotRead) (c : Completion) : OnlyCommandPath s ((s.taken r).pushCompletion c) := by
  simp [OnlyCommandPath, fieldSide, accounts, bundles, assembler, window, own]

/-! ### Completions after those of deferred commands -/

/-- Nothing was taken, and completions joined the queue behind those of `s`. -/
def Appends (s t : State) : Prop :=
  t.proc.taken = s.proc.taken ∧ ∃ ended, t.proc.completions = s.proc.completions ++ ended

namespace Appends

theorem refl (s : State) : Appends s s := ⟨rfl, [], by simp⟩

theorem of_eq {s t : State} (h : t.proc = s.proc) : Appends s t := by
  rw [Appends, h]
  exact ⟨rfl, [], by simp⟩

theorem trans {s t u : State} (h : Appends s t) (k : Appends t u) : Appends s u := by
  obtain ⟨h1, l, h2⟩ := h
  obtain ⟨k1, m, k2⟩ := k
  exact ⟨k1.trans h1, l ++ m, by rw [k2, h2, List.append_assoc]⟩

theorem push (s : State) (c : Completion) : Appends s (s.pushCompletion c) :=
  ⟨by simp [pushCompletion], [c], by simp [pushCompletion]⟩

theorem sweep (s : State) (gone : Option TargetId) (h : Nat) (met : List TargetId) : Appends s (s.sweepDeferredFor gone h met) := by
  have k : ∀ (l : List Completion) (u : State), Appends u (l.foldl (fun u c => u.pushCompletion c) u) := by
    intro l
    induction l with
    | nil => exact Appends.refl
    | cons c l ih => exact fun u => (push u c).trans (ih _)
  unfold sweepDeferredFor
  exact Appends.trans (t := s.updProc _) ⟨rfl, [], by simp⟩ (k _ _)

theorem listLost (s : State) (b : Option BundleId) : Appends s (s.listLost b) := by
  unfold State.listLost
  split
  · split
    · exact (Appends.of_eq (by simp)).trans (sweep _ _ _ _)
    · exact refl s
  · exact refl s

theorem discardSource (s : State) (n : SourceId) : Appends s (s.discardSource n) := by
  unfold State.discardSource discardRecord
  split
  · exact ((Appends.of_eq (t := s.clearRecord n) (by simp)).trans (listLost _ (s.route n).bundle)).trans
      (.of_eq (t := ((s.clearRecord n).listLost (s.route n).bundle).voidCopy n) (by simp))
  · exact .of_eq (by simp)

/-- What a command did before it completed may have ended deferred commands. -/
theorem last {s u : State} {r : SlotRead} (h : Appends (s.taken r) u) (c : CmdId) (st : Status) (v : BitVec 64) :
    CompletesLast s (u.complete c st v) ⟨c, st, v⟩ := by
  obtain ⟨h1, l, h2⟩ := h
  exact ⟨by rw [complete_proc]; exact h1, l, by rw [complete_proc, h2]; rfl⟩

end Appends

/-! ### TALLY_RESET of several sources (R49) -/

theorem resetTally_copies (s : State) (n : SourceId) :
    (s.resetTally n).copies = s.copies.map fun c => if c.source = n then { c with lossFlag := false, takenLoss := 0 } else c := by
  unfold copies resetTally
  cases s.assembly <;> simp

theorem resetTally_inFlightCount (s : State) (n m : SourceId) : (s.resetTally n).inFlightCount m = s.inFlightCount m := by
  have h : ∀ cs : List Copy, inFlightCountIn m
      (cs.map fun c => if c.source = n then { c with lossFlag := false, takenLoss := 0 } else c) = inFlightCountIn m cs := by
    intro cs
    induction cs with
    | nil => rfl
    | cons c cs ih =>
      simp only [List.map_cons, inFlightCountIn, ih]
      split <;> split <;> simp_all [Copy.inFlightCount]
  rw [inFlightCount, resetTally_copies, h, inFlightCount]

theorem resetTally_pendingCount (s : State) (n m : SourceId) : (s.resetTally n).pendingCount m = s.pendingCount m := by
  simp [pendingCount, resetTally]

theorem foldl_resetTally_accounts (l : List SourceId) (s : State) :
    (∀ n, (l.foldl resetTally s).tally n =
      if n ∈ l then ⟨BitVec.ofNat 32 (s.pendingCount n + s.inFlightCount n), 0, 0, 0, 0⟩ else s.tally n) ∧
    (l.foldl resetTally s).copies =
      s.copies.map fun c => if c.source ∈ l then { c with lossFlag := false, takenLoss := 0 } else c := by
  induction l generalizing s with
  | nil => simp
  | cons m l ih =>
    obtain ⟨h1, h2⟩ := ih (s.resetTally m)
    refine ⟨fun n => ?_, ?_⟩
    · rw [List.foldl_cons, h1, resetTally_pendingCount, resetTally_inFlightCount]
      by_cases e : n = m
      · subst e
        simp [resetTally]
      · simp [e, resetTally, updTally_tally]
    · rw [List.foldl_cons, h2, resetTally_copies, List.map_map]
      refine List.map_congr_left fun c _ => ?_
      simp only [Function.comp]
      by_cases e : c.source = m
      · simp [e]
      · simp [e]

/-! ### Bundles that change their state only -/

namespace OnlyStates

theorem refl (s : State) : OnlyStates s s := ⟨rfl, fun _ => rfl⟩

theorem of_eq {s t : State} (h1 : t.bundleConfig = s.bundleConfig) (h2 : t.bundleRun = s.bundleRun) : OnlyStates s t :=
  ⟨h1, fun b => by simp [run, h2]⟩

theorem trans {s t u : State} (h : OnlyStates s t) (k : OnlyStates t u) : OnlyStates s u := by
  refine ⟨k.1.trans h.1, fun b => ?_⟩
  have h2 := h.2 b
  have k2 := k.2 b
  rw [← h2, ← k2]

theorem setState (s : State) (b : BundleId) (st : BundleState) : OnlyStates s (s.setState b st) := by
  refine ⟨by simp, fun c => ?_⟩
  have h : (s.setState b st).run c = (s.updRun b fun x => { x with state := st }).run c := by simp [State.setState]
  rw [h, updRun_run]
  split
  · rename_i e
    subst e
    rfl
  · rfl

theorem listLost (s : State) (b : Option BundleId) : OnlyStates s (s.listLost b) := by
  unfold State.listLost
  split
  · split
    · rename_i c _
      exact (OnlyStates.setState s c .idle).trans (of_eq (t := (s.setState c .idle).sweepDeferred) (by simp) (by simp))
    · exact refl s
  · exact refl s

theorem listGained (s : State) (b : Option BundleId) : OnlyStates s (s.listGained b) := by
  unfold State.listGained
  split
  · split
    · exact OnlyStates.setState s _ _
    · exact refl s
  · exact refl s

/-- An arrival changes the states of bundles at most. -/
theorem accept (s : State) (n : SourceId) (d : Option Half) : OnlyStates s (s.accept n d) := by
  refine ⟨by simp, fun b => ?_⟩
  rcases woken_accept s n d b with h | ⟨_, h⟩ <;> rw [h]

theorem discardSource (s : State) (n : SourceId) : OnlyStates s (s.discardSource n) := by
  unfold State.discardSource discardRecord
  split
  · exact ((OnlyStates.of_eq (s := s) (t := s.clearRecord n) (by simp) (by simp)).trans
      (OnlyStates.listLost _ (s.route n).bundle)).trans
      (of_eq (t := ((s.clearRecord n).listLost (s.route n).bundle).voidCopy n) (by simp) (by simp))
  · exact of_eq (by simp) (by simp)

end OnlyStates

end Sys2Proof.Machine
end

