-- ==== Sys2Proof/Laws/PerInstr.lean ====
section
/-! SUPPORT. Sys2Proof/Laws/PerInstr.lean: the family Slot: for each row, the command slot that spells it reads back as it. -/
namespace Sys2Proof.Laws.Slot

open Sys2Proof.Machine (leBytes leNat field padTo bit zeros)

/-- The 32 bytes of a command's slot spell that command again (R164, command slot table). -/
def Statement (i : Instr) : Prop :=
  i.wellFormed = true → ∀ req slot, encodeSlot i = some (req, slot) → slot.length = 32 ∧ decodeSlot req slot = some i

/-! ### Fields read back -/

theorem readByte (x : Byte) : BitVec.ofNat 8 (leNat [x]) = x := by
  apply BitVec.eq_of_toNat_eq
  have := x.isLt
  simp only [leNat, BitVec.toNat_ofNat]
  omega

theorem readHalf (x : Half) : BitVec.ofNat 16 (leNat [x.setWidth 8, BitVec.ofNat 8 (x.toNat / 256)]) = x := by
  apply BitVec.eq_of_toNat_eq
  have := x.isLt
  simp only [leNat, BitVec.toNat_ofNat, BitVec.toNat_setWidth]
  omega

theorem readWord (x : Word) : BitVec.ofNat 32 (leNat [x.setWidth 8, BitVec.ofNat 8 (x.toNat / 256),
    BitVec.ofNat 8 (x.toNat / 256 / 256), BitVec.ofNat 8 (x.toNat / 256 / 256 / 256)]) = x := by
  apply BitVec.eq_of_toNat_eq
  have := x.isLt
  simp only [leNat, BitVec.toNat_ofNat, BitVec.toNat_setWidth]
  omega

theorem readQuad (x : BitVec 64) : BitVec.ofNat 64 (leNat [x.setWidth 8, BitVec.ofNat 8 (x.toNat / 256),
    BitVec.ofNat 8 (x.toNat / 256 / 256), BitVec.ofNat 8 (x.toNat / 256 / 256 / 256),
    BitVec.ofNat 8 (x.toNat / 256 / 256 / 256 / 256), BitVec.ofNat 8 (x.toNat / 256 / 256 / 256 / 256 / 256),
    BitVec.ofNat 8 (x.toNat / 256 / 256 / 256 / 256 / 256 / 256),
    BitVec.ofNat 8 (x.toNat / 256 / 256 / 256 / 256 / 256 / 256 / 256)]) = x := by
  apply BitVec.eq_of_toNat_eq
  have := x.isLt
  simp only [leNat, BitVec.toNat_ofNat, BitVec.toNat_setWidth]
  omega

theorem readFlag (b : Bool) : (BitVec.ofNat 8 (bit b 0))[0] = b := by cases b <;> rfl

/-- A slot has 32 bytes when its arguments fit. -/
theorem slotBytes_length (kind : Byte) (r : SlotRead) (args : List Byte) (h : args.length ≤ 28) : (slotBytes kind r args).length = 32 := by
  simp only [slotBytes, padTo, leBytes, zeros, List.length_append, List.length_cons, List.length_nil, List.length_replicate]
  omega

theorem of_slot {i : Instr} {req : Nat} {slot : List Byte} (he : encodeSlot i = some (req, slot)) (hl : slot.length = 32)
    (hd : decodeSlot req slot = some i) : Statement i := by
  rintro - req' slot' h
  rw [he, Option.some.injEq, Prod.mk.injEq] at h
  obtain ⟨rfl, rfl⟩ := h
  exact ⟨hl, hd⟩

/-- A row that no slot spells. -/
theorem of_none {i : Instr} (h : encodeSlot i = none) : Statement i := by
  rintro - req slot he
  rw [h] at he
  cases he

/-! ### The rows -/

set_option linter.unusedSimpArgs false

theorem sampledLevelChange (line : LineId) : Statement (.sampledLevelChange line) := of_none rfl
theorem qualificationExpiry (line : LineId) : Statement (.qualificationExpiry line) := of_none rfl
theorem timebaseWrap : Statement .timebaseWrap := of_none rfl

theorem nop (r : SlotRead) : Statement (.nop r) :=
  of_slot rfl (slotBytes_length _ _ _ (by simp [leBytes])) (by
    simp [decodeSlot, slotBytes, padTo, leBytes, zeros, slotField, field, List.replicate_succ, readByte, readHalf, readWord, readQuad,
      readFlag])

theorem badKind (r : SlotRead) (kind : Byte) : Statement (.badKind r kind) := by
  intro hw
  have hk := hw
  simp only [Instr.wellFormed, kindCodes, List.contains_cons, List.contains_nil, Bool.or_false, Bool.not_eq_true', Bool.or_eq_false_iff,
    beq_eq_false_iff_ne, BitVec.ofNat_eq_ofNat, ne_eq] at hw
  refine of_slot rfl (slotBytes_length _ _ _ (by simp)) ?_ hk
  simp [decodeSlot, slotBytes, padTo, leBytes, zeros, slotField, field, List.replicate_succ, readByte, readHalf, readFlag, hw]

theorem raise (r : SlotRead) (source : Half) (count : Byte) (hasArgument : Bool) (argument : Half) :
    Statement (.raise r source count hasArgument argument) :=
  of_slot rfl (slotBytes_length _ _ _ (by simp [leBytes])) (by
    simp [decodeSlot, slotBytes, padTo, leBytes, zeros, slotField, field, List.replicate_succ, readByte, readHalf, readWord, readQuad,
      readFlag])

theorem timeSet (r : SlotRead) (value : BitVec 64) : Statement (.timeSet r value) :=
  of_slot rfl (slotBytes_length _ _ _ (by simp [leBytes])) (by
    simp [decodeSlot, slotBytes, padTo, leBytes, zeros, slotField, field, List.replicate_succ, readByte, readHalf, readWord, readQuad,
      readFlag])

theorem timeRead (r : SlotRead) : Statement (.timeRead r) :=
  of_slot rfl (slotBytes_length _ _ _ (by simp [leBytes])) (by
    simp [decodeSlot, slotBytes, padTo, leBytes, zeros, slotField, field, List.replicate_succ, readByte, readHalf, readWord, readQuad,
      readFlag])

theorem routeSet (r : SlotRead) (source : Half) (enabled trigger : Byte) (filter : Half) (bundle rank : Byte) (discard : Bool) :
    Statement (.routeSet r source enabled trigger filter bundle rank discard) :=
  of_slot rfl (slotBytes_length _ _ _ (by simp [leBytes])) (by
    simp [decodeSlot, slotBytes, padTo, leBytes, zeros, slotField, field, List.replicate_succ, readByte, readHalf, readWord, readQuad,
      readFlag])

theorem routeRead (r : SlotRead) (source : Half) (reply : Addr) : Statement (.routeRead r source reply) :=
  of_slot rfl (slotBytes_length _ _ _ (by simp [leBytes])) (by
    simp [decodeSlot, slotBytes, padTo, leBytes, zeros, slotField, field, List.replicate_succ, readByte, readHalf, readWord, readQuad,
      readFlag])

theorem sourceClear (r : SlotRead) (source : Half) : Statement (.sourceClear r source) :=
  of_slot rfl (slotBytes_length _ _ _ (by simp [leBytes])) (by
    simp [decodeSlot, slotBytes, padTo, leBytes, zeros, slotField, field, List.replicate_succ, readByte, readHalf, readWord, readQuad,
      readFlag])

theorem tallyReset (r : SlotRead) (source : Half) : Statement (.tallyReset r source) :=
  of_slot rfl (slotBytes_length _ _ _ (by simp [leBytes])) (by
    simp [decodeSlot, slotBytes, padTo, leBytes, zeros, slotField, field, List.replicate_succ, readByte, readHalf, readWord, readQuad,
      readFlag])

theorem bundleSet (r : SlotRead) (bundle enabled target mode sweepLimit urgent hold reminderLimit : Byte) (holdTimeout : Half) :
    Statement (.bundleSet r bundle enabled target mode sweepLimit urgent hold reminderLimit holdTimeout) :=
  of_slot rfl (slotBytes_length _ _ _ (by simp [leBytes])) (by
    simp [decodeSlot, slotBytes, padTo, leBytes, zeros, slotField, field, List.replicate_succ, readByte, readHalf, readWord, readQuad,
      readFlag])

theorem bundleRead (r : SlotRead) (bundle : Byte) (capacity : Half) (reply : Addr) :
    Statement (.bundleRead r bundle capacity reply) :=
  of_slot rfl (slotBytes_length _ _ _ (by simp [leBytes])) (by
    simp [decodeSlot, slotBytes, padTo, leBytes, zeros, slotField, field, List.replicate_succ, readByte, readHalf, readWord, readQuad,
      readFlag])

theorem bundleFlush (r : SlotRead) (bundle : Byte) : Statement (.bundleFlush r bundle) :=
  of_slot rfl (slotBytes_length _ _ _ (by simp [leBytes])) (by
    simp [decodeSlot, slotBytes, padTo, leBytes, zeros, slotField, field, List.replicate_succ, readByte, readHalf, readWord, readQuad,
      readFlag])

theorem ack (r : SlotRead) (bundle : Byte) (token : Half) : Statement (.ack r bundle token) :=
  of_slot rfl (slotBytes_length _ _ _ (by simp [leBytes])) (by
    simp [decodeSlot, slotBytes, padTo, leBytes, zeros, slotField, field, List.replicate_succ, readByte, readHalf, readWord, readQuad,
      readFlag])

theorem targetAttach (r : SlotRead) (pollInterval holdoff : Half) (descriptor : BitVec 64) (offset signalData : Word) (signalAddress : Addr) :
    Statement (.targetAttach r pollInterval holdoff descriptor offset signalData signalAddress) :=
  of_slot rfl (slotBytes_length _ _ _ (by simp [leBytes])) (by
    simp [decodeSlot, slotBytes, padTo, leBytes, zeros, slotField, field, List.replicate_succ, readByte, readHalf, readWord, readQuad,
      readFlag])

theorem targetDetach (r : SlotRead) (target : Byte) : Statement (.targetDetach r target) :=
  of_slot rfl (slotBytes_length _ _ _ (by simp [leBytes])) (by
    simp [decodeSlot, slotBytes, padTo, leBytes, zeros, slotField, field, List.replicate_succ, readByte, readHalf, readWord, readQuad,
      readFlag])

theorem targetQuiesce (r : SlotRead) (target : Byte) : Statement (.targetQuiesce r target) :=
  of_slot rfl (slotBytes_length _ _ _ (by simp [leBytes])) (by
    simp [decodeSlot, slotBytes, padTo, leBytes, zeros, slotField, field, List.replicate_succ, readByte, readHalf, readWord, readQuad,
      readFlag])

theorem targetResume (r : SlotRead) (target : Byte) : Statement (.targetResume r target) :=
  of_slot rfl (slotBytes_length _ _ _ (by simp [leBytes])) (by
    simp [decodeSlot, slotBytes, padTo, leBytes, zeros, slotField, field, List.replicate_succ, readByte, readHalf, readWord, readQuad,
      readFlag])

theorem targetRead (r : SlotRead) (target : Byte) (reply : Addr) : Statement (.targetRead r target reply) :=
  of_slot rfl (slotBytes_length _ _ _ (by simp [leBytes])) (by
    simp [decodeSlot, slotBytes, padTo, leBytes, zeros, slotField, field, List.replicate_succ, readByte, readHalf, readWord, readQuad,
      readFlag])

theorem drain (r : SlotRead) (target : Byte) (timeout : Half) : Statement (.drain r target timeout) :=
  of_slot rfl (slotBytes_length _ _ _ (by simp [leBytes])) (by
    simp [decodeSlot, slotBytes, padTo, leBytes, zeros, slotField, field, List.replicate_succ, readByte, readHalf, readWord, readQuad,
      readFlag])

theorem fence (r : SlotRead) : Statement (.fence r) :=
  of_slot rfl (slotBytes_length _ _ _ (by simp [leBytes])) (by
    simp [decodeSlot, slotBytes, padTo, leBytes, zeros, slotField, field, List.replicate_succ, readByte, readHalf, readWord, readQuad,
      readFlag])

theorem abort (r : SlotRead) (tag : Half) : Statement (.abort r tag) :=
  of_slot rfl (slotBytes_length _ _ _ (by simp [leBytes])) (by
    simp [decodeSlot, slotBytes, padTo, leBytes, zeros, slotField, field, List.replicate_succ, readByte, readHalf, readWord, readQuad,
      readFlag])

theorem commandTake : Statement .commandTake := of_none rfl
theorem commandReadRefused (req : Nat) : Statement (.commandReadRefused req) := of_none rfl
theorem replyWriteAnswer (req : Nat) (answer : WriteAnswer) : Statement (.replyWriteAnswer req answer) := of_none rfl
theorem targetAttachReadAnswer (req : Nat) (answer : ReadAnswer) : Statement (.targetAttachReadAnswer req answer) := of_none rfl
theorem drainTimerExpiry (entry : Fin 4) : Statement (.drainTimerExpiry entry) := of_none rfl
theorem completionWriteAnswer (req : Nat) (answer : WriteAnswer) : Statement (.completionWriteAnswer req answer) := of_none rfl
theorem completionSignalAnswer (req : Nat) (answer : WriteAnswer) : Statement (.completionSignalAnswer req answer) := of_none rfl
theorem completionConsumerReadAnswer (req : Nat) (answer : ReadAnswer) :
    Statement (.completionConsumerReadAnswer req answer) := of_none rfl
theorem setupReadAnswer (req : Nat) (answer : SetupAnswer) : Statement (.setupReadAnswer req answer) := of_none rfl
theorem enable (value : Bool) : Statement (.enable value) := of_none rfl
theorem deviceReset : Statement .deviceReset := of_none rfl
theorem cmdRestart : Statement .cmdRestart := of_none rfl
theorem restartDrainComplete : Statement .restartDrainComplete := of_none rfl
theorem clearCounts : Statement .clearCounts := of_none rfl
theorem cmdProducer (value : Word) : Statement (.cmdProducer value) := of_none rfl
theorem attentionRefresh (target : BitVec 4) : Statement (.attentionRefresh target) := of_none rfl
theorem attentionRearm (target : BitVec 4) (refresh : Bool) : Statement (.attentionRearm target refresh) := of_none rfl
theorem cplRefresh : Statement .cplRefresh := of_none rfl
theorem ackPort (bundle : Byte) (token : Half) : Statement (.ackPort bundle token) := of_none rfl
theorem registerWrite (offset : Nat) (bits : Nat) (value : Word) : Statement (.registerWrite offset bits value) := of_none rfl
theorem linkLoss : Statement .linkLoss := of_none rfl
theorem powerOn : Statement .powerOn := of_none rfl
theorem resetEnd : Statement .resetEnd := of_none rfl
theorem drainedAnswerDiscard (req : Nat) : Statement (.drainedAnswerDiscard req) := of_none rfl
theorem hostRequestTimeout (req : Nat) : Statement (.hostRequestTimeout req) := of_none rfl
theorem lateAnswerDiscard (req : Nat) : Statement (.lateAnswerDiscard req) := of_none rfl
theorem eventAssemblyStart : Statement .eventAssemblyStart := of_none rfl
theorem reminderAssemblyStart : Statement .reminderAssemblyStart := of_none rfl
theorem firstWriteIssue : Statement .firstWriteIssue := of_none rfl
theorem entryWriteDone (req : Nat) : Statement (.entryWriteDone req) := of_none rfl
theorem commit (req : Nat) : Statement (.commit req) := of_none rfl
theorem assemblyAbort (req : Nat) : Statement (.assemblyAbort req) := of_none rfl
theorem holdTimerExpiry (bundle : BundleId) : Statement (.holdTimerExpiry bundle) := of_none rfl
theorem consumerWordReadAnswer (req : Nat) (answer : ReadAnswer) : Statement (.consumerWordReadAnswer req answer) := of_none rfl
theorem pollTimerExpiry (target : TargetId) : Statement (.pollTimerExpiry target) := of_none rfl
theorem holdoffTimerExpiry (target : TargetId) : Statement (.holdoffTimerExpiry target) := of_none rfl
theorem signalWriteAnswer (req : Nat) (answer : WriteAnswer) : Statement (.signalWriteAnswer req answer) := of_none rfl

end Sys2Proof.Laws.Slot
end

