-- ==== Sys2Proof/Laws/Tidy.lean ====
section
/-! SUPPORT. Sys2Proof/Laws/Tidy.lean: what every operation keeps of the request records and the tables: `Tidy s t`, one lemma per
operation. -/
namespace Sys2Proof.Machine

open State

set_option Elab.async false

/-- What the room in a ring depends on (R114). -/
def Target.ring (x : Target) : Bool × Nat × Word × Word := (x.state == .detached, x.ringSize, x.produced, x.consumed)

/-- What an assembly in flight reserves (R77). -/
def Assembly.shape (a : Assembly) : TargetId × Word × Nat := (a.target, a.base, a.copies.length)

/-- No ring, no reservation and no attach in hand changed, but that the hand may have been emptied. -/
structure SameRings (s t : State) : Prop where
  ring : ∀ k, (t.target k).ring = (s.target k).ring
  shape : t.assembly.map Assembly.shape = s.assembly.map Assembly.shape
  hand : ∀ c a, t.proc.hand = some (.attach c a) → s.proc.hand = some (.attach c a)

theorem Target.ring_eq {x y : Target} (h : x.ring = y.ring) :
    (x.state = .detached ↔ y.state = .detached) ∧ x.ringSize = y.ringSize ∧ x.produced = y.produced ∧ x.consumed = y.consumed ∧
      x.unread = y.unread := by
  simp only [Target.ring, Prod.mk.injEq] at h
  obtain ⟨h1, h2, h3, h4⟩ := h
  refine ⟨?_, h2, h3, h4, by simp [Target.unread, h3, h4]⟩
  have e1 : (x.state == .detached) = true ↔ x.state = .detached := beq_iff_eq
  have e2 : (y.state == .detached) = true ↔ y.state = .detached := beq_iff_eq
  rw [← e1, ← e2, h1]

theorem SameRings.keep {s t : State} (h : SameRings s t) (k : RingsInRange s) : RingsInRange t := by
  refine ⟨fun i => ?_, fun a ha => ?_, fun c a ha => ?_⟩
  · obtain ⟨e1, e2, _, _, e5⟩ := Target.ring_eq (h.ring i)
    rw [e2, e5, ne_eq, e1]
    exact k.1 i
  · have hs := h.shape
    rw [ha] at hs
    cases hb : s.assembly with
    | none => simp [hb] at hs
    | some b =>
      simp only [hb, Option.map_some, Option.some.injEq, Assembly.shape, Prod.mk.injEq] at hs
      obtain ⟨s1, s2, s3⟩ := hs
      have hk := k.2.1 b hb
      obtain ⟨e1, e2, e3, _, e5⟩ := Target.ring_eq (h.ring a.target)
      rw [e2, e5, e3, ne_eq, e1, s1, s2, s3]
      exact hk
  · have hk := k.2.2 c a (h.hand c a ha)
    exact ⟨(Target.ring_eq (h.ring a.target)).1.2 hk.1, hk.2⟩

/-- From `s` to `t`, one request of each issuer that looks first stays one (R151), and the tables stay within bounds (R97, R144). -/
structure Counted (s t : State) : Prop where
  one : OneRequestEach s → OneRequestEach t
  bound : TablesBounded s → TablesBounded t

/-- From `s` to `t`, the requests and tables stay counted, and the rings stay in range (R114). -/
structure Tidy (s t : State) : Prop extends Counted s t where
  rings : RingsInRange s → RingsInRange t

theorem Counted.refl (s : State) : Counted s s := ⟨id, id⟩

theorem Counted.trans {s t u : State} (h : Counted s t) (k : Counted t u) : Counted s u := ⟨k.1 ∘ h.1, k.2 ∘ h.2⟩

namespace Tidy

theorem refl (s : State) : Tidy s s := ⟨.refl s, id⟩

theorem trans {s t u : State} (h : Tidy s t) (k : Tidy t u) : Tidy s u := ⟨h.1.trans k.1, k.2 ∘ h.2⟩

/-- No request came or went, the deferred table did not grow, the stale count is the same, and so are the rings. -/
theorem of_eq {s t : State} (h1 : t.requests = s.requests) (h2 : t.proc.deferred.length ≤ s.proc.deferred.length)
    (h3 : t.staleCount = s.staleCount) (h4 : SameRings s t := by exact ⟨fun _ => rfl, rfl, fun _ _ => id⟩) : Tidy s t :=
  ⟨⟨fun k who hw => by simpa [outstanding, h1] using k who hw, fun k => ⟨Nat.le_trans h2 k.1, h3 ▸ k.2⟩⟩, h4.keep⟩

theorem updProc (s : State) (f : Processor → Processor) (h : (f s.proc).deferred.length ≤ s.proc.deferred.length)
    (hh : ∀ c a, (f s.proc).hand = some (.attach c a) → s.proc.hand = some (.attach c a) := by first | exact fun _ _ => id | exact nofun) :
    Tidy s (s.updProc f) := of_eq rfl h rfl ⟨fun _ => rfl, rfl, hh⟩

theorem foldl {α : Type} {f : State → α → State} (h : ∀ u a, Tidy u (f u a)) (l : List α) (s : State) : Tidy s (l.foldl f s) := by
  induction l generalizing s with
  | nil => exact refl s
  | cons a l ih => exact (h s a).trans (ih _)

end Tidy

/-! ### Requests -/

theorem inFlight_iff (s : State) (who : Issuer) : s.inFlight who = true ↔ s.outstanding who ≠ 0 := by
  simp [inFlight, outstanding, List.countP_eq_zero]

theorem outstanding_eq_zero (s : State) (who : Issuer) : s.inFlight who = false ↔ s.outstanding who = 0 := by
  have := inFlight_iff s who
  cases h : s.inFlight who <;> simp_all

theorem outstanding_issueRequest (s : State) (who w : Issuer) (a : Addr) (k : Access) :
    (s.issueRequest w a k).outstanding who = s.outstanding who + if w = who then 1 else 0 := by
  simp [outstanding, List.countP_append, List.countP_cons]

/-- An issuer that looks first finds none of its own in flight. -/
theorem tidy_issueRequest (s : State) (w : Issuer) (a : Addr) (k : Access) (h : w.oneAtATime = true → s.inFlight w = false) :
    Tidy s (s.issueRequest w a k) := by
  refine ⟨⟨fun o who hw => ?_, id⟩, (⟨fun _ => rfl, rfl, fun _ _ => id⟩ : SameRings _ _).keep⟩
  rw [outstanding_issueRequest]
  split
  · rename_i e
    subst e
    have := (outstanding_eq_zero s w).1 (h hw)
    omega
  · exact o who hw

theorem outstanding_endRequest_le (s : State) (id : Nat) (who : Issuer) : (s.endRequest id).outstanding who ≤ s.outstanding who := by
  unfold outstanding
  exact List.Sublist.countP_le List.filter_sublist

theorem tidy_endRequest (s : State) (id : Nat) : Tidy s (s.endRequest id) :=
  ⟨⟨fun o who hw => Nat.le_trans (outstanding_endRequest_le s id who) (o who hw), fun k => k⟩, fun k => k⟩

/-- The end of a request leaves its issuer with one request less. -/
theorem outstanding_endRequest_lt (s : State) (id : Nat) (r : Request) (h : s.requestOf id = some r) :
    (s.endRequest id).outstanding r.issuer < s.outstanding r.issuer := by
  unfold requestOf at h
  have hid := List.find?_some h
  have hmem := List.mem_of_find?_eq_some h
  simp only [outstanding, endRequest_requests]
  generalize s.requests = l at hmem ⊢
  clear h
  induction l with
  | nil => cases hmem
  | cons x l ih =>
    rcases List.mem_cons.1 hmem with rfl | hm
    · have : (l.filter fun r => r.id != id).countP (fun q => q.issuer == r.issuer) ≤ l.countP fun q => q.issuer == r.issuer :=
        List.Sublist.countP_le List.filter_sublist
      simp only [beq_iff_eq] at hid
      rw [List.filter_cons_of_neg (by simp [hid]), List.countP_cons_of_pos (by simp)]
      omega
    · have := ih hm
      by_cases hx : x.id = id
      · rw [List.filter_cons_of_neg (by simp [hx]), List.countP_cons]; omega
      · rw [List.filter_cons_of_pos (by simp [hx]), List.countP_cons, List.countP_cons]; omega

/-! ### Space wanted and completions -/

theorem counted_updTarget (s : State) (t : TargetId) (f : Target → Target) : Counted s (s.updTarget t f) :=
  ⟨fun k who hw => by simpa [outstanding] using k who hw, fun k => k⟩

/-- A target's other fields. -/
theorem tidy_updTarget (s : State) (t : TargetId) (f : Target → Target)
    (h : (f (s.target t)).ring = (s.target t).ring := by rfl) : Tidy s (s.updTarget t f) :=
  .of_eq rfl (Nat.le_refl _) rfl ⟨fun k => by
    rw [updTarget_target]
    split
    · rename_i e
      rw [h, e]
    · rfl, rfl, fun _ _ => id⟩

theorem tidy_updRun (s : State) (b : BundleId) (f : BundleRun → BundleRun) : Tidy s (s.updRun b f) := .of_eq rfl (Nat.le_refl _) rfl
theorem tidy_updTally (s : State) (n : SourceId) (f : Tallies → Tallies) : Tidy s (s.updTally n f) := .of_eq rfl (Nat.le_refl _) rfl
theorem tidy_setRecord (s : State) (n : SourceId) (r : Option PendingRecord) : Tidy s (s.setRecord n r) :=
  .of_eq rfl (Nat.le_refl _) rfl
/-- The assembly ends. -/
theorem tidy_dropAssembly (s : State) : Tidy s (s.setAssembly none) :=
  ⟨⟨fun k who hw => by simpa [outstanding] using k who hw, fun k => k⟩, fun k => ⟨k.1, fun _ h => by simp at h, k.2.2⟩⟩

/-- The assembly's other fields. -/
theorem tidy_setAssembly (s : State) (a : Option Assembly) (h : a.map Assembly.shape = s.assembly.map Assembly.shape) :
    Tidy s (s.setAssembly a) := .of_eq rfl (Nat.le_refl _) rfl ⟨fun _ => rfl, h, fun _ _ => id⟩
theorem tidy_setLine (s : State) (l : LineId) (x : Line) : Tidy s (s.setLine l x) := .of_eq rfl (Nat.le_refl _) rfl

theorem tidy_issueConsumerRead (s : State) (t : TargetId) : Tidy s (s.issueConsumerRead t) := by
  unfold issueConsumerRead consumerReadInFlight
  split
  · exact .refl s
  · rename_i h
    exact tidy_issueRequest _ _ _ _ fun _ => by simpa using h

theorem tidy_rejudgeSpace (s : State) (t : TargetId) : Tidy s (s.rejudgeSpace t) := by
  unfold rejudgeSpace
  split
  · exact (tidy_updTarget s t _).trans (tidy_issueConsumerRead _ _)
  · split
    · exact tidy_updTarget s t _
    · exact .refl s

theorem tidy_rejudgeSpaceOf (s : State) (b : BundleId) : Tidy s (s.rejudgeSpaceOf b) := by
  unfold rejudgeSpaceOf
  split
  · exact tidy_rejudgeSpace s _
  · exact .refl s

theorem tidy_setState (s : State) (b : BundleId) (st : BundleState) : Tidy s (s.setState b st) :=
  (tidy_updRun s b _).trans (tidy_rejudgeSpaceOf _ b)

theorem tidy_issueCompletion (s : State) : Tidy s s.issueCompletion := by
  unfold issueCompletion
  split
  · split
    · exact .refl s
    · rename_i h
      exact tidy_issueRequest _ _ _ _ fun _ => by simpa using h
  · exact .refl s

theorem tidy_pushCompletion (s : State) (c : Completion) : Tidy s (s.pushCompletion c) :=
  (Tidy.updProc s _ (Nat.le_refl _)).trans (tidy_issueCompletion _)

/-- A pass over the deferred table keeps no more entries than it found. -/
theorem sweepTable_length (s : State) (gone : Option TargetId) (met : List TargetId) (h : Nat) (kept l : List Deferred) :
    (s.sweepTable gone met h kept l).1.length ≤ kept.length + l.length := by
  induction l generalizing h kept with
  | nil => simp [sweepTable]
  | cons d l ih =>
    have h1 := fun h => ih h kept
    have h2 := fun h => ih h (kept ++ [d])
    simp only [List.length_append, List.length_cons, List.length_nil] at h2 ⊢
    unfold sweepTable
    split <;> split <;> first
      | exact Nat.le_trans (h1 _) (by omega)
      | exact Nat.le_trans (h2 _) (by omega)

theorem tidy_sweepDeferredFor (s : State) (gone : Option TargetId) (h : Nat) (met : List TargetId) :
    Tidy s (s.sweepDeferredFor gone h met) := by
  unfold sweepDeferredFor
  refine Tidy.trans (.updProc s _ ?_) (.foldl (fun u c => tidy_pushCompletion u c) _ _)
  simpa using sweepTable_length s gone met h [] s.proc.deferred

theorem tidy_sweepDeferred (s : State) : Tidy s s.sweepDeferred := tidy_sweepDeferredFor s none 0 []

/-! ### Lists and arrivals -/

theorem tidy_listGained (s : State) (b : Option BundleId) : Tidy s (s.listGained b) := by
  unfold listGained
  split
  · split
    · exact tidy_setState s _ _
    · exact .refl s
  · exact .refl s

theorem tidy_listLost (s : State) (b : Option BundleId) : Tidy s (s.listLost b) := by
  unfold listLost
  split
  · split
    · exact (tidy_setState s _ _).trans (tidy_sweepDeferred _)
    · exact .refl s
  · exact .refl s

theorem tidy_settleByList (s : State) (b : BundleId) : Tidy s (s.settleByList b) := tidy_setState s b _

theorem tidy_arrive (s : State) (n : SourceId) (d : Option Half) : Tidy s (s.arrive n d) := by
  unfold arrive
  dsimp only
  split
  · refine Tidy.trans ?_ (tidy_listGained _ _)
    exact .of_eq rfl (Nat.le_refl _) rfl
  · split <;> exact .of_eq rfl (Nat.le_refl _) rfl

theorem tidy_acceptOne (s : State) (n : SourceId) (d : Option Half) : Tidy s (s.acceptOne n d) := by
  unfold acceptOne
  split
  · exact tidy_arrive s n d
  · exact .refl s

theorem tidy_accept (s : State) (n : SourceId) (d : Option Half) : Tidy s (s.accept n d) := by
  unfold accept
  split
  · exact (tidy_acceptOne s n d).trans (tidy_acceptOne _ _ _)
  · exact tidy_acceptOne s n d

theorem tidy_acceptMany (s : State) (n : SourceId) (d : Option Half) (k : Nat) : Tidy s (s.acceptMany n d k) := by
  induction k generalizing s with
  | zero => exact .refl s
  | succ k ih => exact (tidy_accept s n d).trans (ih _)

theorem tidy_levelCheck (s : State) (n : SourceId) : Tidy s (s.levelCheck n) := by
  unfold levelCheck
  split
  · exact tidy_accept s n _
  · exact .refl s

theorem tidy_reassert (s : State) (l : List SourceId) : Tidy s (s.reassert l) := .foldl tidy_levelCheck l s

theorem tidy_qualify (s : State) (l : LineId) : Tidy s (s.qualify l) := by
  unfold qualify
  dsimp only
  split
  · exact (tidy_setLine s l _).trans (tidy_accept _ _ _)
  · exact tidy_setLine s l _

/-! ### Discards -/

theorem tidy_clearRecord (s : State) (n : SourceId) : Tidy s (s.clearRecord n) := by
  unfold clearRecord
  split
  · exact .of_eq rfl (Nat.le_refl _) rfl
  · exact .refl s

theorem tidy_discardRecord (s : State) (n : SourceId) : Tidy s (s.discardRecord n) := by
  unfold discardRecord
  split
  · exact (tidy_clearRecord s n).trans (tidy_listLost _ _)
  · exact .refl s

theorem tidy_voidCopy (s : State) (n : SourceId) : Tidy s (s.voidCopy n) :=
  (tidy_updTally s n _).trans (tidy_setAssembly _ _ (by cases h : s.assembly <;> simp [h, Assembly.shape, voidIn]))

theorem tidy_discardSource (s : State) (n : SourceId) : Tidy s (s.discardSource n) :=
  (tidy_discardRecord s n).trans (tidy_voidCopy _ n)

theorem tidy_flush (s : State) (b : BundleId) : Tidy s (s.flush b) :=
  ((Tidy.foldl tidy_clearRecord _ s).trans (tidy_listLost _ _)).trans (.foldl (fun u (c : Copy) => tidy_voidCopy u c.source) _ _)

/-! ### Halting and completing -/

theorem tidy_halt (s : State) (r : HaltReason) : Tidy s (s.halt r) := by
  unfold halt
  split
  · exact .refl s
  all_goals exact (Tidy.updProc s _ (Nat.le_refl _)).trans (tidy_accept _ _ _)

theorem tidy_complete (s : State) (c : CmdId) (st : Status) (r : BitVec 64) : Tidy s (s.complete c st r) := by
  unfold complete
  dsimp only
  split
  · exact (tidy_pushCompletion _ _).trans (tidy_accept _ _ _)
  · exact tidy_pushCompletion _ _

theorem tidy_handDone (s : State) : Tidy s s.handDone := .updProc s _ (Nat.le_refl _)
theorem tidy_holdInHand (s : State) (h : Hand) (c : Option WaitCause) (hh : ∀ k a, h ≠ .attach k a := by exact nofun) :
    Tidy s (s.holdInHand h c) := .updProc s _ (Nat.le_refl _) fun k a e => absurd (Option.some.inj e) (hh k a)
theorem tidy_setProcState (s : State) (st : ProcState) : Tidy s (s.setProcState st) := .updProc s _ (Nat.le_refl _)

/-! ### Signals, faults, releases, detaches -/

theorem tidy_issueSignal (s : State) (t : TargetId) : Tidy s (s.issueSignal t) :=
  (tidy_updTarget s t _).trans (tidy_issueRequest _ _ _ _ nofun)

theorem tidy_signalRules (s : State) (t : TargetId) : Tidy s (s.signalRules t) := by
  unfold signalRules
  split
  · split
    · exact tidy_issueSignal s t
    · exact tidy_updTarget s t _
  · exact .refl s

theorem tidy_rearmCheck (s : State) (t : TargetId) : Tidy s (s.rearmCheck t) := by
  unfold rearmCheck
  split
  · exact tidy_signalRules s t
  · exact .refl s

theorem tidy_rejudgeHold (s : State) (b : BundleId) : Tidy s (s.rejudgeHold b) := tidy_updRun s b _
theorem tidy_rejudgeHolds (s : State) : Tidy s s.rejudgeHolds := .foldl tidy_rejudgeHold _ s

theorem tidy_faultTarget (s : State) (t : TargetId) (r : FaultReason) : Tidy s (s.faultTarget t r) := by
  unfold faultTarget
  split
  · rename_i h
    refine ((tidy_updTarget s t _ ?_).trans (tidy_accept _ _ _)).trans (tidy_rejudgeHolds _)
    simp only [Target.inService, Bool.or_eq_true, beq_iff_eq] at h
    rcases h with h | h <;> simp [Target.ring, h]
  · exact .refl s

theorem tidy_releaseHold (s : State) (b : BundleId) : Tidy s (s.releaseHold b) :=
  (((tidy_updRun s b _).trans (tidy_reassert _ _)).trans (tidy_updRun _ b _)).trans (tidy_settleByList _ b)

theorem tidy_release (s : State) (b : BundleId) : Tidy s (s.release b) := (tidy_releaseHold s b).trans (tidy_sweepDeferred _)

/-- A target for which no assembly is in flight becomes DETACHED. -/
theorem tidy_toDetached (s : State) (t : TargetId) (f : Target → Target) (hs : (f (s.target t)).state = .detached)
    (hr : (f (s.target t)).ringSize = (s.target t).ringSize) (h : s.assemblyFor t = false) : Tidy s (s.updTarget t f) := by
  refine ⟨counted_updTarget s t f, fun k => ⟨fun i => ?_, fun a ha => ?_, fun c a ha => ?_⟩⟩
  · rw [updTarget_target]
    split
    · rw [hr]
      exact ⟨(k.1 t).1, fun hd => absurd hs hd⟩
    · exact k.1 i
  · have hne : a.target ≠ t := by
      simp only [updTarget_assembly] at ha
      simpa [assemblyFor, ha] using h
    rw [updTarget_target_ne _ _ hne]
    exact k.2.1 a ha
  · rw [updTarget_target]
    split
    · exact ⟨hs, (k.2.2 c a ha).2⟩
    · exact k.2.2 c a ha

theorem tidy_performDetach (s : State) (t : TargetId) (h : s.assemblyFor t = false) : Tidy s (s.performDetach t) :=
  ((tidy_updTarget s t _).trans (.foldl tidy_releaseHold _ _)).trans
    (tidy_toDetached _ t _ rfl rfl (by simpa [assemblyFor] using h))

theorem not_assemblyFor (s : State) (t : TargetId) (h : s.targetBusy t = false) : s.assemblyFor t = false := by
  simp only [targetBusy, Bool.or_eq_false_iff] at h
  exact h.1.1

theorem tidy_detachNow (s : State) (t : TargetId) (met : List TargetId) (h : s.detachDue t = true) : Tidy s (s.detachNow t met) := by
  simp only [detachDue, Bool.and_eq_true, Bool.not_eq_true'] at h
  exact (tidy_performDetach s t (not_assemblyFor s t h.2)).trans (tidy_sweepDeferredFor _ _ _ _)

theorem tidy_tryDetach (s : State) (t : TargetId) : Tidy s (s.tryDetach t) := by
  unfold tryDetach
  split
  · rename_i h
    exact tidy_detachNow s t _ h
  · exact .refl s

theorem tidy_endWaits (s : State) (t : TargetId) (met : List TargetId) : Tidy s (s.endWaits t met) := by
  unfold endWaits
  split
  · rename_i h
    exact tidy_detachNow s t met h
  · exact tidy_sweepDeferredFor _ _ _ _

theorem tidy_rejudgeDetachPending (s : State) (t : TargetId) : Tidy s (s.rejudgeDetachPending t) := by
  unfold rejudgeDetachPending
  split
  · exact (tidy_updTarget s t _).trans (tidy_rejudgeSpace _ _)
  · exact .refl s

theorem tidy_enterTable (s : State) (c : CmdId) (w : DeferKind) : Tidy s (s.enterTable c w) := by
  unfold enterTable
  split
  · rename_i h
    have hu : Tidy s (s.updProc fun p => { p with deferred := p.deferred ++ [⟨c, w, w.timer⟩] }) :=
      ⟨⟨fun o => o, fun k => ⟨by simp [Config.deferredLimit] at h ⊢; omega, k.2⟩⟩, fun k => k⟩
    dsimp only
    split
    · exact (hu.trans (tidy_updTarget _ _ _)).trans (tidy_rejudgeSpace _ _)
    all_goals exact hu
  · exact tidy_holdInHand _ _ _

theorem tidy_judgeDeferrable (s : State) (c : CmdId) (w : DeferKind) : Tidy s (s.judgeDeferrable c w) := by
  unfold judgeDeferrable
  split
  · split
    · exact tidy_complete _ _ _ _
    · split
      · exact tidy_enterTable _ _ _
      · rename_i h
        exact ((tidy_performDetach s _ (not_assemblyFor _ _ (by simpa using h))).trans (tidy_sweepDeferredFor _ _ _ _)).trans
          (tidy_complete _ _ _ _)
  all_goals
    split
    · exact tidy_complete _ _ _ _
    · exact tidy_enterTable _ _ _

theorem tidy_settleHand (s : State) : Tidy s s.settleHand := by
  unfold settleHand
  split
  · split
    · exact ((Tidy.updProc s _ (Nat.le_refl _)).trans (tidy_judgeDeferrable _ _ _)).trans (tidy_handDone _)
    · exact .refl s
  · exact .refl s

/-! ### Routes and accounts -/

theorem tidy_writeRoute (s : State) (n : SourceId) (e : RouteEntry) : Tidy s (s.writeRoute n e) := by
  have h : Tidy s (s.setRoute n e) := .of_eq rfl (Nat.le_refl _) rfl
  unfold writeRoute
  dsimp only
  split
  · exact (h.trans (tidy_listGained _ _)).trans (tidy_listLost _ _)
  · exact h

theorem tidy_changeFilter (s : State) (n : SourceId) (old e : RouteEntry) : Tidy s (s.changeFilter n old e) := by
  unfold changeFilter
  (repeat' split)
  all_goals first
    | exact .refl s
    | exact tidy_qualify _ _
    | exact tidy_setLine _ _ _

theorem tidy_reroute (s : State) (n : SourceId) (e : RouteEntry) : Tidy s (s.reroute n e) := by
  unfold reroute
  dsimp only
  have h := (tidy_writeRoute s n e).trans (tidy_changeFilter (s.writeRoute n e) n (s.route n) e)
  split
  · exact h.trans (tidy_levelCheck _ _)
  · exact h

theorem tidy_routeSetCommand (s : State) (c : CmdId) (n : Half) (e : Option RouteEntry) (d : Bool) :
    Tidy s (s.routeSetCommand c n e d) := by
  unfold routeSetCommand
  split
  · split
    · exact ((tidy_discardSource s _).trans (tidy_reroute _ _ _)).trans (tidy_complete _ _ _ _)
    · exact (tidy_reroute _ _ _).trans (tidy_complete _ _ _ _)
  · exact tidy_complete _ _ _ _

theorem tidy_issueReply (s : State) (c : CmdId) (r : BitVec 64) (a : Addr) (rec : List Byte) : Tidy s (s.issueReply c r a rec) :=
  (tidy_holdInHand _ _ _).trans (tidy_issueRequest _ _ _ _ nofun)

theorem tidy_routeReadCommand (s : State) (c : CmdId) (n : Half) (a : Addr) : Tidy s (s.routeReadCommand c n a) := by
  unfold routeReadCommand
  (repeat' split)
  all_goals first
    | exact tidy_issueReply _ _ _ _ _
    | exact tidy_complete _ _ _ _

theorem tidy_sourceClearCommand (s : State) (c : CmdId) (n : Half) : Tidy s (s.sourceClearCommand c n) := by
  unfold sourceClearCommand
  split
  · exact (tidy_discardSource s _).trans (tidy_complete _ _ _ _)
  · exact tidy_complete _ _ _ _

theorem tidy_resetTally (s : State) (n : SourceId) : Tidy s (s.resetTally n) :=
  (tidy_updTally s n _).trans (tidy_setAssembly _ _ (by cases h : s.assembly <;> simp [h, Assembly.shape]))

theorem tidy_tallyResetCommand (s : State) (c : CmdId) (n : Half) : Tidy s (s.tallyResetCommand c n) := by
  unfold tallyResetCommand
  split
  · exact (Tidy.foldl tidy_resetTally _ s).trans (tidy_complete _ _ _ _)
  · split
    · exact (tidy_resetTally s _).trans (tidy_complete _ _ _ _)
    · exact tidy_complete _ _ _ _

/-! ### Bundles -/

theorem tidy_moveByEnabled (s : State) (b : BundleId) (e : Bool) : Tidy s (s.moveByEnabled b e) := by
  unfold moveByEnabled
  split
  · exact tidy_settleByList _ _
  · exact tidy_setState _ _ _
  · exact tidy_setState _ _ _
  · exact .refl s

theorem tidy_writeBundleSet (s : State) (b : BundleId) (c : BundleConfig) : Tidy s (s.writeBundleSet b c) := by
  have h : Tidy s (s.setConfig b c) := .of_eq rfl (Nat.le_refl _) rfl
  have k := (h.trans (tidy_moveByEnabled _ b c.enabled)).trans (tidy_rejudgeHold _ b)
  unfold writeBundleSet
  dsimp only
  refine Tidy.trans ?_ (tidy_rejudgeSpaceOf _ b)
  split
  · exact k.trans (tidy_rejudgeSpace _ _)
  · exact k

theorem tidy_applyBundleSet (s : State) (b : BundleId) (c : BundleConfig) : Tidy s (s.applyBundleSet b c) :=
  (tidy_writeBundleSet s b c).trans (tidy_sweepDeferred _)

theorem tidy_completeBundleSet (s : State) (k : CmdId) (b : BundleId) (c : BundleConfig) : Tidy s (s.completeBundleSet k b c) := by
  unfold completeBundleSet
  exact (tidy_applyBundleSet s b c).trans (tidy_complete _ _ _ _)

theorem tidy_judgeBundleSet (s : State) (k : CmdId) (b : BundleId) (c : BundleConfig) : Tidy s (s.judgeBundleSet k b c) := by
  unfold judgeBundleSet
  (repeat' split)
  all_goals first
    | exact tidy_complete _ _ _ _
    | exact tidy_holdInHand _ _ _
    | exact tidy_completeBundleSet _ _ _ _

theorem tidy_bundleSetCommand (s : State) (k : CmdId) (b : Byte) (c : Option BundleConfig) : Tidy s (s.bundleSetCommand k b c) := by
  unfold bundleSetCommand
  split
  · exact tidy_judgeBundleSet _ _ _ _
  · exact tidy_complete _ _ _ _

theorem tidy_settleBundleSet (s : State) (k : CmdId) (b : BundleId) (c : BundleConfig) (t : TargetId) (met : List TargetId) :
    Tidy s (s.settleBundleSet k b c t met) := by
  unfold settleBundleSet
  dsimp only
  split
  · exact (((tidy_writeBundleSet s b c).trans (tidy_endWaits _ _ _)).trans (tidy_complete _ _ _ _)).trans (tidy_handDone _)
  · exact ((tidy_endWaits s _ _).trans (tidy_complete _ _ _ _)).trans (tidy_handDone _)

theorem tidy_bundleReadCommand (s : State) (k : CmdId) (b : Byte) (n : Half) (a : Addr) : Tidy s (s.bundleReadCommand k b n a) := by
  unfold bundleReadCommand
  (repeat' split)
  all_goals first
    | exact tidy_issueReply _ _ _ _ _
    | exact tidy_complete _ _ _ _

theorem tidy_bundleFlushCommand (s : State) (k : CmdId) (b : Byte) : Tidy s (s.bundleFlushCommand k b) := by
  unfold bundleFlushCommand
  split
  · exact (tidy_flush s _).trans (tidy_complete _ _ _ _)
  · exact tidy_complete _ _ _ _

theorem tidy_staleAck (s : State) (b : BundleId) : Tidy s (s.staleAck b) := tidy_accept _ _ _

theorem tidy_ackCommand (s : State) (c : CmdId) (b : Byte) (k : Half) : Tidy s (s.ackCommand c b k) := by
  unfold ackCommand
  split
  · exact tidy_complete _ _ _ _
  · split
    · exact (tidy_staleAck _ _).trans (tidy_complete _ _ _ _)
    · split
      · exact (tidy_staleAck _ _).trans (tidy_complete _ _ _ _)
      · exact (tidy_release _ _).trans (tidy_complete _ _ _ _)

theorem tidy_holdExpires (s : State) (b : BundleId) : Tidy s (s.holdExpires b) := by
  unfold holdExpires
  split
  · split
    · exact (tidy_updRun s b _).trans (tidy_rejudgeSpaceOf _ _)
    · exact ((tidy_release s b).trans (tidy_accept _ _ _)).trans (tidy_settleHand _)
  · exact .refl s

theorem tidy_setStale (s : State) (k : Nat) (h : k ≤ 255) : Tidy s (s.setStale k) :=
  ⟨⟨fun o => o, fun b => ⟨b.1, h⟩⟩, fun k => k⟩

theorem tidy_countStale (s : State) : Tidy s s.countStale := tidy_setStale s _ (Nat.min_le_right _ _)

theorem tidy_ackPortWrite (s : State) (b : Byte) (k : Half) : Tidy s (s.ackPortWrite b k) := by
  unfold ackPortWrite
  split
  · exact tidy_countStale s
  · split
    · exact (tidy_release _ _).trans (tidy_settleHand _)
    · exact (tidy_staleAck _ _).trans (tidy_countStale _)

/-! ### Targets -/

theorem attachArgs_inRange (t : TargetId) (p h : Half) (d : BitVec 64) (o v : Word) (a : Addr) (b : AttachArgs)
    (e : attachArgs t p h d o v a = some b) : b.target = t ∧ b.ringSize ≤ 4096 := by
  unfold attachArgs at e
  dsimp only at e
  split at e
  · rename_i hk
    cases e
    simp only [Bool.and_eq_true, ringSizeOk, List.contains_iff_mem] at hk
    have h4 := hk.1.1.1
    simp only [List.mem_cons, List.not_mem_nil, or_false] at h4
    exact ⟨rfl, by show 16 * 2 ^ attachSizeCode d ≤ 4096; omega⟩
  · cases e

theorem tidy_attachCommand (s : State) (c : CmdId) (p h : Half) (d : BitVec 64) (o v : Word) (a : Addr) :
    Tidy s (s.attachCommand c p h d o v a) := by
  unfold attachCommand
  split
  · exact tidy_complete _ _ _ _
  · split
    · exact tidy_complete _ _ _ _
    · rename_i ht
      split
      · exact tidy_complete _ _ _ _
      · rename_i b hb
        have hb' := attachArgs_inRange _ _ _ _ _ _ _ b hb
        refine Tidy.trans (t := s.holdInHand (.attach c b) none) ⟨⟨fun o => o, fun k => k⟩, fun k => ⟨k.1, k.2.1, fun c' a' e => ?_⟩⟩
          (tidy_issueRequest _ .attachRead _ _ nofun)
        cases e
        exact ⟨by rw [hb'.1]; simpa using ht, hb'.2⟩

/-- An attach is carried out (R124). -/
theorem tidy_attachDone (s : State) (c : CmdId) (a : AttachArgs) (h : s.proc.hand = some (.attach c a)) :
    Tidy s (((s.updTarget a.target fun _ => attached a).complete c .ok 0).handDone) := by
  refine ⟨((counted_updTarget s _ _).trans (tidy_complete _ _ _ _).1).trans (tidy_handDone _).1, fun k => ?_⟩
  have kh := k.2.2 c a h
  refine ⟨fun i => ?_, fun b hb => ?_, fun c' a' e => ?_⟩
  · simp only [complete, Status.rejected, Bool.false_eq_true, if_false, handDone, updProc_target, pushCompletion_frame,
      updTarget_target]
    split
    · exact ⟨kh.2, fun _ => by simp [attached, Target.unread]⟩
    · exact k.1 i
  · simp only [complete, Status.rejected, Bool.false_eq_true, if_false, handDone, updProc_target, updProc_assembly,
      pushCompletion_frame, updTarget_assembly] at hb ⊢
    have hk := k.2.1 b hb
    have hne : b.target ≠ a.target := fun e => hk.1 (by rw [e]; exact kh.1)
    rw [updTarget_target_ne _ _ hne]
    exact hk
  · simp [handDone] at e

theorem tidy_attachAnswer (s : State) (v : ReadAnswer) : Tidy s (s.attachAnswer v) := by
  unfold attachAnswer
  split
  · split
    · split
      · exact tidy_attachDone s _ _ ‹_›
      · exact (tidy_complete _ _ _ _).trans (tidy_handDone _)
    · exact (tidy_complete _ _ _ _).trans (tidy_handDone _)
  · exact .refl s

theorem tidy_moveTarget (s : State) (t : TargetId) (st : TargetState) (h : (s.target t).state ≠ .detached) (h' : st ≠ .detached) :
    Tidy s (s.moveTarget t st) :=
  ((tidy_updTarget s t _ (by simp [Target.ring, beq_false_of_ne h, beq_false_of_ne h'])).trans (tidy_rejudgeHolds _)).trans (tidy_rejudgeSpace _ _)

theorem tidy_moveCommand (s : State) (c : CmdId) (t : Byte) (x y : TargetState) (hx : x ≠ .detached) (hy : y ≠ .detached) :
    Tidy s (s.moveCommand c t x y) := by
  unfold moveCommand
  split
  · exact tidy_complete _ _ _ _
  · split
    · rename_i e
      exact (tidy_moveTarget _ _ _ (e ▸ hx) hy).trans (tidy_complete _ _ _ _)
    · exact tidy_complete _ _ _ _

theorem tidy_targetReadCommand (s : State) (c : CmdId) (t : Byte) (a : Addr) : Tidy s (s.targetReadCommand c t a) := by
  unfold targetReadCommand
  (repeat' split)
  all_goals first
    | exact tidy_issueReply _ _ _ _ _
    | exact tidy_complete _ _ _ _

theorem tidy_detachCommand (s : State) (c : CmdId) (t : Byte) : Tidy s (s.detachCommand c t) := by
  unfold detachCommand
  split
  · exact tidy_judgeDeferrable _ _ _
  · exact tidy_complete _ _ _ _

theorem tidy_drainCommand (s : State) (c : CmdId) (t : Byte) (k : Half) : Tidy s (s.drainCommand c t k) := by
  unfold drainCommand
  split
  · exact tidy_judgeDeferrable _ _ _
  · exact tidy_complete _ _ _ _

/-- The cached consumed index moves towards the produced one. -/
theorem tidy_setConsumed (s : State) (t : TargetId) (v : Word) (h : ((s.target t).produced - v).toNat ≤ (s.target t).unread) :
    Tidy s (s.updTarget t fun x => { x with consumed := v }) := by
  refine ⟨counted_updTarget s t _, fun k => ⟨fun i => ?_, fun a ha => ?_, fun c a ha => ?_⟩⟩
  · have := k.1 i
    rw [updTarget_target]
    split
    · rename_i e
      subst e
      exact ⟨this.1, fun hd => Nat.le_trans h (this.2 hd)⟩
    · exact this
  · have := k.2.1 a ha
    rw [updTarget_target]
    split
    · rename_i e
      rw [e] at this
      exact ⟨this.1, this.2.1, by simp only [Target.unread] at h this ⊢; omega⟩
    · exact this
  · have := k.2.2 c a ha
    rw [updTarget_target]
    split
    · rename_i e
      rw [e] at this
      exact this
    · exact this

theorem tidy_consumedMoved (s : State) (t : TargetId) (v : Word) (hv : ((s.target t).produced - v).toNat ≤ (s.target t).unread) :
    Tidy s (s.consumedMoved t v) := by
  have h := (tidy_setConsumed s t v hv).trans (tidy_rejudgeSpace _ t)
  unfold consumedMoved
  dsimp only
  split
  · exact (h.trans (tidy_updTarget _ _ _)).trans (tidy_rearmCheck _ _)
  · exact h

theorem tidy_consumerAnswer (s : State) (t : TargetId) (v : ReadAnswer) : Tidy s (s.consumerAnswer t v) := by
  unfold consumerAnswer
  (repeat' split)
  all_goals first
    | exact .refl s
    | exact tidy_faultTarget _ _ _
    | exact tidy_consumedMoved _ _ _ (by rw [BitVec.sub_self]; exact Nat.zero_le _)
    | refine tidy_consumedMoved _ _ _ ?_
      rename_i h
      simp only [Target.unread] at h ⊢
      bv_omega

theorem tidy_afterTargetAnswer (s : State) (t : TargetId) : Tidy s (s.afterTargetAnswer t) :=
  (tidy_tryDetach s t).trans (tidy_settleHand _)

theorem tidy_consumerHandler (v : ReadAnswer) (w : Issuer) (s : State) : Tidy s (consumerHandler v w s) := by
  unfold consumerHandler
  split
  · exact (tidy_consumerAnswer _ _ _).trans (tidy_afterTargetAnswer _ _)
  · exact .refl s

theorem tidy_signalAnswer (s : State) (t : TargetId) (v : WriteAnswer) : Tidy s (s.signalAnswer t v) := by
  unfold signalAnswer
  split
  · exact .refl s
  · exact tidy_faultTarget _ _ _

theorem tidy_signalHandler (v : WriteAnswer) (w : Issuer) (s : State) : Tidy s (signalHandler v w s) := by
  unfold signalHandler
  split
  · exact (tidy_signalAnswer _ _ _).trans (tidy_afterTargetAnswer _ _)
  · exact .refl s

theorem tidy_pollExpires (s : State) (t : TargetId) : Tidy s (s.pollExpires t) := by
  unfold pollExpires
  dsimp only
  split
  · split
    · exact (tidy_updTarget s t _).trans (tidy_issueConsumerRead _ _)
    · exact tidy_updTarget s t _
  · exact .refl s

theorem tidy_holdoffExpires (s : State) (t : TargetId) : Tidy s (s.holdoffExpires t) := by
  unfold holdoffExpires
  dsimp only
  split
  · split
    · exact (tidy_updTarget s t _).trans (tidy_issueSignal _ _)
    · exact tidy_updTarget s t _
  · exact .refl s

theorem tidy_drainExpires (s : State) (e : Fin 4) : Tidy s (s.drainExpires e) := by
  unfold drainExpires
  split
  · exact (((Tidy.updProc s _ (List.length_eraseIdx_le _ _)).trans (tidy_pushCompletion _ _)).trans (tidy_sweepDeferred _)).trans
      (tidy_settleHand _)
  · exact .refl s

theorem tidy_refreshTarget (s : State) (t : TargetId) : Tidy s (s.refreshTarget t) := by
  unfold refreshTarget
  split
  · exact tidy_issueConsumerRead _ _
  · exact .refl s

theorem tidy_rearmTarget (f : Bool) (s : State) (t : TargetId) : Tidy s (s.rearmTarget f t) := by
  have h := tidy_updTarget s t fun x => { x with armed := true }
  unfold rearmTarget
  dsimp only
  split
  · split
    · split
      · exact (h.trans (tidy_refreshTarget _ _)).trans (tidy_updTarget _ _ _)
      · exact (h.trans (tidy_refreshTarget _ _)).trans (tidy_rearmCheck _ _)
    · exact h.trans (tidy_rearmCheck _ _)
  · exact .refl s

theorem tidy_attentionRefresh (s : State) (c : BitVec 4) : Tidy s (s.attentionRefresh c) := .foldl tidy_refreshTarget _ s
theorem tidy_attentionRearm (s : State) (c : BitVec 4) (f : Bool) : Tidy s (s.attentionRearm c f) := .foldl (tidy_rearmTarget f) _ s

/-! ### The command path -/

theorem tidy_issueCplRead (s : State) : Tidy s s.issueCplRead := by
  unfold issueCplRead
  split
  · split
    · exact .refl s
    · rename_i h
      exact tidy_issueRequest _ _ _ _ fun _ => by simpa using h
  · exact .refl s

theorem tidy_takeCommand (s : State) : Tidy s s.takeCommand := by
  unfold takeCommand
  split
  · rename_i h
    split
    · split
      · refine tidy_issueRequest _ _ _ _ fun _ => ?_
        simp only [wantsCommand, Bool.and_eq_true, Bool.not_eq_true'] at h
        exact h.1.2
      · exact (tidy_setProcState _ _).trans (tidy_issueCplRead _)
    · exact .refl s
  · exact .refl s

theorem tidy_commandRefused (s : State) : Tidy s s.commandRefused := by
  unfold commandRefused
  split
  · exact tidy_halt _ _
  · exact .refl s

theorem tidy_replyAnswer (s : State) (v : WriteAnswer) : Tidy s (s.replyAnswer v) := by
  unfold replyAnswer
  (repeat' split)
  all_goals first
    | exact .refl s
    | exact (tidy_complete _ _ _ _).trans (tidy_handDone _)

theorem tidy_issueCplSignal (s : State) (c : Completion) : Tidy s (s.issueCplSignal c) := by
  unfold issueCplSignal
  (repeat' split)
  all_goals first
    | exact .refl s
    | exact tidy_issueRequest _ _ _ _ nofun

theorem tidy_completionAnswer (s : State) (v : WriteAnswer) : Tidy s (s.completionAnswer v) := by
  unfold completionAnswer
  split
  · exact .refl s
  · split
    · exact ((Tidy.updProc s _ (Nat.le_refl _)).trans (tidy_issueCplSignal _ _)).trans (tidy_issueCompletion _)
    · exact ((Tidy.updProc s _ (Nat.le_refl _)).trans (tidy_halt _ _)).trans (tidy_issueCompletion _)

theorem tidy_cplSignalAnswer (s : State) (v : WriteAnswer) : Tidy s (s.cplSignalAnswer v) := by
  unfold cplSignalAnswer
  split
  · exact .refl s
  · exact tidy_halt _ _

theorem tidy_cplConsumedMoved (s : State) (v : Word) : Tidy s (s.cplConsumedMoved v) := by
  have h : Tidy s (s.updProc fun p => { p with cplConsumed := v }) := .updProc s _ (Nat.le_refl _)
  unfold cplConsumedMoved
  dsimp only
  split
  · exact (h.trans (tidy_setProcState _ _)).trans (tidy_takeCommand _)
  · exact h

theorem tidy_cplConsumerAnswer (s : State) (v : ReadAnswer) : Tidy s (s.cplConsumerAnswer v) := by
  unfold cplConsumerAnswer
  (repeat' split)
  all_goals first
    | exact .refl s
    | exact tidy_cplConsumedMoved _ _
    | exact tidy_halt _ _

theorem tidy_issueSetupRead (s : State) (h : s.inFlight .setupRead = false) : Tidy s s.issueSetupRead := by
  unfold issueSetupRead
  split
  · exact tidy_issueRequest _ _ _ _ fun _ => h
  · exact tidy_halt _ _

theorem tidy_loadSetup (s : State) (b : SetupBlock) : Tidy s (s.loadSetup b) := by
  have h : Tidy s (s.updProc fun p => { p with setup := some b }) := .updProc s _ (Nat.le_refl _)
  unfold loadSetup
  dsimp only
  split
  · split
    · exact h
    all_goals exact h.trans (tidy_setProcState _ _)
  · exact h.trans (tidy_halt _ _)

theorem tidy_setupAnswer (s : State) (v : SetupAnswer) : Tidy s (s.setupAnswer v) := by
  unfold setupAnswer
  (repeat' split)
  all_goals first
    | exact tidy_loadSetup _ _
    | exact tidy_halt _ _

theorem tidy_setEnable (s : State) (v : Bool) : Tidy s (s.setEnable v) := by
  have h : Tidy s (s.storeEnable v) := .of_eq rfl (Nat.le_refl _) rfl
  unfold setEnable
  dsimp only
  (repeat' split)
  all_goals first
    | exact .refl s
    | exact h.trans (tidy_setProcState _ _)
    | exact h
    | skip
  rename_i h1
  simp only [Bool.or_eq_true, not_or, Bool.not_eq_true] at h1
  exact h.trans (tidy_issueSetupRead _ h1.1)

theorem tidy_restart (s : State) : Tidy s s.restart :=
  (Tidy.updProc s _ (Nat.zero_le _)).trans (.foldl (fun u t => tidy_rejudgeDetachPending u t) _ _)

theorem tidy_restartDrained (s : State) : Tidy s s.restartDrained := by
  unfold restartDrained
  split
  · rename_i h
    refine (Tidy.updProc s _ (Nat.le_refl _)).trans (tidy_issueSetupRead _ ?_)
    simp only [commandPathBusy, inFlight, Bool.and_eq_true, Bool.not_eq_true', List.any_eq_false, beq_iff_eq] at h ⊢
    exact fun r hr e => h.2 r hr (by rw [e]; rfl)
  · exact .refl s

theorem tidy_producerPassed (s : State) : Tidy s s.producerPassed := by
  unfold producerPassed
  dsimp only
  (repeat' split)
  all_goals first
    | exact .refl s
    | exact tidy_issueCplRead s
    | exact (tidy_issueCplRead s).trans (tidy_setProcState _ _)

theorem tidy_producerWrite (s : State) (v : Word) : Tidy s (s.producerWrite v) := by
  have h : Tidy s (s.updProc fun p => { p with producer := v }) := .updProc s _ (Nat.le_refl _)
  unfold producerWrite
  dsimp only
  (repeat' split)
  all_goals first
    | exact h.trans (tidy_producerPassed _)
    | exact h.trans (tidy_halt _ _)
    | exact h

theorem tidy_refreshCompletions (s : State) : Tidy s s.refreshCompletions := by
  unfold refreshCompletions
  split
  · exact .refl s
  all_goals exact tidy_issueCplRead s

theorem tidy_abortCommand (s : State) (c : CmdId) (k : Half) : Tidy s (s.abortCommand c k) := by
  unfold abortCommand abortDeferred
  split
  · refine (Tidy.trans (Tidy.trans ?_ (tidy_pushCompletion _ _)) (tidy_sweepDeferred _)).trans (tidy_complete _ _ _ _)
    have h : Tidy s (s.updProc fun p => { p with deferred := p.deferred.eraseP fun d => d.cmd.tag == k }) :=
      .updProc s _ (List.length_eraseP_le)
    split
    · exact h.trans (tidy_rejudgeDetachPending _ _)
    all_goals exact h
  · exact tidy_complete _ _ _ _

/-! ### Registers -/

theorem tidy_attentionWrite (s : State) (v : Word) : Tidy s (s.attentionWrite v) := by
  have h : ∀ u, Tidy s u → Tidy s (if v.getLsbD 10 then u.refreshCompletions else u) := by
    intro u h
    split
    · exact h.trans (tidy_refreshCompletions _)
    · exact h
  unfold attentionWrite
  refine h _ ?_
  (repeat' split)
  · exact tidy_attentionRearm _ _ _
  · exact tidy_attentionRefresh _ _
  · exact .refl s

theorem tidy_beginReset (s : State) : Tidy s s.beginReset := .of_eq rfl (Nat.le_refl _) rfl
theorem tidy_clearStale (s : State) : Tidy s s.clearStale := tidy_setStale s 0 (by decide)

theorem tidy_controlWrite (s : State) (v : Word) : Tidy s (s.controlWrite v) := by
  have h : ∀ u, Tidy s u → Tidy s (if v.getLsbD 2 then (u.setEnable (v.getLsbD 0)).restart else u.setEnable (v.getLsbD 0)) := by
    intro u h
    split
    · exact (h.trans (tidy_setEnable _ _)).trans (tidy_restart _)
    · exact h.trans (tidy_setEnable _ _)
  unfold controlWrite
  split
  · exact tidy_beginReset s
  · refine h _ ?_
    split
    · exact tidy_clearStale s
    · exact .refl s

theorem tidy_windowWrite (s : State) (o n : Nat) (v : Word) : Tidy s (s.windowWrite o n v) := by
  unfold windowWrite
  (repeat' split)
  all_goals first
    | exact .refl s
    | exact tidy_controlWrite _ _
    | exact tidy_producerWrite _ _
    | exact tidy_attentionWrite _ _
    | exact tidy_ackPortWrite _ _ _
    | exact .of_eq rfl (Nat.le_refl _) rfl

/-! ### The assembler -/

theorem takeRecords_requests (l : List SourceId) (s : State) :
    (takeRecords l s).2.requests = s.requests ∧ (takeRecords l s).2.proc = s.proc ∧ (takeRecords l s).2.staleCount = s.staleCount ∧
      (takeRecords l s).2.targets = s.targets := by
  induction l generalizing s with
  | nil => simp [takeRecords]
  | cons a l ih => simp only [takeRecords]; split <;> simp [ih]

theorem takeRecords_length (l : List SourceId) (s : State) : (takeRecords l s).1.length ≤ l.length := by
  induction l generalizing s with
  | nil => simp [takeRecords]
  | cons a l ih =>
    simp only [takeRecords]
    split
    · simpa using ih _
    · exact Nat.le_succ_of_le (ih _)

theorem chosen_eligible (s : State) (b : BundleId) (h : s.chosen = some b) : s.eligible b = true := by
  unfold chosen choice at h
  split at h
  · split at h
    · rename_i e
      cases h
      have := List.find?_some e
      simp only [Bool.and_eq_true] at this
      exact this.1
    · exact List.find?_some h
  · cases h

/-- The target of a chosen bundle is not DETACHED and has room for as many slots as the bundle waits for (R74). -/
theorem chosen_room (s : State) (b : BundleId) (t : TargetId) (k : Nat) (h : s.chosen = some b) (ht : (s.config b).target = some t)
    (hk : s.slotThreshold b = some k) :
    (s.target t).state ≠ .detached ∧ k ≤ (s.target t).freeSlots ∧ (s.target t).freeSlots = (s.target t).ringSize - (s.target t).unread := by
  have := chosen_eligible s b h
  simp only [eligible, ht, hk, Bool.and_eq_true, decide_eq_true_eq] at this
  refine ⟨fun e => ?_, this.2.2, rfl⟩
  have h2 := this.2.1
  simp only [Target.countedState, e, ite_self] at h2
  simp at h2

/-- An assembly starts at the produced index of a target with room for it. -/
theorem tidy_start (s t : State) {a : Assembly} (h1 : t.requests = s.requests) (h2 : t.proc = s.proc) (h3 : t.staleCount = s.staleCount)
    (h4 : t.targets = s.targets) (ha : t.assembly = some a) (hd : (s.target a.target).state ≠ .detached)
    (hb : a.base = (s.target a.target).produced)
    (hr : (s.target a.target).unread + 1 + a.copies.length ≤ (s.target a.target).ringSize) : Tidy s t := by
  have ht : ∀ k, t.target k = s.target k := fun k => by simp [State.target, h4]
  refine ⟨⟨fun k who hw => by simpa [outstanding, h1] using k who hw, fun k => ⟨h2 ▸ k.1, h3 ▸ k.2⟩⟩, fun k => ⟨fun i => ?_, fun b e => ?_, fun c b e => ?_⟩⟩
  · rw [ht]; exact k.1 i
  · rw [ha] at e
    cases e
    rw [ht]
    exact ⟨hd, hb, hr⟩
  · rw [ht]
    exact k.2.2 c b (h2 ▸ e)

theorem tidy_eventStart (s : State) : Tidy s s.eventStart := by
  unfold eventStart
  split
  · rename_i b hc
    split
    · rename_i t ht
      split
      · rename_i hr
        obtain ⟨e1, e2, e3⟩ := chosen_room s b t 2 hc ht (by simp [slotThreshold, hr])
        refine tidy_start _ _ (by simp [startEvent, takeRecords_requests]) (by simp [startEvent, takeRecords_requests])
          (by simp [startEvent, takeRecords_requests]) (by simp [startEvent, takeRecords_requests]) rfl e1 rfl ?_
        have hl := takeRecords_length ((s.pendingList b).take (s.assemblySize b t)) (s.takeTurn b)
        have hm : s.assemblySize b t ≤ (s.target t).freeSlots - 1 := by unfold assemblySize; omega
        simp only [List.length_take] at hl ⊢
        omega
      · exact .refl s
    · exact .refl s
  · exact .refl s

theorem tidy_reminderStart (s : State) : Tidy s s.reminderStart := by
  unfold reminderStart
  split
  · rename_i b hc
    split
    · rename_i t ht
      split
      · rename_i hr
        by_cases hd : (s.run b).reminderDue = true
        · obtain ⟨e1, e2, e3⟩ := chosen_room s b t 1 hc ht (by simp [slotThreshold, hr, hd])
          refine tidy_start _ _ (by simp [startReminder]) (by simp [startReminder]) (by simp [startReminder])
            (by simp [startReminder]) rfl e1 rfl ?_
          simp only [List.length_nil]
          omega
        · have := chosen_eligible s b hc
          simp [eligible, slotThreshold, hr, hd] at this
      · exact .refl s
    · exact .refl s
  · exact .refl s

theorem tidy_issueWrite (s : State) (h : s.inFlight .assembly = false) : Tidy s s.issueWrite := by
  unfold issueWrite
  dsimp only
  (repeat' split)
  all_goals first
    | exact .refl s
    | exact tidy_issueRequest _ _ _ _ fun _ => h
    | exact (tidy_setAssembly s _ (by simp [*, Assembly.shape])).trans (tidy_issueRequest _ _ _ _ fun _ => h)

theorem sameRings_issueWrite (s : State) : SameRings s s.issueWrite := by
  unfold issueWrite
  dsimp only
  (repeat' split)
  all_goals first
    | exact ⟨fun _ => rfl, rfl, fun _ _ => id⟩
    | exact ⟨fun _ => rfl, by simp [*, Assembly.shape], fun _ _ => id⟩

theorem sameRings_entryDone (s : State) : SameRings s s.entryDone := by
  unfold entryDone
  (repeat' split)
  all_goals first
    | exact ⟨fun _ => rfl, rfl, fun _ _ => id⟩
    | skip
  have h := sameRings_issueWrite (s.setAssembly (some { ‹Assembly› with position := Assembly.after ‹Assembly› ‹Nat› }))
  exact ⟨fun k => by simp, by rw [h.shape]; simp [*, Assembly.shape], fun c a e => by simpa using e⟩

theorem tidy_entryDone (s : State) (h : s.inFlight .assembly = false) : Tidy s s.entryDone := by
  unfold entryDone
  (repeat' split)
  all_goals first
    | exact .refl s
    | exact (tidy_setAssembly s _ (by simp [*, Assembly.shape])).trans (tidy_issueWrite _ h)

theorem tidy_startHold (s : State) (b : BundleId) : Tidy s (s.startHold b) := .of_eq rfl (Nat.le_refl _) rfl

theorem tidy_moveBundle (a : Assembly) (s : State) : Tidy s (s.moveBundle a) := by
  unfold moveBundle reminderCommit
  (repeat' split)
  · exact ((tidy_updRun s _ _).trans (tidy_setState _ _ _)).trans (tidy_startHold _ _)
  · exact (tidy_updRun s _ _).trans (tidy_settleByList _ _)
  · exact tidy_settleByList s _
  · exact (tidy_updRun s _ _).trans (tidy_startHold _ _)
  · exact .refl s

theorem tidy_recheckReported (a : Assembly) (s : State) : Tidy s (s.recheckReported a) := by
  unfold recheckReported
  split
  · exact tidy_reassert s _
  · exact .refl s

theorem tidy_ringPressure (a : Assembly) (s : State) : Tidy s (s.ringPressure a) := by
  unfold ringPressure
  split
  · exact tidy_accept _ _ _
  · exact .refl s

/-- The produced index advances over the slots that an ended assembly reserved. -/
theorem tidy_produce (s : State) (t : TargetId) (n : Nat) (h : s.assembly = none) (hn : (s.target t).unread + n ≤ (s.target t).ringSize) :
    Tidy s (s.updTarget t fun x => { x with produced := x.produced + BitVec.ofNat 32 n }) := by
  refine ⟨counted_updTarget s t _, fun k => ⟨fun i => ?_, fun a ha => ?_, fun c a ha => ?_⟩⟩
  · have := k.1 i
    rw [updTarget_target]
    split
    · rename_i e
      subst e
      refine ⟨this.1, fun _ => Nat.le_trans ?_ hn⟩
      have := this.1
      simp only [Target.unread] at hn ⊢
      bv_omega
    · exact this
  · simp [h] at ha
  · have := k.2.2 c a ha
    rw [updTarget_target]
    split
    · rename_i e
      rw [e] at this
      exact this
    · exact this

/-- What a commit does to the target after its produced index has advanced. -/
theorem tidy_afterPost (a : Assembly) (s : State) :
    Tidy s (((s.signalRules a.target).ringPressure a).rejudgeSpace a.target) :=
  ((tidy_signalRules _ _).trans (tidy_ringPressure a _)).trans (tidy_rejudgeSpace _ _)

theorem tidy_reportCopy (s : State) (c : Copy) : Tidy s (s.reportCopy c) := by
  unfold reportCopy
  split
  · exact .refl s
  · exact tidy_updTally _ _ _

theorem tidy_afterAssembly (a : Assembly) (met : List TargetId) (s : State) : Tidy s (s.afterAssembly a met) := by
  unfold afterAssembly
  split
  · split
    · exact tidy_endWaits s _ _
    · exact tidy_settleBundleSet s _ _ _ _ _
  · exact (tidy_endWaits s _ _).trans (tidy_settleHand _)

theorem tidy_commitAssembly (s : State) : Tidy s s.commitAssembly := by
  unfold commitAssembly
  split
  · exact .refl s
  · rename_i a ha
    have before := (tidy_dropAssembly s).trans (.foldl tidy_reportCopy a.copies _)
    have after : ∀ u : State, Tidy u (((((((u.signalRules a.target).ringPressure a).rejudgeSpace a.target).moveBundle a).recheckReported a).afterAssembly a
        ((((u.signalRules a.target).ringPressure a).rejudgeSpace a.target).moveBundle a).drainedTargets)) := fun u =>
      (((tidy_afterPost a u).trans (tidy_moveBundle a _)).trans (tidy_recheckReported a _)).trans (tidy_afterAssembly a _ _)
    refine ⟨(before.1.trans (counted_updTarget _ a.target _)).trans (after _).1, fun k => ?_⟩
    have hk := k.2.1 a ha
    refine (after _).rings ((tidy_produce _ a.target _ (by simp) ?_).rings (before.rings k))
    simp only [foldl_reportCopy_frame, setAssembly_target]
    omega

theorem tidy_returnCopy (s : State) (c : Copy) : Tidy s (s.returnCopy c) := by
  unfold returnCopy
  dsimp only
  (repeat' split)
  · exact .refl s
  · exact (tidy_setRecord s _ _).trans (tidy_listGained _ _)
  · exact (tidy_setRecord s _ _).trans (tidy_updTally _ _ _)
  · exact ((tidy_setRecord s _ _).trans (tidy_updTally _ _ _)).trans (tidy_acceptMany _ _ _ _)

theorem tidy_abortBundle (a : Assembly) (s : State) : Tidy s (s.abortBundle a) := by
  unfold abortBundle
  (repeat' split)
  · exact tidy_settleByList s _
  · exact tidy_updRun s _ _
  · exact .refl s

theorem tidy_abortAssembly (s : State) : Tidy s s.abortAssembly := by
  unfold abortAssembly
  split
  · exact .refl s
  · exact ((((tidy_dropAssembly s).trans (.foldl tidy_returnCopy _ _)).trans (tidy_abortBundle _ _)).trans
      (tidy_faultTarget _ _ _)).trans (tidy_afterAssembly _ _ _)

/-! ### Lines and time -/

theorem tidy_lineMoved (s : State) (l : LineId) : Tidy s (s.lineMoved l) := by
  unfold lineMoved
  dsimp only
  (repeat' split)
  all_goals first
    | exact .refl s
    | exact tidy_qualify _ _
    | exact tidy_setLine _ _ _
    | exact (tidy_setLine _ _ _).trans (tidy_accept _ _ _)

theorem tidy_qualificationExpires (s : State) (l : LineId) : Tidy s (s.qualificationExpires l) := by
  unfold qualificationExpires
  split
  · exact tidy_qualify _ _
  · exact .refl s

theorem tidy_live {s : State} {f : State → State} (h : ∀ u, Tidy u (f u)) : Tidy s (live f s) := by
  unfold live
  split
  · exact .refl s
  · exact h s

theorem tidy_elapse (s : State) : Tidy s s.elapse := by
  have h : Tidy s (live tickTimers s) := by
    unfold live
    split
    · exact .refl s
    · exact .of_eq rfl (by simp [tickTimers]) rfl
        ⟨fun k => by simp [tickTimers, State.target, Target.ring], rfl, fun c a e => e⟩
  refine h.trans ⟨⟨fun o who hw => ?_, fun k => k⟩, fun k => k⟩
  have hr : (live tickTimers s).requests = s.requests := by unfold live; split <;> rfl
  have := o who hw
  simp only [outstanding, elapse, List.countP_map, Function.comp_def, hr] at this ⊢
  exact this

theorem tidy_raiseCommand (s : State) (c : CmdId) (n : Half) (k : Byte) (d : Option Half) : Tidy s (s.raiseCommand c n k d) := by
  unfold raiseCommand
  (repeat' split)
  all_goals first
    | exact tidy_complete _ _ _ _
    | exact (tidy_acceptMany _ _ _ _).trans (tidy_complete _ _ _ _)

theorem tidy_timeSetCommand (s : State) (c : CmdId) (v : BitVec 64) : Tidy s (s.timeSetCommand c v) := by
  have h : Tidy s (s.setTimebase (v.setWidth 48)) := .of_eq rfl (Nat.le_refl _) rfl
  unfold timeSetCommand
  split
  · exact tidy_complete _ _ _ _
  · exact (h.trans (tidy_accept _ _ _)).trans (tidy_complete _ _ _ _)

/-! ### Answers and steps -/

theorem tidy_answer {s : State} {i : Nat} {p : Issuer → Bool} {f : Issuer → State → State} (h : ∀ w u, Tidy u (f w u)) :
    Tidy s (s.answer i p f) := by
  have e := tidy_endRequest s i
  unfold answer
  split
  · split
    · split
      · exact e
      · exact e.trans (h _ _)
    · exact .refl s
  · exact .refl s

/-- The answer to an assembly's write: no write of the assembly is left when the handler runs. -/
theorem tidy_answer_entry (s : State) (i : Nat) : Tidy s (s.answer i (· == .assembly) fun _ u => u.entryDone) := by
  have e := tidy_endRequest s i
  unfold answer
  split
  · rename_i r hr
    split
    · rename_i hw
      split
      · exact e
      · refine ⟨⟨fun o => ?_, fun k => ?_⟩, fun k => ?_⟩
        · have h1 := outstanding_endRequest_lt s i r hr
          have h2 : r.issuer = .assembly := by simpa using hw
          rw [h2] at h1
          have h3 := o .assembly rfl
          have h4 : (s.endRequest i).inFlight .assembly = false := (outstanding_eq_zero _ _).2 (by omega)
          exact (tidy_entryDone _ h4).one (e.one o)
        · have h5 : (s.endRequest i).entryDone.proc = s.proc := by simp
          have h6 : (s.endRequest i).entryDone.staleCount = s.staleCount := by simp
          exact ⟨by rw [h5]; exact k.1, by rw [h6]; exact k.2⟩
        · exact (sameRings_entryDone _).keep k
    · exact .refl s
  · exact .refl s

theorem tidy_command {s : State} {r : SlotRead} {f : State → State} (h : ∀ u, Tidy u (f u)) : Tidy s (s.commandAnswer r f) := by
  refine tidy_answer fun w u => ?_
  split
  · exact (Tidy.updProc u _ (Nat.le_refl _)).trans (h _)
  · exact .refl u

theorem tidy_timedOut (w : Issuer) (s : State) : Tidy s (s.timedOut w) := by
  unfold timedOut
  split
  · exact tidy_abortAssembly s
  · exact (tidy_consumerAnswer _ _ _).trans (tidy_afterTargetAnswer _ _)
  · exact (tidy_signalAnswer _ _ _).trans (tidy_afterTargetAnswer _ _)
  · exact tidy_commandRefused _
  · exact tidy_replyAnswer _ _
  · exact tidy_attachAnswer _ _
  · exact tidy_completionAnswer _ _
  · exact tidy_cplSignalAnswer _ _
  · exact tidy_cplConsumerAnswer _ _
  · exact tidy_setupAnswer _ _

theorem tidy_resetBlocks (s : State) : Tidy s s.resetBlocks := by
  refine ⟨⟨fun _ who _ => by simp [outstanding, resetBlocks, State.reset],
    fun _ => by simp [TablesBounded, resetBlocks, State.reset, Processor.reset]⟩, fun _ => ⟨fun i => ?_, ?_, ?_⟩⟩
  · simp [State.target, resetBlocks, State.reset, Target.reset]
  · simp [resetBlocks, State.reset]
  · simp [resetBlocks, State.reset, Processor.reset]

/-- Every row of the table keeps requests and tables tidy. -/
theorem tidy_exec (c : Instr) (s t : State) (h : exec c s = .next t) : Tidy s t := by
  cases c <;>
  simp only [exec, execSampledLevelChange, execQualificationExpiry, execTimebaseWrap, execNop, execBadKind,
    execRaise, execTimeSet, execTimeRead, execRouteSet, execRouteRead, execSourceClear, execTallyReset,
    execBundleSet, execBundleRead, execBundleFlush, execAck, execTargetAttach, execTargetDetach, execTargetQuiesce,
    execTargetResume, execTargetRead, execDrain, execFence, execAbort, execCommandTake, execCommandReadRefused,
    execReplyWriteAnswer, execTargetAttachReadAnswer, execDrainTimerExpiry, execCompletionWriteAnswer,
    execCompletionSignalAnswer, execCompletionConsumerReadAnswer, execSetupReadAnswer, execEnable, execDeviceReset,
    execCmdRestart, execRestartDrainComplete, execClearCounts, execCmdProducer, execAttentionRefresh,
    execAttentionRearm, execCplRefresh, execAckPort, execRegisterWrite, execLinkLoss, execPowerOn, execResetEnd,
    execDrainedAnswerDiscard, execHostRequestTimeout, execLateAnswerDiscard, execEventAssemblyStart,
    execReminderAssemblyStart, execFirstWriteIssue, execEntryWriteDone, execCommit, execAssemblyAbort,
    execHoldTimerExpiry, execConsumerWordReadAnswer, execPollTimerExpiry, execHoldoffTimerExpiry,
    execSignalWriteAnswer, Host.Outcome.next.injEq] at h <;>
  subst h
  case sampledLevelChange => exact (tidy_setLine s _ _).trans (tidy_live fun u => tidy_lineMoved u _)
  case qualificationExpiry => exact tidy_live fun u => tidy_qualificationExpires u _
  case timebaseWrap => split; exacts [tidy_elapse s, .refl s]
  case nop => exact tidy_command fun u => tidy_complete _ _ _ _
  case badKind => exact tidy_command fun u => tidy_complete _ _ _ _
  case raise => exact tidy_command fun u => tidy_raiseCommand _ _ _ _ _
  case timeSet => exact tidy_command fun u => tidy_timeSetCommand _ _ _
  case timeRead => exact tidy_command fun u => tidy_complete _ _ _ _
  case routeSet => exact tidy_command fun u => tidy_routeSetCommand _ _ _ _ _
  case routeRead => exact tidy_command fun u => tidy_routeReadCommand _ _ _ _
  case sourceClear => exact tidy_command fun u => tidy_sourceClearCommand _ _ _
  case tallyReset => exact tidy_command fun u => tidy_tallyResetCommand _ _ _
  case bundleSet => exact tidy_command fun u => tidy_bundleSetCommand _ _ _ _
  case bundleRead => exact tidy_command fun u => tidy_bundleReadCommand _ _ _ _ _
  case bundleFlush => exact tidy_command fun u => tidy_bundleFlushCommand _ _ _
  case ack => exact tidy_command fun u => tidy_ackCommand _ _ _ _
  case targetAttach => exact tidy_command fun u => tidy_attachCommand _ _ _ _ _ _ _ _
  case targetDetach => exact tidy_command fun u => tidy_detachCommand _ _ _
  case targetQuiesce => exact tidy_command fun u => tidy_moveCommand _ _ _ _ _ (by decide) (by decide)
  case targetResume => exact tidy_command fun u => tidy_moveCommand _ _ _ _ _ (by decide) (by decide)
  case targetRead => exact tidy_command fun u => tidy_targetReadCommand _ _ _ _
  case drain => exact tidy_command fun u => tidy_drainCommand _ _ _ _
  case fence => exact tidy_command fun u => tidy_judgeDeferrable _ _ _
  case abort => exact tidy_command fun u => tidy_abortCommand _ _ _
  case commandTake => exact tidy_live tidy_takeCommand
  case commandReadRefused => exact tidy_answer fun _ u => tidy_commandRefused u
  case replyWriteAnswer => exact tidy_answer fun _ u => tidy_replyAnswer u _
  case targetAttachReadAnswer => exact tidy_answer fun _ u => tidy_attachAnswer u _
  case drainTimerExpiry => exact tidy_live fun u => tidy_drainExpires u _
  case completionWriteAnswer => exact tidy_answer fun _ u => tidy_completionAnswer u _
  case completionSignalAnswer => exact tidy_answer fun _ u => tidy_cplSignalAnswer u _
  case completionConsumerReadAnswer => exact tidy_answer fun _ u => tidy_cplConsumerAnswer u _
  case setupReadAnswer => exact tidy_answer fun _ u => tidy_setupAnswer u _
  case enable => exact tidy_live fun u => tidy_setEnable u _
  case deviceReset => exact tidy_beginReset s
  case cmdRestart => exact tidy_live tidy_restart
  case restartDrainComplete => exact tidy_live tidy_restartDrained
  case clearCounts => exact tidy_live tidy_clearStale
  case cmdProducer => exact tidy_live fun u => tidy_producerWrite u _
  case attentionRefresh => exact tidy_live fun u => tidy_attentionRefresh u _
  case attentionRearm => exact tidy_live fun u => tidy_attentionRearm u _ _
  case cplRefresh => exact tidy_live tidy_refreshCompletions
  case ackPort => exact tidy_live fun u => tidy_ackPortWrite u _ _
  case registerWrite => exact tidy_live fun u => tidy_windowWrite u _ _ _
  case linkLoss => exact tidy_beginReset s
  case powerOn => exact (tidy_resetBlocks s).trans (.of_eq rfl (Nat.le_refl _) rfl)
  case resetEnd => unfold resetEnds; split; exacts [tidy_resetBlocks s, .refl s]
  case drainedAnswerDiscard => split; exacts [tidy_endRequest s _, .refl s]
  case hostRequestTimeout => split; exacts [tidy_answer fun w u => tidy_timedOut w u, .refl s]
  case lateAnswerDiscard => exact .refl s
  case eventAssemblyStart => exact tidy_live tidy_eventStart
  case reminderAssemblyStart => exact tidy_live tidy_reminderStart
  case firstWriteIssue =>
    refine tidy_live fun u => ?_
    split
    · exact .refl u
    · rename_i h
      exact tidy_issueWrite u (by simpa using h)
  case entryWriteDone => split; exacts [.refl s, tidy_answer_entry s _]
  case commit => split; exacts [tidy_answer fun _ u => tidy_commitAssembly u, .refl s]
  case assemblyAbort => exact tidy_answer fun _ u => tidy_abortAssembly u
  case holdTimerExpiry => exact tidy_live fun u => tidy_holdExpires u _
  case consumerWordReadAnswer => exact tidy_answer fun w u => tidy_consumerHandler _ w u
  case pollTimerExpiry => exact tidy_live fun u => tidy_pollExpires u _
  case holdoffTimerExpiry => exact tidy_live fun u => tidy_holdoffExpires u _
  case signalWriteAnswer => exact tidy_answer fun w u => tidy_signalHandler _ w u

/-- Every step keeps requests and tables tidy. -/
theorem tidy_step (s t : State) (h : step s = .next t) : Tidy s t := by
  unfold step at h
  split at h
  · cases h
    unfold idle
    split
    · exact tidy_elapse s
    · exact .of_eq rfl (Nat.le_refl _) rfl
  · rename_i c rest hp
    exact Tidy.trans (t := { s with pending := rest }) (.of_eq rfl (Nat.le_refl _) rfl) (tidy_exec _ _ _ h)

end Sys2Proof.Machine
end

