-- ==== Sys2Proof/Laws/Reservations.lean ====
section
/-! SUPPORT. Sys2Proof/Laws/Reservations.lean: every step keeps `ReservationsFit` (R137, R141). `Loads k s t`: from `s` to `t` at most
`k` commands came into the processor's hands, and nothing else that the reservations rest on changed. -/
namespace Sys2Proof.Machine

open State

/-- From `s` to `t` at most `k` commands were added to those that hold reservations; setup, restart, completion indices, command
reads and setup reads are as they were. -/
structure Loads (k : Nat) (s t : State) : Prop where
  path : t.proc.path = s.proc.path
  held : t.proc.held ≤ s.proc.held + k
  claims : t.claims = s.claims

namespace Loads

theorem refl (s : State) : Loads 0 s s := ⟨rfl, Nat.le_refl _, rfl⟩

theorem trans {j k : Nat} {s t u : State} (h : Loads j s t) (g : Loads k t u) : Loads (j + k) s u :=
  ⟨g.1.trans h.1, by have := h.2; have := g.2; omega, g.3.trans h.3⟩

theorem mono {j k : Nat} {s t : State} (h : Loads j s t) (hk : j ≤ k) : Loads k s t := ⟨h.1, by have := h.2; omega, h.3⟩

/-- The processor is untouched. -/
theorem of_proc {s t : State} (h : t.proc = s.proc) (hc : t.claims = s.claims) : Loads 0 s t := ⟨by rw [h], by rw [h]; exact Nat.le_refl _, hc⟩

theorem foldl {α : Type} {f : State → α → State} (h : ∀ u a, Loads 0 u (f u a)) (l : List α) (s : State) : Loads 0 s (l.foldl f s) := by
  induction l generalizing s with
  | nil => exact refl s
  | cons a l ih => exact (h s a).trans (ih _)

end Loads

/-! ### The invariant in the words of `Loads` -/

/-- `ReservationsFit`, of what the setup gives, the number of commands held and the reads outstanding. -/
def FitsIn (x : Option SetupBlock × Bool × Word × Word) (held : Nat) (c : Nat × Nat) : Prop :=
  (∀ su, x.1 = some su → held + c.1 ≤ su.cplSize.toNat - (x.2.2.1 - x.2.2.2).toNat ∧ (x.2.2.1 - x.2.2.2).toNat ≤ su.cplSize.toNat ∧
    c.2 = 0 ∧ x.2.1 = false) ∧
  (x.1 = none → held = 0 ∧ x.2.2.1 = x.2.2.2 ∧ (x.2.1 = false → c.1 = 0))

theorem fitsIn_iff (s : State) : ReservationsFit s ↔ FitsIn s.proc.path s.proc.held s.claims := by
  unfold ReservationsFit FitsIn
  refine and_congr (forall_congr' fun su => imp_congr_right fun h => ?_) (imp_congr_right fun _ => ?_)
  · have h' : s.proc.setup = some su := h
    simp only [cplFree, h', Processor.held, claims, Processor.path]
  · simp only [Processor.held, claims, Processor.path, Nat.add_eq_zero_iff, List.length_eq_zero_iff, and_assoc]
    cases s.proc.hand <;> simp

/-- What no command was added by. -/
theorem Loads.fits {s t : State} (h : Loads 0 s t) (k : ReservationsFit s) : ReservationsFit t := by
  rw [fitsIn_iff] at k ⊢
  rw [h.path, h.claims]
  have := h.held
  refine ⟨fun su e => ?_, fun e => ?_⟩
  · have := k.1 su e
    exact ⟨by omega, this.2⟩
  · have := k.2 e
    exact ⟨by omega, this.2⟩

theorem claims_endRequest_le (s : State) (i : Nat) :
    (s.endRequest i).claims.1 ≤ s.claims.1 ∧ (s.endRequest i).claims.2 ≤ s.claims.2 :=
  ⟨outstanding_endRequest_le s i _, outstanding_endRequest_le s i _⟩

theorem fits_endRequest {s : State} (i : Nat) (k : ReservationsFit s) : ReservationsFit (s.endRequest i) := by
  rw [fitsIn_iff] at k ⊢
  obtain ⟨h1, h2⟩ := claims_endRequest_le s i
  refine ⟨fun su e => ?_, fun e => ?_⟩
  · obtain ⟨e1, e2, e3, e4⟩ := k.1 su e
    rw [endRequest_proc]
    exact ⟨by omega, e2, by omega, e4⟩
  · obtain ⟨e1, e2, e3⟩ := k.2 e
    exact ⟨e1, e2, fun hr => by have := e3 hr; omega⟩

theorem fits_answer {s : State} {i : Nat} {p : Issuer → Bool} {f : Issuer → State → State}
    (h : ∀ w u, p w = true → ReservationsFit u → ReservationsFit (f w u)) (k : ReservationsFit s) : ReservationsFit (s.answer i p f) := by
  unfold answer
  split
  · split
    · rename_i hp
      split
      · exact fits_endRequest i k
      · exact h _ _ hp (fits_endRequest i k)
    · exact k
  · exact k

/-- The end of a command read makes room for the command that it brings. -/
theorem fits_command {s : State} {r : SlotRead} {f : State → State} (h : ∀ u, Loads 1 u (f u)) (k : ReservationsFit s) :
    ReservationsFit (s.commandAnswer r f) := by
  unfold commandAnswer answer
  split
  · rename_i q hq
    split
    · rename_i hw
      split
      · exact fits_endRequest _ k
      · rename_i hn
        dsimp only
        split
        · have hw' : q.issuer = .commandRead := by simpa using hw
          have hlt := outstanding_endRequest_lt s r.req q hq
          rw [hw'] at hlt
          have hp : (q.issuer).commandPath = true := by rw [hw']; rfl
          simp only [hp, Bool.and_true, Bool.or_eq_true, not_or, Bool.not_eq_true] at hn
          have hl := h ((s.endRequest r.req).updProc fun p => { p with taken := p.taken + 1 })
          rw [fitsIn_iff] at k ⊢
          rw [hl.path, hl.claims]
          have hh := hl.held
          obtain ⟨h1, h2⟩ := claims_endRequest_le s r.req
          have h1' : (s.endRequest r.req).claims.1 < s.claims.1 := hlt
          simp only [updProc_claims, updProc_proc, Processor.held_of, Processor.path_of, endRequest_proc] at hh ⊢
          refine ⟨fun su e => ?_, fun e => ?_⟩
          · obtain ⟨e1, e2, e3, e4⟩ := k.1 su e
            exact ⟨by omega, e2, by omega, e4⟩
          · obtain ⟨e1, e2, e3⟩ := k.2 e
            have := e3 hn.2
            omega
        · exact fits_endRequest _ k
    · exact k
  · exact k

theorem fits_live {s : State} {f : State → State} (h : ∀ u, ReservationsFit u → ReservationsFit (f u)) (k : ReservationsFit s) :
    ReservationsFit (live f s) := by
  unfold live
  split
  · exact k
  · exact h s k

/-! ### The shared operations -/

theorem loads_complete (s : State) (c : CmdId) (st : Status) (r : BitVec 64) : Loads 1 s (s.complete c st r) := by
  refine ⟨by simp, ?_, by simp⟩
  unfold complete
  dsimp only
  split <;> simp

/-- A command completes after an effect that added none. -/
theorem Loads.complete {s u : State} (h : Loads 0 s u) (c : CmdId) (st : Status) (r : BitVec 64) : Loads 1 s (u.complete c st r) :=
  (h.trans (loads_complete u c st r)).mono (by omega)

theorem loads_holdInHand (s : State) (h : Hand) (c : Option WaitCause) : Loads 1 s (s.holdInHand h c) :=
  ⟨by simp, by simp [holdInHand, Processor.held], by simp⟩

/-- The command in hand is done: where there was one, one command less is held. -/
theorem held_handDone (s : State) : s.handDone.proc.held + s.proc.hand.toList.length = s.proc.held := by
  simp [handDone, Processor.held]

theorem loads_enterTable (s : State) (c : CmdId) (w : DeferKind) : Loads 1 s (s.enterTable c w) := by
  refine ⟨by simp, ?_, by simp⟩
  unfold enterTable
  split
  · cases w <;> simp [Processor.held] <;> omega
  · exact (loads_holdInHand s _ _).held

theorem loads_judgeDeferrable (s : State) (c : CmdId) (w : DeferKind) : Loads 1 s (s.judgeDeferrable c w) := by
  unfold judgeDeferrable
  split
  · split
    · exact loads_complete s _ _ _
    · split
      · exact loads_enterTable s _ _
      · refine Loads.complete ⟨?_, ?_, ?_⟩ _ _ _ <;> simp
  all_goals
    split
    · exact loads_complete s _ _ _
    · exact loads_enterTable s _ _

/-- The hand is given back at the end of what its command did. -/
theorem loads_handDone {s u : State} (h : Loads 1 (s.updProc fun p => { p with hand := none }) u) (hs : s.proc.hand.isSome = true) :
    Loads 0 s u.handDone := by
  obtain ⟨h1, h2, h3⟩ := h
  obtain ⟨x, hx⟩ := Option.isSome_iff_exists.1 hs
  refine ⟨by simpa using h1, ?_, by simpa using h3⟩
  have := held_handDone u
  simp [Processor.held, hx] at h2 this ⊢
  omega

theorem loads_settleHand (s : State) : Loads 0 s s.settleHand := by
  unfold settleHand
  split
  · rename_i h
    split
    · exact loads_handDone (loads_judgeDeferrable _ _ _) (by simp [h])
    · exact .refl s
  · exact .refl s

/-- The command in hand completes after an effect that added none. -/
theorem loads_completeHand {s u : State} (h : Loads 0 s u) (hu : u.proc.hand = s.proc.hand) (hs : s.proc.hand.isSome = true)
    (c : CmdId) (st : Status) (r : BitVec 64) : Loads 0 s (u.complete c st r).handDone := by
  have hc := loads_complete u c st r
  refine ⟨by simpa using h.1, ?_, by simpa using h.3⟩
  have h1 := held_handDone (u.complete c st r)
  have h2 : (u.complete c st r).proc.hand = u.proc.hand := by
    unfold State.complete
    dsimp only
    split <;> simp [pushCompletion]
  rw [h2, hu] at h1
  have h3 : s.proc.hand.toList.length = 1 := by
    obtain ⟨x, hx⟩ := Option.isSome_iff_exists.1 hs
    simp [hx]
  have := h.2
  have := hc.2
  omega

theorem loads_endWaits (s : State) (t : TargetId) (met : List TargetId) : Loads 0 s (s.endWaits t met) := ⟨by simp, by simp, by simp⟩

theorem hand_sweepDeferredFor (s : State) (gone : Option TargetId) (h : Nat) (met : List TargetId) :
    (s.sweepDeferredFor gone h met).proc.hand = s.proc.hand := by
  have H : ∀ (l : List Completion) (u : State), (l.foldl (fun u c => u.pushCompletion c) u).proc.hand = u.proc.hand := by
    intro l
    induction l with
    | nil => exact fun _ => rfl
    | cons c l ih => exact fun u => by rw [List.foldl_cons, ih]; simp [pushCompletion]
  simp [sweepDeferredFor, H]

theorem hand_endWaits (s : State) (t : TargetId) (met : List TargetId) : (s.endWaits t met).proc.hand = s.proc.hand := by
  unfold endWaits detachNow
  split <;> simp [hand_sweepDeferredFor]

theorem loads_settleBundleSet (s : State) (k : CmdId) (b : BundleId) (c : BundleConfig) (t : TargetId) (met : List TargetId)
    (hs : s.proc.hand.isSome = true) : Loads 0 s (s.settleBundleSet k b c t met) := by
  unfold settleBundleSet
  dsimp only
  split
  · refine loads_completeHand (Loads.trans (Loads.of_proc (t := s.writeBundleSet b c) ?_ ?_) (loads_endWaits _ _ _)) ?_ hs _ _ _ <;>
      simp [hand_endWaits]
  · exact loads_completeHand (loads_endWaits s t met) (hand_endWaits s t met) hs _ _ _

theorem loads_afterAssembly (a : Assembly) (met : List TargetId) (s : State) : Loads 0 s (s.afterAssembly a met) := by
  unfold afterAssembly
  split
  · rename_i h
    split
    · exact loads_endWaits _ _ _
    · exact loads_settleBundleSet s _ _ _ _ _ (by simp [h])
  · exact (loads_endWaits _ _ _).trans (loads_settleHand _)

theorem loads_afterTargetAnswer (t : TargetId) (s : State) : Loads 0 s (s.afterTargetAnswer t) :=
  Loads.trans (t := s.tryDetach t) ⟨by simp, by simp, by simp⟩ (loads_settleHand _)

theorem loads_commitAssembly (s : State) : Loads 0 s s.commitAssembly := by
  unfold commitAssembly
  split
  · exact .refl s
  · exact Loads.trans (.of_proc (by simp) (by simp)) (loads_afterAssembly _ _ _)

theorem loads_abortAssembly (s : State) : Loads 0 s s.abortAssembly := by
  unfold abortAssembly
  split
  · exact .refl s
  · exact Loads.trans (.of_proc (by simp) (by simp)) (loads_afterAssembly _ _ _)

/-! ### Commands -/

theorem loads_issueReply (s : State) (c : CmdId) (r : BitVec 64) (a : Addr) (rec : List Byte) : Loads 1 s (s.issueReply c r a rec) :=
  Loads.trans (k := 0) (loads_holdInHand s (.reply c r) none) (.of_proc rfl (by simp))

theorem loads_raise (s : State) (c : CmdId) (n : Half) (k : Byte) (d : Option Half) : Loads 1 s (s.raiseCommand c n k d) := by
  unfold raiseCommand
  (repeat' split)
  all_goals exact Loads.complete (.of_proc (by simp) (by simp)) _ _ _

theorem loads_timeSet (s : State) (c : CmdId) (v : BitVec 64) : Loads 1 s (s.timeSetCommand c v) := by
  have h (w : Time) (n : SourceId) (d : Option Half) (x : BitVec 64) : Loads 1 s (((s.setTimebase w).accept n d).complete c .ok x) :=
    Loads.complete (.of_proc (by simp) (by simp)) _ _ _
  unfold timeSetCommand
  split
  · exact loads_complete s _ _ _
  · exact h _ _ _ _

theorem loads_routeSet (s : State) (c : CmdId) (n : Half) (e : Option RouteEntry) (d : Bool) : Loads 1 s (s.routeSetCommand c n e d) := by
  unfold routeSetCommand
  split
  · split <;> exact Loads.complete ⟨by simp, by simp, by simp⟩ _ _ _
  · exact loads_complete s _ _ _

theorem loads_routeRead (s : State) (c : CmdId) (n : Half) (a : Addr) : Loads 1 s (s.routeReadCommand c n a) := by
  unfold routeReadCommand
  (repeat' split)
  all_goals first
    | exact loads_issueReply _ _ _ _ _
    | exact loads_complete _ _ _ _

theorem loads_sourceClear (s : State) (c : CmdId) (n : Half) : Loads 1 s (s.sourceClearCommand c n) := by
  unfold sourceClearCommand
  split
  · exact Loads.complete ⟨by simp, by simp, by simp⟩ _ _ _
  · exact loads_complete _ _ _ _

theorem loads_tallyReset (s : State) (c : CmdId) (n : Half) : Loads 1 s (s.tallyResetCommand c n) := by
  have h : ∀ (u : State) (m : SourceId), Loads 0 u (u.resetTally m) := fun u m => .of_proc rfl rfl
  unfold tallyResetCommand
  split
  · exact Loads.complete (.foldl h _ s) _ _ _
  · split
    · exact Loads.complete (h s _) _ _ _
    · exact loads_complete s _ _ _

theorem loads_completeBundleSet (s : State) (k : CmdId) (b : BundleId) (c : BundleConfig) : Loads 1 s (s.completeBundleSet k b c) := by
  unfold completeBundleSet
  exact Loads.complete ⟨by simp, by simp, by simp⟩ _ _ _

theorem loads_bundleSet (s : State) (k : CmdId) (b : Byte) (c : Option BundleConfig) : Loads 1 s (s.bundleSetCommand k b c) := by
  unfold bundleSetCommand judgeBundleSet
  (repeat' split)
  all_goals first
    | exact loads_complete _ _ _ _
    | exact loads_holdInHand _ _ _
    | exact loads_completeBundleSet _ _ _ _

theorem loads_bundleRead (s : State) (k : CmdId) (b : Byte) (n : Half) (a : Addr) : Loads 1 s (s.bundleReadCommand k b n a) := by
  unfold bundleReadCommand
  (repeat' split)
  all_goals first
    | exact loads_issueReply _ _ _ _ _
    | exact loads_complete _ _ _ _

theorem loads_bundleFlush (s : State) (k : CmdId) (b : Byte) : Loads 1 s (s.bundleFlushCommand k b) := by
  unfold bundleFlushCommand
  split
  · exact Loads.complete ⟨by simp, by simp, by simp⟩ _ _ _
  · exact loads_complete _ _ _ _

theorem loads_ack (s : State) (c : CmdId) (b : Byte) (k : Half) : Loads 1 s (s.ackCommand c b k) := by
  unfold ackCommand
  (repeat' split)
  all_goals first
    | exact Loads.complete ⟨by simp, by simp, by simp⟩ _ _ _

theorem loads_attach (s : State) (c : CmdId) (p h : Half) (d : BitVec 64) (o v : Word) (a : Addr) :
    Loads 1 s (s.attachCommand c p h d o v a) := by
  unfold attachCommand
  (repeat' split)
  all_goals first
    | exact loads_complete _ _ _ _
    | exact Loads.trans (k := 0) (loads_holdInHand s (.attach c _) none) (.of_proc rfl (by simp))

theorem loads_detach (s : State) (c : CmdId) (t : Byte) : Loads 1 s (s.detachCommand c t) := by
  unfold detachCommand
  split
  · exact loads_judgeDeferrable _ _ _
  · exact loads_complete _ _ _ _

theorem loads_move (s : State) (c : CmdId) (t : Byte) (x y : TargetState) : Loads 1 s (s.moveCommand c t x y) := by
  unfold moveCommand
  (repeat' split)
  all_goals first
    | exact Loads.complete (.of_proc (by simp) (by simp)) _ _ _

theorem loads_targetRead (s : State) (c : CmdId) (t : Byte) (a : Addr) : Loads 1 s (s.targetReadCommand c t a) := by
  unfold targetReadCommand
  (repeat' split)
  all_goals first
    | exact loads_issueReply _ _ _ _ _
    | exact loads_complete _ _ _ _

theorem loads_drain (s : State) (c : CmdId) (t : Byte) (k : Half) : Loads 1 s (s.drainCommand c t k) := by
  unfold drainCommand
  split
  · exact loads_judgeDeferrable _ _ _
  · exact loads_complete _ _ _ _

/-- An entry of the table ends, and what waited for it. -/
theorem loads_endEntry {s u : State} (c : Completion) (hp : u.proc.path = s.proc.path) (hh : u.proc.held + 1 = s.proc.held)
    (hc : u.claims = s.claims) : Loads 0 s (u.pushCompletion c).sweepDeferred :=
  ⟨by simpa using hp, by simp [hh], by simpa using hc⟩

theorem length_eraseP_found {α : Type} (p : α → Bool) (l : List α) {a : α} (h : l.find? p = some a) :
    (l.eraseP p).length + 1 = l.length := by
  have ha := List.mem_of_find?_eq_some h
  have hp := List.find?_some h
  have := List.length_pos_of_mem ha
  rw [List.length_eraseP_of_mem ha hp]
  omega

theorem loads_abort (s : State) (c : CmdId) (k : Half) : Loads 1 s (s.abortCommand c k) := by
  unfold abortCommand
  split
  · rename_i d hd
    have hl := length_eraseP_found _ _ hd
    refine Loads.complete ?_ _ _ _
    unfold abortDeferred
    dsimp only
    refine loads_endEntry _ ?_ ?_ ?_
    · split <;> simp
    · split <;> simp [Processor.held] <;> omega
    · split <;> simp
  · exact loads_complete _ _ _ _

theorem loads_drainExpires (s : State) (e : Fin 4) : Loads 0 s (s.drainExpires e) := by
  unfold drainExpires
  split
  · rename_i h
    obtain ⟨hl, _⟩ := List.getElem?_eq_some_iff.1 h
    refine Loads.trans (loads_endEntry _ ?_ ?_ ?_) (loads_settleHand _)
    · simp
    · have := List.length_eraseIdx_of_lt hl
      simp [Processor.held, this]
      omega
    · simp
  · exact .refl s

/-! ### Answers, timers and registers -/

theorem loads_attachAnswer (s : State) (v : ReadAnswer) : Loads 0 s (s.attachAnswer v) := by
  unfold attachAnswer
  split
  · rename_i h
    split
    · split
      · exact loads_completeHand (s := s) (u := s.updTarget _ _) (.of_proc rfl rfl) rfl (by simp [h]) _ _ _
      · exact loads_completeHand (.refl s) rfl (by simp [h]) _ _ _
    · exact loads_completeHand (.refl s) rfl (by simp [h]) _ _ _
  · exact .refl s

theorem loads_replyAnswer (s : State) (v : WriteAnswer) : Loads 0 s (s.replyAnswer v) := by
  unfold replyAnswer
  split
  · rename_i h
    split <;> exact loads_completeHand (.refl s) rfl (by simp [h]) _ _ _
  · exact .refl s

theorem loads_consumerAnswer (t : TargetId) (v : ReadAnswer) (s : State) : Loads 0 s ((s.consumerAnswer t v).afterTargetAnswer t) :=
  Loads.trans (.of_proc (by simp) (by simp)) (loads_afterTargetAnswer t _)

theorem loads_signalAnswer (t : TargetId) (v : WriteAnswer) (s : State) : Loads 0 s ((s.signalAnswer t v).afterTargetAnswer t) :=
  Loads.trans (.of_proc (by simp) (by simp)) (loads_afterTargetAnswer t _)

theorem loads_setProcState (s : State) (st : ProcState) : Loads 0 s (s.setProcState st) := ⟨by simp, by simp, by simp⟩

theorem loads_halt (s : State) (r : HaltReason) : Loads 0 s (s.halt r) := ⟨by simp, by simp, by simp⟩

theorem loads_holdExpires (s : State) (b : BundleId) : Loads 0 s (s.holdExpires b) := by
  unfold holdExpires
  split
  · split
    · exact .of_proc (by simp) (by simp)
    · refine Loads.trans (j := 0) ⟨?_, ?_, ?_⟩ (loads_settleHand _) <;> simp
  · exact .refl s

theorem loads_ackPortWrite (s : State) (b : Byte) (k : Half) : Loads 0 s (s.ackPortWrite b k) := by
  unfold ackPortWrite
  split
  · exact .of_proc rfl rfl
  · split
    · refine Loads.trans (j := 0) ⟨?_, ?_, ?_⟩ (loads_settleHand _) <;> simp
    · exact .of_proc (by simp [countStale]) (by simp [countStale])

theorem loads_eventStart (s : State) : Loads 0 s s.eventStart := by
  unfold eventStart
  (repeat' split)
  all_goals first
    | exact .refl s
    | exact .of_proc (by simp [startEvent, takeRecords_requests]) (by simp [startEvent, claims, outstanding, takeRecords_requests])

theorem loads_reminderStart (s : State) : Loads 0 s s.reminderStart := by
  unfold reminderStart
  (repeat' split)
  all_goals first
    | exact .refl s
    | exact .of_proc (by simp [startReminder]) (by simp [startReminder])

theorem loads_elapse (s : State) : Loads 0 s s.elapse := by
  have h : ∀ who, s.elapse.outstanding who = s.outstanding who := by
    intro who
    simp only [outstanding, elapse, List.countP_map, Function.comp_def]
  refine ⟨?_, ?_, by simp [claims, h]⟩
  all_goals
    unfold elapse live
    split
  · rfl
  · rfl
  · exact Nat.le_refl _
  · simp [tickTimers, Processor.held]

/-! ### The setup, the completion ring and restarts -/

/-- The processor takes a command only with a free slot beyond the reservations held (R137). -/
theorem fits_takeCommand (s : State) (k : ReservationsFit s) : ReservationsFit s.takeCommand := by
  unfold takeCommand
  split
  · rename_i hw
    split
    · rename_i su hs
      split
      · rename_i hc
        rw [fitsIn_iff] at k ⊢
        refine ⟨fun x e => ?_, fun e => ?_⟩
        · have hx : s.proc.setup = some x := e
          obtain ⟨e1, e2, e3, e4⟩ := k.1 x e
          refine ⟨?_, e2, ?_, e4⟩
          · simp only [wantsCommand, Bool.and_eq_true, Bool.not_eq_true', Option.isNone_iff_eq_none] at hw
            have h0 := (outstanding_eq_zero s .commandRead).1 hw.1.2
            simp only [canReserve, cplFree, hx, decide_eq_true_eq] at hc
            show s.proc.held + (s.issueRequest .commandRead _ _).outstanding .commandRead ≤ _
            rw [outstanding_issueRequest, h0]
            simp only [Processor.held, hw.1.1.1.2, Option.toList_none, List.length_nil, if_true]
            simp only [issueRequest_proc, Processor.path]
            omega
          · show (s.issueRequest .commandRead _ _).outstanding .setupRead = 0
            rw [outstanding_issueRequest]
            simpa [claims] using e3
        · have hx : s.proc.setup = none := e
          simp [hs] at hx
      · exact Loads.fits (s := s) ⟨by simp, by simp, by simp⟩ k
    · exact k
  · exact k

theorem fits_commandRefused (s : State) (k : ReservationsFit s) : ReservationsFit s.commandRefused := by
  unfold commandRefused
  split
  · exact (loads_halt s _).fits k
  · exact k

theorem claims_issueCplSignal (s : State) (c : Completion) : Loads 0 s (s.issueCplSignal c) := .of_proc (by simp) (by simp)

/-- A completion record written frees its reservation as it takes its slot (R141). -/
theorem fits_completionAnswer (s : State) (v : WriteAnswer) (k : ReservationsFit s) : ReservationsFit (s.completionAnswer v) := by
  unfold completionAnswer
  split
  · exact k
  · rename_i c rest hc
    have hh : ∀ f : Processor → Processor, (f s.proc).deferred = s.proc.deferred → (f s.proc).completions = rest →
        (f s.proc).hand = s.proc.hand → (f s.proc).held + 1 = s.proc.held := by
      intro f h1 h2 h3
      simp [Processor.held, h1, h2, h3, hc]
      omega
    split
    · have hk : ReservationsFit (s.updProc fun p => { p with completions := rest, cplProduced := p.cplProduced + 1 }) := by
        have := hh (fun p => { p with completions := rest, cplProduced := p.cplProduced + 1 }) rfl rfl rfl
        rw [fitsIn_iff] at k ⊢
        refine ⟨fun su e => ?_, fun e => ?_⟩
        · obtain ⟨e1, e2, e3, e4⟩ := k.1 su e
          simp only [updProc_proc, updProc_claims, Processor.path] at e1 e2 e3 e4 this ⊢
          refine ⟨?_, ?_, e3, e4⟩
          · bv_omega
          · bv_omega
        · have := (k.2 e).1
          omega
      exact Loads.fits ((claims_issueCplSignal _ c).trans (.of_proc (by simp) (by simp))) hk
    · have := hh (fun p => { p with completions := rest }) rfl rfl rfl
      refine Loads.fits ⟨?_, ?_, ?_⟩ k
      · simp
      · simp only [issueCompletion_frame, halt_frame, updProc_proc]
        omega
      · simp

theorem fits_cplConsumedMoved (s : State) (v : Word) (hv : (s.proc.cplProduced - v).toNat ≤ (s.proc.cplProduced - s.proc.cplConsumed).toNat)
    (k : ReservationsFit s) : ReservationsFit (s.cplConsumedMoved v) := by
  have hk : ReservationsFit (s.updProc fun p => { p with cplConsumed := v }) := by
    rw [fitsIn_iff] at k ⊢
    refine ⟨fun su e => ?_, fun e => ?_⟩
    · obtain ⟨e1, e2, e3, e4⟩ := k.1 su e
      simp only [updProc_proc, updProc_claims, Processor.path, Processor.held_of] at e1 e2 e3 e4 ⊢
      exact ⟨by omega, by omega, e3, e4⟩
    · obtain ⟨e1, e2, e3⟩ := k.2 e
      refine ⟨e1, ?_, e3⟩
      simp only [updProc_proc, Processor.path] at e2 ⊢
      rw [e2] at hv ⊢
      bv_omega
  unfold cplConsumedMoved
  dsimp only
  split
  · exact fits_takeCommand _ ((loads_setProcState _ _).fits hk)
  · exact hk

theorem fits_cplConsumerAnswer (s : State) (v : ReadAnswer) (k : ReservationsFit s) : ReservationsFit (s.cplConsumerAnswer v) := by
  unfold cplConsumerAnswer
  (repeat' split)
  all_goals first
    | exact k
    | exact (loads_halt s _).fits k
    | exact fits_cplConsumedMoved s _ (by rw [BitVec.sub_self]; exact Nat.zero_le _) k
    | refine fits_cplConsumedMoved s _ ?_ k
      rename_i h
      bv_omega

/-- A setup read is issued only while no setup is held. -/
theorem fits_issueSetupRead (s : State) (h : s.proc.setup = none) (k : ReservationsFit s) : ReservationsFit s.issueSetupRead := by
  unfold issueSetupRead
  split
  · rw [fitsIn_iff] at k ⊢
    refine ⟨fun su e => ?_, fun e => ?_⟩
    · have : s.proc.setup = some su := e
      simp [h] at this
    · obtain ⟨e1, e2, e3⟩ := k.2 e
      refine ⟨e1, e2, fun hr => ?_⟩
      show (s.issueRequest .setupRead _ _).outstanding .commandRead = 0
      rw [outstanding_issueRequest]
      simpa [claims] using e3 hr
  · exact (loads_halt s _).fits k

/-- A setup is loaded into an empty processor (R133). -/
theorem fits_loadSetup (s : State) (b : SetupBlock) (h : s.proc.setup = none) (hr : s.proc.restarting = false)
    (ho : s.outstanding .setupRead = 0) (k : ReservationsFit s) : ReservationsFit (s.loadSetup b) := by
  have hk : ReservationsFit (s.updProc fun p => { p with setup := some b }) := by
    rw [fitsIn_iff] at k ⊢
    obtain ⟨e1, e2, e3⟩ := k.2 h
    have e4 := e3 hr
    refine ⟨fun su e => ?_, fun e => ?_⟩
    · simp only [updProc_proc, updProc_claims, Processor.path, Processor.held_of] at e1 e2 e4 ⊢
      rw [e1, e4, e2, BitVec.sub_self]
      exact ⟨Nat.zero_le _, Nat.zero_le _, ho, hr⟩
    · simp [Processor.path] at e
  unfold loadSetup
  dsimp only
  split
  · split
    · exact hk
    all_goals exact (loads_setProcState _ _).fits hk
  · exact (loads_halt _ _).fits hk

theorem fits_setEnable (s : State) (v : Bool) (k : ReservationsFit s) : ReservationsFit (s.setEnable v) := by
  have h : ReservationsFit (s.storeEnable v) := Loads.fits (.of_proc rfl rfl) k
  unfold setEnable
  dsimp only
  (repeat' split)
  all_goals first
    | exact k
    | exact h
    | exact (loads_setProcState _ _).fits h
    | skip
  rename_i hs _
  exact fits_issueSetupRead _ (by simpa using hs) h

/-- A restart leaves nothing that holds a reservation (R149). -/
theorem fits_restart (s : State) : ReservationsFit s.restart := by
  have h : ReservationsFit (s.updProc fun p =>
      { p with
        state := .stopped, setup := none, producer := 0, taken := 0, hand := none, deferred := [], completions := []
        cplProduced := 0, cplConsumed := 0, restarting := true }) := by
    rw [fitsIn_iff]
    exact ⟨fun su e => by simp [Processor.path] at e, fun _ => ⟨rfl, rfl, fun e => by simp [Processor.path] at e⟩⟩
  exact Loads.fits (.foldl (fun u t => .of_proc (by simp) (by simp)) _ _) h

theorem fits_restartDrained (s : State) (k : ReservationsFit s) : ReservationsFit s.restartDrained := by
  unfold restartDrained
  split
  · rename_i h
    simp only [Bool.and_eq_true, Bool.not_eq_true'] at h
    have hn : s.proc.setup = none := by
      cases hs : s.proc.setup with
      | none => rfl
      | some su => have := (k.1 su hs).2.2.2; simp [h.1] at this
    refine fits_issueSetupRead _ hn ?_
    rw [fitsIn_iff] at k ⊢
    obtain ⟨e1, e2, _⟩ := k.2 hn
    refine ⟨fun su e => ?_, fun _ => ⟨e1, e2, fun _ => ?_⟩⟩
    · have : s.proc.setup = some su := e
      simp [hn] at this
    · have hb := h.2
      simp only [commandPathBusy, List.any_eq_false] at hb
      show s.outstanding .commandRead = 0
      rw [← outstanding_eq_zero]
      simp only [inFlight, List.any_eq_false, beq_iff_eq]
      exact fun r hr e => hb r hr (by rw [e]; rfl)
  · exact k

theorem loads_producerWrite (s : State) (v : Word) : Loads 0 s (s.producerWrite v) := by
  unfold producerWrite producerPassed
  dsimp only
  (repeat' split)
  all_goals first
    | exact ⟨by simp, by simp, by simp⟩

theorem loads_refreshCompletions (s : State) : Loads 0 s s.refreshCompletions := by
  unfold refreshCompletions
  split <;> exact .of_proc (by simp) (by simp)

theorem loads_attentionRefresh (s : State) (c : BitVec 4) : Loads 0 s (s.attentionRefresh c) :=
  .foldl (fun u t => .of_proc (by simp) (by simp)) _ s

theorem loads_attentionRearm (s : State) (c : BitVec 4) (f : Bool) : Loads 0 s (s.attentionRearm c f) :=
  .foldl (fun u t => .of_proc (by simp) (by simp)) _ s

theorem loads_attentionWrite (s : State) (v : Word) : Loads 0 s (s.attentionWrite v) := by
  have h : ∀ u, Loads 0 s u → Loads 0 s (if v.getLsbD 10 then u.refreshCompletions else u) := by
    intro u h
    split
    · exact h.trans (loads_refreshCompletions _)
    · exact h
  unfold attentionWrite
  refine h _ ?_
  (repeat' split)
  · exact loads_attentionRearm _ _ _
  · exact loads_attentionRefresh _ _
  · exact .refl s

theorem fits_controlWrite (s : State) (v : Word) (k : ReservationsFit s) : ReservationsFit (s.controlWrite v) := by
  unfold controlWrite
  split
  · exact Loads.fits (.of_proc rfl rfl) k
  · dsimp only
    split
    · exact fits_restart _
    · refine fits_setEnable _ _ ?_
      split
      · exact Loads.fits (.of_proc rfl rfl) k
      · exact k

theorem fits_windowWrite (s : State) (o n : Nat) (v : Word) (k : ReservationsFit s) : ReservationsFit (s.windowWrite o n v) := by
  unfold windowWrite
  (repeat' split)
  all_goals first
    | exact k
    | exact fits_controlWrite s v k
    | exact (loads_producerWrite s v).fits k
    | exact (loads_attentionWrite s v).fits k
    | exact (loads_ackPortWrite s _ _).fits k

theorem fits_resetBlocks (s : State) : ReservationsFit s.resetBlocks :=
  ⟨fun su e => by simp [resetBlocks, State.reset, Processor.reset] at e, fun _ => ⟨rfl, rfl, rfl, rfl, fun _ => rfl⟩⟩

/-- The answer to the setup read: the one request there was has ended. -/
theorem fits_setup {s : State} (i : Nat) (p : Issuer → Bool) (f : Issuer → State → State) (v : SetupAnswer)
    (hp : ∀ w u, p w = true → f w u = if w = .setupRead then u.setupAnswer v else f w u)
    (hf : ∀ w u, p w = true → w ≠ .setupRead → ReservationsFit u → ReservationsFit (f w u))
    (o : OneRequestEach s) (k : ReservationsFit s) : ReservationsFit (s.answer i p f) := by
  unfold answer
  split
  · rename_i r hr
    split
    · rename_i hw
      have ke := fits_endRequest i k
      split
      · exact ke
      · rename_i hn
        by_cases hs : r.issuer = .setupRead
        · rw [hp _ _ hw, if_pos hs]
          have hlt := outstanding_endRequest_lt s i r hr
          rw [hs] at hlt
          have h1 := o .setupRead rfl
          have h0 : (s.endRequest i).outstanding .setupRead = 0 := by omega
          have hc : r.issuer.commandPath = true := by rw [hs]; rfl
          simp only [hc, Bool.and_true, Bool.or_eq_true, not_or, Bool.not_eq_true] at hn
          have hn' : (s.endRequest i).proc.setup = none := by
            cases hx : s.proc.setup with
            | none => exact hx
            | some su => have := (k.1 su hx).2.2.1; omega
          unfold setupAnswer
          (repeat' split)
          · exact fits_loadSetup _ _ hn' hn.2 h0 ke
          · exact (loads_halt _ _).fits ke
          · exact (loads_halt _ _).fits ke
        · exact hf _ _ hw hs ke
    · exact k
  · exact k

theorem fits_timedOut (w : Issuer) (s : State) (hw : w ≠ .setupRead) (k : ReservationsFit s) : ReservationsFit (s.timedOut w) := by
  cases w
  · exact (loads_abortAssembly s).fits k
  · exact (loads_consumerAnswer _ _ s).fits k
  · exact (loads_signalAnswer _ _ s).fits k
  · exact fits_commandRefused s k
  · exact (loads_replyAnswer s _).fits k
  · exact (loads_attachAnswer s _).fits k
  · exact fits_completionAnswer s _ k
  · unfold timedOut cplSignalAnswer
    exact (loads_halt s _).fits k
  · exact fits_cplConsumerAnswer s _ k
  · exact absurd rfl hw

/-- Every row of the table keeps the reservations within the free slots. -/
theorem fits_exec (c : Instr) (s t : State) (h : exec c s = .next t) (o : OneRequestEach s) (k : ReservationsFit s) :
    ReservationsFit t := by
  cases c <;>
  simp only [exec, execSampledLevelChange, execQualificationExpiry, execTimebaseWrap, execNop, execBadKind,
    execRaise, execTimeSet, execTimeRead, execRouteSet, execRouteRead, execSourceClear, execTallyReset,
    execBundleSet, execBundleRead, execBundleFlush, execAck, execTargetAttach, execTargetDetach, execTargetQuiesce,
    execTargetResume, execTargetRead, execDrain, execFence, execAbort, execCommandTake, execCommandReadRefused,
    execReplyWriteAnswer, execTargetAttachReadAnswer, execDrainTimerExpiry, execCompletionWriteAnswer,
    execCompletionSignalAnswer, execCompletionConsumerReadAnswer, execSetupReadAnswer, execEnable, execDeviceReset,
    execCmdRestart, execRestartDrainComplete, execClearCounts, execCmdProducer, execAttentionRefresh,
    execAttentionRearm, execCplRefresh, execAckPort, execRegisterWrite, execLinkLoss, execPowerOn, execResetEnd,
    execDrainedAnswerDiscard, execHostRequestTimeout, execLateAnswerDiscard, execEventAssemblyStart,
    execReminderAssemblyStart, execFirstWriteIssue, execEntryWriteDone, execCommit, execAssemblyAbort,
    execHoldTimerExpiry, execConsumerWordReadAnswer, execPollTimerExpiry, execHoldoffTimerExpiry,
    execSignalWriteAnswer, Host.Outcome.next.injEq] at h <;>
  subst h
  case sampledLevelChange =>
    refine fits_live (s := s.setLine _ _) (fun u => Loads.fits ?_) (Loads.fits (.of_proc rfl rfl) k)
    unfold lineMoved
    dsimp only
    (repeat' split) <;> exact .of_proc (by simp) (by simp)
  case qualificationExpiry =>
    refine fits_live (fun u => Loads.fits ?_) k
    unfold qualificationExpires
    split <;> exact .of_proc (by simp) (by simp)
  case timebaseWrap => split; exacts [(loads_elapse s).fits k, k]
  case nop => exact fits_command (fun u => loads_complete u _ _ _) k
  case badKind => exact fits_command (fun u => loads_complete u _ _ _) k
  case raise => exact fits_command (fun u => loads_raise u _ _ _ _) k
  case timeSet => exact fits_command (fun u => loads_timeSet u _ _) k
  case timeRead => exact fits_command (fun u => loads_complete u _ _ _) k
  case routeSet => exact fits_command (fun u => loads_routeSet u _ _ _ _) k
  case routeRead => exact fits_command (fun u => loads_routeRead u _ _ _) k
  case sourceClear => exact fits_command (fun u => loads_sourceClear u _ _) k
  case tallyReset => exact fits_command (fun u => loads_tallyReset u _ _) k
  case bundleSet => exact fits_command (fun u => loads_bundleSet u _ _ _) k
  case bundleRead => exact fits_command (fun u => loads_bundleRead u _ _ _ _) k
  case bundleFlush => exact fits_command (fun u => loads_bundleFlush u _ _) k
  case ack => exact fits_command (fun u => loads_ack u _ _ _) k
  case targetAttach => exact fits_command (fun u => loads_attach u _ _ _ _ _ _ _) k
  case targetDetach => exact fits_command (fun u => loads_detach u _ _) k
  case targetQuiesce => exact fits_command (fun u => loads_move u _ _ _ _) k
  case targetResume => exact fits_command (fun u => loads_move u _ _ _ _) k
  case targetRead => exact fits_command (fun u => loads_targetRead u _ _ _) k
  case drain => exact fits_command (fun u => loads_drain u _ _ _) k
  case fence => exact fits_command (fun u => loads_judgeDeferrable u _ _) k
  case abort => exact fits_command (fun u => loads_abort u _ _) k
  case commandTake => exact fits_live fits_takeCommand k
  case commandReadRefused => exact fits_answer (fun _ u _ => fits_commandRefused u) k
  case replyWriteAnswer => exact fits_answer (fun _ u _ => (loads_replyAnswer u _).fits) k
  case targetAttachReadAnswer => exact fits_answer (fun _ u _ => (loads_attachAnswer u _).fits) k
  case drainTimerExpiry => exact fits_live (fun u => (loads_drainExpires u _).fits) k
  case completionWriteAnswer => exact fits_answer (fun _ u _ => fits_completionAnswer u _) k
  case completionSignalAnswer =>
    refine fits_answer (fun _ u _ => Loads.fits ?_) k
    unfold cplSignalAnswer
    split
    · exact .refl u
    · exact loads_halt u _
  case completionConsumerReadAnswer => exact fits_answer (fun _ u _ => fits_cplConsumerAnswer u _) k
  case setupReadAnswer a v =>
    refine fits_setup _ _ _ v (fun w u hw => ?_) (fun w u hw hn => absurd (by simpa using hw) hn) o k
    simp at hw
    simp [hw]
  case enable => exact fits_live (fun u => fits_setEnable u _) k
  case deviceReset => exact Loads.fits (.of_proc rfl rfl) k
  case cmdRestart => exact fits_live (fun u _ => fits_restart u) k
  case restartDrainComplete => exact fits_live fits_restartDrained k
  case clearCounts => exact fits_live (fun u => Loads.fits (.of_proc rfl rfl)) k
  case cmdProducer => exact fits_live (fun u => (loads_producerWrite u _).fits) k
  case attentionRefresh => exact fits_live (fun u => (loads_attentionRefresh u _).fits) k
  case attentionRearm => exact fits_live (fun u => (loads_attentionRearm u _ _).fits) k
  case cplRefresh => exact fits_live (fun u => (loads_refreshCompletions u).fits) k
  case ackPort => exact fits_live (fun u => (loads_ackPortWrite u _ _).fits) k
  case registerWrite => exact fits_live (fun u => fits_windowWrite u _ _ _) k
  case linkLoss => exact Loads.fits (.of_proc rfl rfl) k
  case powerOn => exact Loads.fits (s := s.resetBlocks) (.of_proc rfl rfl) (fits_resetBlocks s)
  case resetEnd => unfold resetEnds; split; exacts [fits_resetBlocks s, k]
  case drainedAnswerDiscard => split; exacts [fits_endRequest _ k, k]
  case hostRequestTimeout =>
    split
    · exact fits_setup _ _ _ .refused (fun w u _ => by split <;> simp [*, timedOut]) (fun w u _ => fits_timedOut w u) o k
    · exact k
  case lateAnswerDiscard => exact k
  case eventAssemblyStart => exact fits_live (fun u => (loads_eventStart u).fits) k
  case reminderAssemblyStart => exact fits_live (fun u => (loads_reminderStart u).fits) k
  case firstWriteIssue =>
    refine fits_live (fun u => Loads.fits ?_) k
    split <;> exact .of_proc (by simp) (by simp)
  case entryWriteDone =>
    split
    · exact k
    · exact fits_answer (fun _ u _ => Loads.fits (.of_proc (by simp) (by simp))) k
  case commit => split; exacts [fits_answer (fun _ u _ => (loads_commitAssembly u).fits) k, k]
  case assemblyAbort => exact fits_answer (fun _ u _ => (loads_abortAssembly u).fits) k
  case holdTimerExpiry => exact fits_live (fun u => (loads_holdExpires u _).fits) k
  case consumerWordReadAnswer =>
    refine fits_answer (fun w u _ => Loads.fits ?_) k
    unfold consumerHandler
    split
    · exact loads_consumerAnswer _ _ u
    · exact .refl u
  case pollTimerExpiry =>
    refine fits_live (fun u => Loads.fits ?_) k
    unfold pollExpires
    dsimp only
    (repeat' split) <;> exact .of_proc (by simp) (by simp)
  case holdoffTimerExpiry =>
    refine fits_live (fun u => Loads.fits ?_) k
    unfold holdoffExpires
    dsimp only
    (repeat' split) <;> exact .of_proc (by simp) (by simp)
  case signalWriteAnswer =>
    refine fits_answer (fun w u _ => Loads.fits ?_) k
    unfold signalHandler
    split
    · exact loads_signalAnswer _ _ u
    · exact .refl u

/-- Every step keeps the reservations within the completion free slots (R141). -/
theorem fits_step (s t : State) (h : step s = .next t) (o : OneRequestEach s) (k : ReservationsFit s) : ReservationsFit t := by
  unfold step at h
  split at h
  · cases h
    unfold idle
    split
    · exact (loads_elapse s).fits k
    · exact Loads.fits (.of_proc rfl rfl) k
  · rename_i c rest hp
    exact fits_exec c { s with pending := rest } t h o (Loads.fits (s := s) (.of_proc rfl rfl) k)

end Sys2Proof.Machine
end

