-- ==== Sys2Proof/Laws/Standing.lean ====
section
/-! SUPPORT. Sys2Proof/Laws/Standing.lean: what every operation keeps of how a bundle stands: OFF by its configuration, HELD on a
target that is not DETACHED, its hold timer PAUSED or RUNNING by its target, its EVENT assembly on its own target. -/
namespace Sys2Proof.Machine

open State

set_option Elab.async false

/-- The bundle and the target of an EVENT assembly in flight. -/
def State.eventFor (s : State) : Option (BundleId × TargetId) :=
  match s.assembly with
  | some a => if a.kind = .event then some (a.bundle, a.target) else none
  | none => none

/-- How the bundles stand; with `strict` off, the hold timers are still to be judged. -/
structure Standing (strict : Bool) (s : State) : Prop where
  off : ∀ b, (s.run b).state = .off ↔ (s.config b).enabled = false
  calm : ∀ b, (s.run b).state ≠ .held → (s.run b).holdTimer = .stopped
  held : ∀ b, (s.run b).state = .held → ∃ k, (s.config b).target = some k ∧ (s.target k).state ≠ .detached
  event : ∀ b k, s.eventFor = some (b, k) → (s.run b).state = .assembling ∧ (s.config b).target = some k
  timers : strict = true → ∀ b, (s.run b).holdTimer.judged (s.pausesHold b) = (s.run b).holdTimer

/-- From `s` to `t` the bundles go on standing. -/
def Stands (s t : State) : Prop := ∀ p, Standing p s → Standing p t

theorem judged_judged (x : HoldTimer) (p q : Bool) : (x.judged p).judged q = x.judged q := by
  cases x <;> cases p <;> cases q <;> rfl

theorem pausesHold_congr {s t : State} {b c : BundleId} (h1 : t.config b = s.config c) (h2 : ∀ k, (t.target k).state = (s.target k).state) :
    t.pausesHold b = s.pausesHold c := by simp only [pausesHold, h1, h2]

namespace Stands

theorem refl (s : State) : Stands s s := fun _ => id

theorem trans {s t u : State} (h : Stands s t) (k : Stands t u) : Stands s u := fun p => k p ∘ h p

/-- Nothing on which the standing of bundles depends changed. -/
theorem of_eq {s t : State} (h1 : t.bundleConfig = s.bundleConfig) (h2 : t.bundleRun = s.bundleRun) (h3 : t.eventFor = s.eventFor)
    (h4 : ∀ k, (t.target k).state = (s.target k).state) : Stands s t := by
  have hc : ∀ b, t.config b = s.config b := fun b => by simp [State.config, h1]
  have hr : ∀ b, t.run b = s.run b := fun b => by simp [State.run, h2]
  refine fun p h => ⟨fun b => ?_, fun b => ?_, fun b => ?_, fun b k e => ?_, fun q b => ?_⟩
  · rw [hr, hc]; exact h.off b
  · rw [hr]; exact h.calm b
  · simp only [hr, hc, h4]; exact h.held b
  · rw [hr, hc]; exact h.event b k (h3 ▸ e)
  · rw [hr, pausesHold_congr (hc b) h4]; exact h.timers q b

theorem updProc (s : State) (f : Processor → Processor) : Stands s (s.updProc f) := of_eq rfl rfl rfl fun _ => rfl

theorem foldl {α : Type} {f : State → α → State} (h : ∀ u a, Stands u (f u a)) (l : List α) (s : State) : Stands s (l.foldl f s) := by
  induction l generalizing s with
  | nil => exact refl s
  | cons a l ih => exact (h s a).trans (ih _)

end Stands

/-- One bundle's run-time half changes. -/
theorem Standing.updRun {p : Bool} {s : State} (h : Standing p s) (b : BundleId) (f : BundleRun → BundleRun)
    (h1 : (f (s.run b)).state = .off ↔ (s.run b).state = .off)
    (h2 : (f (s.run b)).state ≠ .held → (f (s.run b)).holdTimer = .stopped)
    (h3 : (f (s.run b)).state = .held → ∃ k, (s.config b).target = some k ∧ (s.target k).state ≠ .detached)
    (h4 : ∀ k, s.eventFor = some (b, k) → (f (s.run b)).state = .assembling)
    (h5 : p = true → (f (s.run b)).holdTimer.judged (s.pausesHold b) = (f (s.run b)).holdTimer) : Standing p (s.updRun b f) := by
  have hr : ∀ c, (s.updRun b f).run c = if c = b then f (s.run b) else s.run c := fun c => by rw [updRun_run]
  refine ⟨fun c => ?_, fun c => ?_, fun c => ?_, fun c k e => ?_, fun q c => ?_⟩
  · rw [hr]; split
    · rename_i e; subst e; rw [h1]; exact h.off c
    · exact h.off c
  · rw [hr]; split
    · exact h2
    · exact h.calm c
  · rw [hr]; split
    · rename_i e; subst e; exact h3
    · exact h.held c
  · rw [hr]; split
    · rename_i e'; subst e'; exact ⟨h4 k e, (h.event c k e).2⟩
    · exact h.event c k e
  · rw [hr]; split
    · rename_i e; subst e; exact h5 q
    · exact h.timers q c

/-- A bundle that does not belong to an EVENT assembly moves between states other than OFF and HELD, its hold timer stopped. -/
theorem Standing.move {p : Bool} {s : State} (h : Standing p s) (b : BundleId) (f : BundleRun → BundleRun)
    (h1 : (s.run b).state ≠ .off) (h2 : (f (s.run b)).state = .idle ∨ (f (s.run b)).state = .ready)
    (h3 : (f (s.run b)).holdTimer = .stopped) (h4 : (s.run b).state ≠ .assembling ∨ s.eventFor = none) :
    Standing p (s.updRun b f) := by
  refine h.updRun b f ?_ (fun _ => h3) (fun e => ?_) (fun k e => ?_) fun _ => by rw [h3]; rfl
  · rcases h2 with h2 | h2 <;> simp [h2, h1]
  · rcases h2 with h2 | h2 <;> simp [h2] at e
  · rcases h4 with h4 | h4
    · exact absurd (h.event b k e).1 h4
    · simp [h4] at e

/-- A field of a bundle's run-time half on which its standing does not depend. -/
theorem stands_updRun (s : State) (b : BundleId) (f : BundleRun → BundleRun) (h1 : (f (s.run b)).state = (s.run b).state := by rfl)
    (h2 : (f (s.run b)).holdTimer = (s.run b).holdTimer := by rfl) : Stands s (s.updRun b f) := fun p h =>
  h.updRun b f (by rw [h1]) (by rw [h1, h2]; exact h.calm b) (by rw [h1]; exact h.held b)
    (fun k e => by rw [h1]; exact (h.event b k e).1) (by rw [h2]; exact fun q => h.timers q b)

/-- A bundle's hold timer stops. -/
theorem stands_stopTimer (s : State) (b : BundleId) (f : BundleRun → BundleRun) (h1 : (f (s.run b)).state = (s.run b).state := by rfl)
    (h2 : (f (s.run b)).holdTimer = .stopped := by rfl) : Stands s (s.updRun b f) := fun p h =>
  h.updRun b f (by rw [h1]) (fun _ => h2) (by rw [h1]; exact h.held b)
    (fun k e => by rw [h1]; exact (h.event b k e).1) (by rw [h2]; exact fun _ => rfl)

/-! ### Single fields -/

theorem stands_issueRequest (s : State) (w : Issuer) (a : Addr) (k : Access) : Stands s (s.issueRequest w a k) :=
  .of_eq rfl rfl rfl fun _ => rfl
theorem stands_endRequest (s : State) (id : Nat) : Stands s (s.endRequest id) := .of_eq rfl rfl rfl fun _ => rfl

/-- A target's other fields. -/
theorem stands_updTarget (s : State) (t : TargetId) (f : Target → Target)
    (h : (f (s.target t)).state = (s.target t).state := by rfl) : Stands s (s.updTarget t f) :=
  .of_eq rfl rfl rfl fun k => by
    rw [updTarget_target]
    split
    · rename_i e
      rw [h, e]
    · rfl

theorem stands_updTally (s : State) (n : SourceId) (f : Tallies → Tallies) : Stands s (s.updTally n f) := .of_eq rfl rfl rfl fun _ => rfl
theorem stands_setRecord (s : State) (n : SourceId) (r : Option PendingRecord) : Stands s (s.setRecord n r) :=
  .of_eq rfl rfl rfl fun _ => rfl
theorem stands_setLine (s : State) (l : LineId) (x : Line) : Stands s (s.setLine l x) := .of_eq rfl rfl rfl fun _ => rfl

/-- The assembly ends. -/
theorem stands_dropAssembly (s : State) : Stands s (s.setAssembly none) := fun _ h =>
  ⟨h.off, h.calm, h.held, fun _ _ e => by simp [eventFor] at e, h.timers⟩

/-- The assembly's other fields. -/
theorem stands_setAssembly (s : State) (a : Option Assembly) (h : (s.setAssembly a).eventFor = s.eventFor) : Stands s (s.setAssembly a) :=
  .of_eq rfl rfl h fun _ => rfl

/-- A target moves between states other than DETACHED; the hold timers of its bundles are still to be judged. -/
theorem Standing.setTarget {p : Bool} {s : State} (h : Standing p s) (t : TargetId) (f : Target → Target)
    (hf : (f (s.target t)).state ≠ .detached) : Standing false (s.updTarget t f) := by
  refine ⟨h.off, h.calm, fun b hb => ?_, h.event, nofun⟩
  obtain ⟨k, k1, k2⟩ := h.held b hb
  refine ⟨k, k1, ?_⟩
  rw [updTarget_target]
  split
  · exact hf
  · exact k2

/-- A HELD bundle's hold timer starts (R102). -/
theorem stands_startHold {p : Bool} {s : State} (h : Standing p s) (b : BundleId) (hb : (s.run b).state = .held) :
    Standing p (s.startHold b) := by
  unfold startHold
  refine h.updRun b _ Iff.rfl (fun e => absurd hb e) (h.held b) (fun k e => (h.event b k e).1) fun _ => ?_
  dsimp only
  split
  · rfl
  · cases s.pausesHold b <;> rfl

/-! ### The states of targets -/

theorem rejudgeSpace_state (s : State) (t k : TargetId) : ((s.rejudgeSpace t).target k).state = (s.target k).state := by
  unfold rejudgeSpace issueConsumerRead
  (repeat' split) <;> simp only [issueRequest_target, updTarget_target] <;> split <;> simp_all

theorem rejudgeSpaceOf_state (s : State) (b : BundleId) (k : TargetId) :
    ((s.rejudgeSpaceOf b).target k).state = (s.target k).state := by
  unfold rejudgeSpaceOf
  split
  · exact rejudgeSpace_state _ _ _
  · rfl

/-- A state of targets that arrivals leave alone. -/
theorem accept_state (s : State) (n : SourceId) (d : Option Half) (k : TargetId) :
    ((s.accept n d).target k).state = (s.target k).state := by
  have h : ∀ (u : State) (m : SourceId) (e : Option Half), ((u.acceptOne m e).target k).state = (u.target k).state := by
    intro u m e
    unfold acceptOne arrive listGained
    dsimp only
    (repeat' split) <;> simp [setState, rejudgeSpaceOf_state]
  unfold accept
  split <;> simp only [h]

theorem signalRules_state (s : State) (t k : TargetId) : ((s.signalRules t).target k).state = (s.target k).state := by
  unfold signalRules issueSignal
  (repeat' split) <;> simp only [issueRequest_target, updTarget_target] <;> split <;> simp_all

theorem commitTarget_state (s : State) (a : Assembly) (k : TargetId) : ((s.commitTarget a).target k).state = (s.target k).state := by
  have h : ∀ u : State, ((u.ringPressure a).target k).state = (u.target k).state := by
    intro u
    unfold ringPressure
    split
    · exact accept_state _ _ _ _
    · rfl
  unfold commitTarget
  rw [rejudgeSpace_state, h, signalRules_state, updTarget_target]
  split <;> simp_all

/-! ### Space wanted and completions -/

theorem stands_issueConsumerRead (s : State) (t : TargetId) : Stands s (s.issueConsumerRead t) := by
  unfold issueConsumerRead consumerReadInFlight
  split
  · exact .refl s
  · exact stands_issueRequest _ _ _ _

theorem stands_rejudgeSpace (s : State) (t : TargetId) : Stands s (s.rejudgeSpace t) := by
  unfold rejudgeSpace
  split
  · exact (stands_updTarget s t _).trans (stands_issueConsumerRead _ _)
  · split
    · exact stands_updTarget s t _
    · exact .refl s

theorem stands_rejudgeSpaceOf (s : State) (b : BundleId) : Stands s (s.rejudgeSpaceOf b) := by
  unfold rejudgeSpaceOf
  split
  · exact stands_rejudgeSpace s _
  · exact .refl s

/-- A bundle on READY or IDLE moves to the other. -/
theorem stands_setState (s : State) (b : BundleId) (st : BundleState) (h1 : (s.run b).state = .idle ∨ (s.run b).state = .ready)
    (h2 : st = .idle ∨ st = .ready) : Stands s (s.setState b st) := fun p h =>
  stands_rejudgeSpaceOf _ b p (h.move b _ (by rcases h1 with h1 | h1 <;> simp [h1]) h2
    (h.calm b (by rcases h1 with h1 | h1 <;> simp [h1])) (.inl (by rcases h1 with h1 | h1 <;> simp [h1])))

theorem stands_issueCompletion (s : State) : Stands s s.issueCompletion := by
  unfold issueCompletion
  split
  · split
    · exact .refl s
    · exact stands_issueRequest _ _ _ _
  · exact .refl s

theorem stands_pushCompletion (s : State) (c : Completion) : Stands s (s.pushCompletion c) :=
  (Stands.updProc s _).trans (stands_issueCompletion _)

theorem stands_sweepDeferredFor (s : State) (gone : Option TargetId) (h : Nat) (met : List TargetId) :
    Stands s (s.sweepDeferredFor gone h met) := by
  unfold sweepDeferredFor
  exact (Stands.updProc s _).trans (.foldl (fun u c => stands_pushCompletion u c) _ _)

theorem stands_sweepDeferred (s : State) : Stands s s.sweepDeferred := stands_sweepDeferredFor s none 0 []

/-! ### Lists and arrivals -/

theorem stands_listGained (s : State) (b : Option BundleId) : Stands s (s.listGained b) := by
  unfold listGained
  split
  · split
    · exact stands_setState s _ _ (.inl ‹_›) (.inr rfl)
    · exact .refl s
  · exact .refl s

theorem stands_listLost (s : State) (b : Option BundleId) : Stands s (s.listLost b) := by
  unfold listLost
  split
  · split
    · rename_i h
      exact (stands_setState s _ _ (.inr h.1) (.inl rfl)).trans (stands_sweepDeferred _)
    · exact .refl s
  · exact .refl s

/-- A bundle that belongs to no EVENT assembly settles by its list. -/
theorem stands_settleByList {p : Bool} {s : State} (h : Standing p s) (b : BundleId) (h1 : (s.run b).state ≠ .off)
    (h2 : (s.run b).holdTimer = .stopped) (h3 : (s.run b).state ≠ .assembling ∨ s.eventFor = none) : Standing p (s.settleByList b) :=
  stands_rejudgeSpaceOf _ b p (h.move b _ h1 (by dsimp only; split <;> simp) h2 h3)

theorem stands_arrive (s : State) (n : SourceId) (d : Option Half) : Stands s (s.arrive n d) := by
  unfold arrive
  dsimp only
  split
  · refine Stands.trans ?_ (stands_listGained _ _)
    exact .of_eq rfl rfl rfl fun _ => rfl
  · split <;> exact .of_eq rfl rfl rfl fun _ => rfl

theorem stands_acceptOne (s : State) (n : SourceId) (d : Option Half) : Stands s (s.acceptOne n d) := by
  unfold acceptOne
  split
  · exact stands_arrive s n d
  · exact .refl s

theorem stands_accept (s : State) (n : SourceId) (d : Option Half) : Stands s (s.accept n d) := by
  unfold accept
  split
  · exact (stands_acceptOne s n d).trans (stands_acceptOne _ _ _)
  · exact stands_acceptOne s n d

theorem stands_acceptMany (s : State) (n : SourceId) (d : Option Half) (k : Nat) : Stands s (s.acceptMany n d k) := by
  induction k generalizing s with
  | zero => exact .refl s
  | succ k ih => exact (stands_accept s n d).trans (ih _)

theorem stands_levelCheck (s : State) (n : SourceId) : Stands s (s.levelCheck n) := by
  unfold levelCheck
  split
  · exact stands_accept s n _
  · exact .refl s

theorem stands_reassert (s : State) (l : List SourceId) : Stands s (s.reassert l) := .foldl stands_levelCheck l s

theorem stands_qualify (s : State) (l : LineId) : Stands s (s.qualify l) := by
  unfold qualify
  dsimp only
  split
  · exact (stands_setLine s l _).trans (stands_accept _ _ _)
  · exact stands_setLine s l _

/-! ### Discards -/

theorem stands_clearRecord (s : State) (n : SourceId) : Stands s (s.clearRecord n) := by
  unfold clearRecord
  split
  · exact .of_eq rfl rfl rfl fun _ => rfl
  · exact .refl s

theorem stands_discardRecord (s : State) (n : SourceId) : Stands s (s.discardRecord n) := by
  unfold discardRecord
  split
  · exact (stands_clearRecord s n).trans (stands_listLost _ _)
  · exact .refl s

theorem stands_voidCopy (s : State) (n : SourceId) : Stands s (s.voidCopy n) :=
  (stands_updTally s n _).trans (stands_setAssembly _ _ (by cases h : s.assembly <;> simp [eventFor, h]))

theorem stands_discardSource (s : State) (n : SourceId) : Stands s (s.discardSource n) :=
  (stands_discardRecord s n).trans (stands_voidCopy _ n)

theorem stands_flush (s : State) (b : BundleId) : Stands s (s.flush b) :=
  ((Stands.foldl stands_clearRecord _ s).trans (stands_listLost _ _)).trans (.foldl (fun u (c : Copy) => stands_voidCopy u c.source) _ _)

/-! ### Halting and completing -/

theorem stands_halt (s : State) (r : HaltReason) : Stands s (s.halt r) := by
  unfold halt
  split
  · exact .refl s
  all_goals exact (Stands.updProc s _).trans (stands_accept _ _ _)

theorem stands_complete (s : State) (c : CmdId) (st : Status) (r : BitVec 64) : Stands s (s.complete c st r) := by
  unfold complete
  dsimp only
  split
  · exact (stands_pushCompletion _ _).trans (stands_accept _ _ _)
  · exact stands_pushCompletion _ _

theorem stands_handDone (s : State) : Stands s s.handDone := .updProc s _
theorem stands_holdInHand (s : State) (h : Hand) (c : Option WaitCause) : Stands s (s.holdInHand h c) := .updProc s _

theorem stands_setProcState (s : State) (st : ProcState) : Stands s (s.setProcState st) := .updProc s _

/-! ### Signals, faults, releases, detaches -/

theorem stands_issueSignal (s : State) (t : TargetId) : Stands s (s.issueSignal t) :=
  (stands_updTarget s t _).trans (stands_issueRequest _ _ _ _)

theorem stands_signalRules (s : State) (t : TargetId) : Stands s (s.signalRules t) := by
  unfold signalRules
  split
  · split
    · exact stands_issueSignal s t
    · exact stands_updTarget s t _
  · exact .refl s

theorem stands_rearmCheck (s : State) (t : TargetId) : Stands s (s.rearmCheck t) := by
  unfold rearmCheck
  split
  · exact stands_signalRules s t
  · exact .refl s

/-- A hold timer judged again is as its target wants it. -/
theorem stands_rejudgeHold (s : State) (b : BundleId) : Stands s (s.rejudgeHold b) := fun p h =>
  h.updRun b _ Iff.rfl (fun e => by simp [h.calm b e, HoldTimer.judged]) (h.held b) (fun k e => (h.event b k e).1)
    fun _ => judged_judged _ _ _

/-- What judging some hold timers again leaves of one bundle. -/
theorem rejudged_run (l : List BundleId) (s : State) (b : BundleId) :
    (l.foldl rejudgeHold s).run b =
      { s.run b with holdTimer := if b ∈ l then (s.run b).holdTimer.judged (s.pausesHold b) else (s.run b).holdTimer } := by
  induction l generalizing s with
  | nil => simp
  | cons a l ih =>
    have hp : (s.rejudgeHold a).pausesHold b = s.pausesHold b := rfl
    rw [List.foldl_cons, ih, hp]
    by_cases e : b = a
    · subst e
      simp [rejudgeHold, judged_judged]
    · simp [rejudgeHold, updRun_run, e]

theorem stands_rejudgeHolds {s : State} (h : Standing false s) (p : Bool) : Standing p s.rejudgeHolds := by
  have k := Stands.foldl stands_rejudgeHold allBundles s false h
  refine ⟨k.off, k.calm, k.held, k.event, fun _ b => ?_⟩
  have hb : b ∈ allBundles := List.mem_finRange b
  have hp : s.rejudgeHolds.pausesHold b = s.pausesHold b := pausesHold_congr (by simp) (by simp)
  rw [hp]
  unfold rejudgeHolds
  rw [rejudged_run, if_pos hb]
  exact judged_judged _ _ _

theorem stands_faultTarget (s : State) (t : TargetId) (r : FaultReason) : Stands s (s.faultTarget t r) := by
  unfold faultTarget
  split
  · exact fun p h => stands_rejudgeHolds (stands_accept _ _ _ false (h.setTarget t _ (by simp))) p
  · exact .refl s

/-- A release of a HELD bundle. -/
theorem stands_releaseHold {p : Bool} {s : State} (h : Standing p s) (b : BundleId) (hb : (s.run b).state = .held) :
    Standing p (s.releaseHold b) := by
  unfold releaseHold
  dsimp only
  generalize hu : (s.updRun b fun x => { x with holdTimer := .stopped, reminderDue := false, remindersPosted := 0 }) = u
  have h1 : Standing p u := hu ▸ stands_stopTimer s b _ rfl rfl p h
  have hr : (u.reassert (s.run b).heldSet).run b = u.run b := (woken_reassert u _).run (by rw [← hu]; simp [hb])
  have h2 := stands_updRun _ b (fun x => { x with heldSet := [] }) rfl rfl p (stands_reassert u (s.run b).heldSet p h1)
  refine stands_settleByList h2 b ?_ ?_ (.inl ?_) <;> rw [updRun_run_self, hr, ← hu] <;> simp [hb]

/-- A release leaves no bundle HELD that was not, and not the bundle itself. -/
theorem releaseHold_held {s : State} {b c : BundleId} (h : ((s.releaseHold b).run c).state = .held) :
    (s.run c).state = .held ∧ c ≠ b := by
  unfold releaseHold settleByList setState at h
  simp only [rejudgeSpaceOf_frame] at h
  by_cases e : c = b
  · subst e
    simp only [updRun_run_self] at h
    split at h <;> cases h
  · rw [updRun_run_ne _ _ e, updRun_run_ne _ _ e] at h
    rcases woken_reassert (s.updRun b fun x => { x with holdTimer := .stopped, reminderDue := false, remindersPosted := 0 })
      (s.run b).heldSet c with k | ⟨-, k⟩
    · rw [k, updRun_run_ne _ _ e] at h
      exact ⟨h, e⟩
    · rw [k] at h
      cases h

/-- The releases of a detach. -/
theorem stands_releaseAll {p : Bool} (l : List BundleId) {s : State} (h : Standing p s) (hn : l.Nodup)
    (hl : ∀ b ∈ l, (s.run b).state = .held) : Standing p (l.foldl releaseHold s) ∧
      ∀ b, ((l.foldl releaseHold s).run b).state = .held → (s.run b).state = .held ∧ b ∉ l := by
  induction l generalizing s with
  | nil => exact ⟨h, fun _ k => ⟨k, by simp⟩⟩
  | cons a l ih =>
    rw [List.nodup_cons] at hn
    obtain ⟨h1, h2⟩ := ih (stands_releaseHold h a (hl a (by simp))) hn.2 fun b hb =>
      releaseHold_run_ne s (fun e => hn.1 (e ▸ hb)) (hl b (by simp [hb]))
    refine ⟨h1, fun b hb => ?_⟩
    obtain ⟨k1, k2⟩ := h2 b hb
    obtain ⟨k3, k4⟩ := releaseHold_held k1
    exact ⟨k3, by simp [k2, k4]⟩

theorem stands_release (s : State) (b : BundleId) (hb : (s.run b).state = .held) : Stands s (s.release b) := fun p h =>
  stands_sweepDeferred _ p (stands_releaseHold h b hb)

/-- A detach leaves no HELD bundle on its target. -/
theorem stands_performDetach (s : State) (t : TargetId) : Stands s (s.performDetach t) := by
  intro p h
  unfold performDetach
  generalize hu : (s.updTarget t fun x => { x with detachPending := true }) = u
  have h1 : Standing p u := hu ▸ stands_updTarget s t _ rfl p h
  have hr : ∀ b, u.run b = s.run b := fun b => by rw [← hu]; rfl
  obtain ⟨h2, h3⟩ := stands_releaseAll (s.heldBundles t) h1 (heldBundles_nodup s t) fun b hb => by
    rw [hr]; exact heldBundles_held s t hb
  have hc : ∀ b, ((s.heldBundles t).foldl releaseHold u).config b = s.config b := fun b => by rw [← hu]; simp
  generalize (s.heldBundles t).foldl releaseHold u = v at h2 h3 hc
  have ht : ∀ b, (v.run b).state = .held → (v.config b).target ≠ some t := by
    intro b hb e
    obtain ⟨k1, k2⟩ := h3 b hb
    refine k2 ?_
    rw [hr] at k1
    rw [hc] at e
    simp [heldBundles, allBundles, e, k1]
  refine ⟨h2.off, h2.calm, fun b hb => ?_, h2.event, fun q b => ?_⟩
  · obtain ⟨k, k1, k2⟩ := h2.held b hb
    refine ⟨k, k1, ?_⟩
    rw [updTarget_target_ne _ _ fun e => ht b hb (by rw [← e]; exact k1)]
    exact k2
  · by_cases hb : (v.run b).state = .held
    · refine Eq.trans ?_ (h2.timers q b)
      obtain ⟨k, k1, -⟩ := h2.held b hb
      have hk : k ≠ t := fun e => ht b hb (by rw [← e]; exact k1)
      simp only [pausesHold, k1, updTarget_target_ne _ _ hk, updTarget_run, updTarget_config]
    · have := h2.calm b hb
      rw [updTarget_run, this]
      rfl

theorem stands_detachNow (s : State) (t : TargetId) (met : List TargetId) : Stands s (s.detachNow t met) :=
  (stands_performDetach s t).trans (stands_sweepDeferredFor _ _ _ _)

theorem stands_tryDetach (s : State) (t : TargetId) : Stands s (s.tryDetach t) := by
  unfold tryDetach
  split
  · exact stands_detachNow s t _
  · exact .refl s

theorem stands_endWaits (s : State) (t : TargetId) (met : List TargetId) : Stands s (s.endWaits t met) := by
  unfold endWaits
  split
  · exact stands_detachNow s t met
  · exact stands_sweepDeferredFor _ _ _ _

theorem stands_rejudgeDetachPending (s : State) (t : TargetId) : Stands s (s.rejudgeDetachPending t) := by
  unfold rejudgeDetachPending
  split
  · exact (stands_updTarget s t _).trans (stands_rejudgeSpace _ _)
  · exact .refl s

theorem stands_enterTable (s : State) (c : CmdId) (w : DeferKind) : Stands s (s.enterTable c w) := by
  unfold enterTable
  split
  · have hu := Stands.updProc s fun p => { p with deferred := p.deferred ++ [⟨c, w, w.timer⟩] }
    dsimp only
    split
    · exact (hu.trans (stands_updTarget _ _ _)).trans (stands_rejudgeSpace _ _)
    all_goals exact hu
  · exact stands_holdInHand _ _ _

theorem stands_judgeDeferrable (s : State) (c : CmdId) (w : DeferKind) : Stands s (s.judgeDeferrable c w) := by
  unfold judgeDeferrable
  split
  · split
    · exact stands_complete _ _ _ _
    · split
      · exact stands_enterTable _ _ _
      · exact ((stands_performDetach s _).trans (stands_sweepDeferredFor _ _ _ _)).trans (stands_complete _ _ _ _)
  all_goals
    split
    · exact stands_complete _ _ _ _
    · exact stands_enterTable _ _ _

theorem stands_settleHand (s : State) : Stands s s.settleHand := by
  unfold settleHand
  split
  · split
    · exact ((Stands.updProc s _).trans (stands_judgeDeferrable _ _ _)).trans (stands_handDone _)
    · exact .refl s
  · exact .refl s

/-! ### Routes and accounts -/

theorem stands_writeRoute (s : State) (n : SourceId) (e : RouteEntry) : Stands s (s.writeRoute n e) := by
  have h : Stands s (s.setRoute n e) := .of_eq rfl rfl rfl fun _ => rfl
  unfold writeRoute
  dsimp only
  split
  · exact (h.trans (stands_listGained _ _)).trans (stands_listLost _ _)
  · exact h

theorem stands_changeFilter (s : State) (n : SourceId) (old e : RouteEntry) : Stands s (s.changeFilter n old e) := by
  unfold changeFilter
  (repeat' split)
  all_goals first
    | exact .refl s
    | exact stands_qualify _ _
    | exact stands_setLine _ _ _

theorem stands_reroute (s : State) (n : SourceId) (e : RouteEntry) : Stands s (s.reroute n e) := by
  unfold reroute
  dsimp only
  have h := (stands_writeRoute s n e).trans (stands_changeFilter (s.writeRoute n e) n (s.route n) e)
  split
  · exact h.trans (stands_levelCheck _ _)
  · exact h

theorem stands_routeSetCommand (s : State) (c : CmdId) (n : Half) (e : Option RouteEntry) (d : Bool) :
    Stands s (s.routeSetCommand c n e d) := by
  unfold routeSetCommand
  split
  · split
    · exact ((stands_discardSource s _).trans (stands_reroute _ _ _)).trans (stands_complete _ _ _ _)
    · exact (stands_reroute _ _ _).trans (stands_complete _ _ _ _)
  · exact stands_complete _ _ _ _

theorem stands_issueReply (s : State) (c : CmdId) (r : BitVec 64) (a : Addr) (rec : List Byte) : Stands s (s.issueReply c r a rec) :=
  (stands_holdInHand _ _ _).trans (stands_issueRequest _ _ _ _)

theorem stands_routeReadCommand (s : State) (c : CmdId) (n : Half) (a : Addr) : Stands s (s.routeReadCommand c n a) := by
  unfold routeReadCommand
  (repeat' split)
  all_goals first
    | exact stands_issueReply _ _ _ _ _
    | exact stands_complete _ _ _ _

theorem stands_sourceClearCommand (s : State) (c : CmdId) (n : Half) : Stands s (s.sourceClearCommand c n) := by
  unfold sourceClearCommand
  split
  · exact (stands_discardSource s _).trans (stands_complete _ _ _ _)
  · exact stands_complete _ _ _ _

theorem stands_resetTally (s : State) (n : SourceId) : Stands s (s.resetTally n) :=
  (stands_updTally s n _).trans (stands_setAssembly _ _ (by cases h : s.assembly <;> simp [eventFor, h]))

theorem stands_tallyResetCommand (s : State) (c : CmdId) (n : Half) : Stands s (s.tallyResetCommand c n) := by
  unfold tallyResetCommand
  split
  · exact (Stands.foldl stands_resetTally _ s).trans (stands_complete _ _ _ _)
  · split
    · exact (stands_resetTally s _).trans (stands_complete _ _ _ _)
    · exact stands_complete _ _ _ _

/-! ### Bundles -/

/-- What the state's move of a BUNDLE_SET leaves. -/
theorem moveByEnabled_stands (s : State) (b : BundleId) (e : Bool) :
    (∃ st, (∀ c, (s.moveByEnabled b e).run c = (s.updRun b fun x => { x with state := st }).run c) ∧
      ((s.run b).state = .held ↔ st = .held) ∧ ((s.run b).state = .assembling ↔ st = .assembling) ∧
      ((s.run b).state ≠ .assembling → (s.run b).state ≠ .held → (st = .off ↔ e = false)) ∧
      ((s.run b).state = .assembling ∨ (s.run b).state = .held → st = (s.run b).state)) ∧
    ∀ k, ((s.moveByEnabled b e).target k).state = (s.target k).state := by
  have hs : ∀ st c, (s.setState b st).run c = (s.updRun b fun x => { x with state := st }).run c := by simp [setState]
  have hself : ∀ c, s.run c = (s.updRun b fun x => { x with state := (s.run b).state }).run c := fun c => by
    by_cases h : c = b <;> simp [updRun_run, h]
  constructor
  · unfold moveByEnabled
    split
    · rename_i h1
      refine ⟨if s.pendingList b = [] then .idle else .ready, hs _, ?_⟩
      split <;> simp [h1]
    · rename_i h1
      exact ⟨.off, hs _, by simp [h1]⟩
    · rename_i h1
      exact ⟨.off, hs _, by simp [h1]⟩
    · rename_i h1 h2 h3
      refine ⟨(s.run b).state, hself, Iff.rfl, Iff.rfl, fun n1 n2 => ?_, fun _ => rfl⟩
      clear hs hself
      cases h : (s.run b).state <;> simp_all
  · intro k
    unfold moveByEnabled settleByList setState
    split <;> simp only [rejudgeSpaceOf_state, updRun_target]

theorem stands_writeBundleSet (s : State) (b : BundleId) (c : BundleConfig) (ha : s.bundleSetApplies b c = true) :
    Stands s (s.writeBundleSet b c) := by
  intro p h
  unfold writeBundleSet
  dsimp only
  refine stands_rejudgeSpaceOf _ b p ?_
  have key : Standing p (((s.setConfig b c).moveByEnabled b c.enabled).rejudgeHold b) := by
    obtain ⟨⟨st, h1, h2, h3, h4, h5⟩, h6⟩ := moveByEnabled_stands (s.setConfig b c) b c.enabled
    have hcfg : ∀ k, ((s.setConfig b c).moveByEnabled b c.enabled).config k = (s.setConfig b c).config k := by simp
    have hev : ((s.setConfig b c).moveByEnabled b c.enabled).eventFor = s.eventFor := by simp [eventFor]
    generalize (s.setConfig b c).moveByEnabled b c.enabled = v at h1 h6 hcfg hev
    simp only [setConfig_run, setConfig_target] at h2 h3 h4 h5 h6
    have hb : v.run b = { s.run b with state := st } := by rw [h1]; simp
    have hne : ∀ k, k ≠ b → v.run k = s.run k := fun k hk => by rw [h1, updRun_run_ne _ _ hk]; rfl
    have cb : v.config b = c := by rw [hcfg]; simp
    have cne : ∀ k, k ≠ b → v.config k = s.config k := fun k hk => by rw [hcfg]; simp [setConfig_config, hk]
    have same : (s.run b).state = .assembling ∨ (s.run b).state = .held → c.enabled = true ∧ c.target = (s.config b).target := by
      intro e
      unfold bundleSetApplies at ha
      rcases e with e | e <;> simpa [e] using ha
    have rb : (v.rejudgeHold b).run b = { s.run b with state := st, holdTimer := (s.run b).holdTimer.judged (v.pausesHold b) } := by
      simp [rejudgeHold, hb]
    have rne : ∀ k, k ≠ b → (v.rejudgeHold b).run k = s.run k := fun k hk => by
      simp [rejudgeHold, updRun_run, hk, hne k hk]
    refine ⟨fun k => ?_, fun k => ?_, fun k => ?_, fun k j e => ?_, fun q k => ?_⟩ <;>
      by_cases hk : k = b
    · subst hk
      rw [rb, show (v.rejudgeHold k).config k = c from cb]
      show st = .off ↔ _
      by_cases n1 : (s.run k).state = .assembling
      · rw [h5 (.inl n1), (same (.inl n1)).1, n1]; simp
      · by_cases n2 : (s.run k).state = .held
        · rw [h5 (.inr n2), (same (.inr n2)).1, n2]; simp
        · exact h4 n1 n2
    · rw [rne k hk, show (v.rejudgeHold b).config k = s.config k from cne k hk]; exact h.off k
    · subst hk
      rw [rb]
      intro e
      have := h.calm k fun e' => e (h2.1 e')
      simp [this, HoldTimer.judged]
    · rw [rne k hk]; exact h.calm k
    · subst hk
      rw [rb, show (v.rejudgeHold k).config k = c from cb]
      intro e
      have e1 := h2.2 e
      obtain ⟨j, k1, k2⟩ := h.held k e1
      refine ⟨j, by rw [(same (.inr e1)).2]; exact k1, ?_⟩
      rw [show (v.rejudgeHold k).target j = v.target j from rfl, h6]
      exact k2
    · rw [rne k hk, show (v.rejudgeHold b).config k = s.config k from cne k hk]
      intro e
      obtain ⟨j, k1, k2⟩ := h.held k e
      refine ⟨j, k1, ?_⟩
      rw [show (v.rejudgeHold b).target j = v.target j from rfl, h6]
      exact k2
    · subst hk
      have e' := h.event k j (by rw [← hev]; exact e)
      rw [rb, show (v.rejudgeHold k).config k = c from cb, (same (.inl e'.1)).2]
      exact ⟨h3.1 e'.1, e'.2⟩
    · rw [rne k hk, show (v.rejudgeHold b).config k = s.config k from cne k hk]
      exact h.event k j (by rw [← hev]; exact e)
    · subst hk
      rw [rb]
      exact judged_judged _ _ _
    · rw [rne k hk, show (v.rejudgeHold b).pausesHold k = s.pausesHold k from pausesHold_congr (cne k hk) h6]
      exact h.timers q k
  split
  · exact stands_rejudgeSpace _ _ p key
  · exact key

theorem stands_applyBundleSet (s : State) (b : BundleId) (c : BundleConfig) (ha : s.bundleSetApplies b c = true) :
    Stands s (s.applyBundleSet b c) := (stands_writeBundleSet s b c ha).trans (stands_sweepDeferred _)

theorem stands_completeBundleSet (s : State) (k : CmdId) (b : BundleId) (c : BundleConfig) (ha : s.bundleSetApplies b c = true) :
    Stands s (s.completeBundleSet k b c) := by
  unfold completeBundleSet
  exact (stands_applyBundleSet s b c ha).trans (stands_complete _ _ _ _)

theorem stands_judgeBundleSet (s : State) (k : CmdId) (b : BundleId) (c : BundleConfig) : Stands s (s.judgeBundleSet k b c) := by
  unfold judgeBundleSet
  (repeat' split)
  all_goals first
    | exact stands_complete _ _ _ _
    | exact stands_holdInHand _ _ _
    | exact stands_completeBundleSet _ _ _ _ (by simp_all [bundleSetApplies])

theorem stands_bundleSetCommand (s : State) (k : CmdId) (b : Byte) (c : Option BundleConfig) : Stands s (s.bundleSetCommand k b c) := by
  unfold bundleSetCommand
  split
  · exact stands_judgeBundleSet _ _ _ _
  · exact stands_complete _ _ _ _

theorem stands_settleBundleSet (s : State) (k : CmdId) (b : BundleId) (c : BundleConfig) (t : TargetId) (met : List TargetId) :
    Stands s (s.settleBundleSet k b c t met) := by
  unfold settleBundleSet
  dsimp only
  split
  · exact (((stands_writeBundleSet s b c ‹_›).trans (stands_endWaits _ _ _)).trans (stands_complete _ _ _ _)).trans (stands_handDone _)
  · exact ((stands_endWaits s _ _).trans (stands_complete _ _ _ _)).trans (stands_handDone _)

theorem stands_bundleReadCommand (s : State) (k : CmdId) (b : Byte) (n : Half) (a : Addr) : Stands s (s.bundleReadCommand k b n a) := by
  unfold bundleReadCommand
  (repeat' split)
  all_goals first
    | exact stands_issueReply _ _ _ _ _
    | exact stands_complete _ _ _ _

theorem stands_bundleFlushCommand (s : State) (k : CmdId) (b : Byte) : Stands s (s.bundleFlushCommand k b) := by
  unfold bundleFlushCommand
  split
  · exact (stands_flush s _).trans (stands_complete _ _ _ _)
  · exact stands_complete _ _ _ _

theorem stands_staleAck (s : State) (b : BundleId) : Stands s (s.staleAck b) := stands_accept _ _ _

theorem stands_ackCommand (s : State) (c : CmdId) (b : Byte) (k : Half) : Stands s (s.ackCommand c b k) := by
  unfold ackCommand
  split
  · exact stands_complete _ _ _ _
  · split
    · exact (stands_staleAck _ _).trans (stands_complete _ _ _ _)
    · rename_i h
      split
      · exact (stands_staleAck _ _).trans (stands_complete _ _ _ _)
      · exact (stands_release _ _ (not_not.1 h)).trans (stands_complete _ _ _ _)

theorem stands_holdExpires (s : State) (b : BundleId) : Stands s (s.holdExpires b) := by
  unfold holdExpires
  split
  · rename_i h
    split
    · exact (stands_stopTimer s b _).trans (stands_rejudgeSpaceOf _ _)
    · exact ((stands_release s b h.1).trans (stands_accept _ _ _)).trans (stands_settleHand _)
  · exact .refl s

theorem stands_countStale (s : State) : Stands s s.countStale := .of_eq rfl rfl rfl fun _ => rfl

theorem stands_ackPortWrite (s : State) (b : Byte) (k : Half) : Stands s (s.ackPortWrite b k) := by
  unfold ackPortWrite
  split
  · exact stands_countStale s
  · split
    · rename_i h
      exact (stands_release _ _ h.1).trans (stands_settleHand _)
    · exact (stands_staleAck _ _).trans (stands_countStale _)

/-! ### Targets -/

theorem stands_attachCommand (s : State) (c : CmdId) (p h : Half) (d : BitVec 64) (o v : Word) (a : Addr) :
    Stands s (s.attachCommand c p h d o v a) := by
  unfold attachCommand
  (repeat' split)
  all_goals first
    | exact stands_complete _ _ _ _
    | exact (stands_holdInHand _ _ _).trans (stands_issueRequest _ _ _ _)

/-- The context of a DETACHED target is given by an attach (R124). -/
theorem stands_attach (s : State) (a : AttachArgs) (h : (s.target a.target).state = .detached) :
    Stands s (s.updTarget a.target fun _ => attached a) := by
  intro p k
  refine ⟨k.off, k.calm, fun b hb => ?_, k.event, fun q b => ?_⟩
  · obtain ⟨j, k1, k2⟩ := k.held b hb
    refine ⟨j, k1, ?_⟩
    rw [updTarget_target]
    split
    · simp [attached]
    · exact k2
  · have e : (s.updTarget a.target fun _ => attached a).pausesHold b = s.pausesHold b := by
      simp only [pausesHold, updTarget_config]
      cases (s.config b).target with
      | none => rfl
      | some j =>
        dsimp only
        rw [updTarget_target]
        split
        · rename_i e
          rw [e, h]
          rfl
        · rfl
    rw [e]
    exact k.timers q b

theorem stands_attachAnswer (s : State) (v : ReadAnswer)
    (h : ∀ c a, s.proc.hand = some (.attach c a) → (s.target a.target).state = .detached) : Stands s (s.attachAnswer v) := by
  unfold attachAnswer
  split
  · split
    · split
      · exact ((stands_attach s _ (h _ _ ‹_›)).trans (stands_complete _ _ _ _)).trans (stands_handDone _)
      · exact (stands_complete _ _ _ _).trans (stands_handDone _)
    · exact (stands_complete _ _ _ _).trans (stands_handDone _)
  · exact .refl s

theorem stands_moveTarget (s : State) (t : TargetId) (st : TargetState) (h : st ≠ .detached) : Stands s (s.moveTarget t st) := fun p k =>
  stands_rejudgeSpace _ _ p (stands_rejudgeHolds (k.setTarget t _ h) p)

theorem stands_moveCommand (s : State) (c : CmdId) (t : Byte) (x y : TargetState) (hy : y ≠ .detached) :
    Stands s (s.moveCommand c t x y) := by
  unfold moveCommand
  split
  · exact stands_complete _ _ _ _
  · split
    · exact (stands_moveTarget _ _ _ hy).trans (stands_complete _ _ _ _)
    · exact stands_complete _ _ _ _

theorem stands_targetReadCommand (s : State) (c : CmdId) (t : Byte) (a : Addr) : Stands s (s.targetReadCommand c t a) := by
  unfold targetReadCommand
  (repeat' split)
  all_goals first
    | exact stands_issueReply _ _ _ _ _
    | exact stands_complete _ _ _ _

theorem stands_detachCommand (s : State) (c : CmdId) (t : Byte) : Stands s (s.detachCommand c t) := by
  unfold detachCommand
  split
  · exact stands_judgeDeferrable _ _ _
  · exact stands_complete _ _ _ _

theorem stands_drainCommand (s : State) (c : CmdId) (t : Byte) (k : Half) : Stands s (s.drainCommand c t k) := by
  unfold drainCommand
  split
  · exact stands_judgeDeferrable _ _ _
  · exact stands_complete _ _ _ _

theorem stands_consumedMoved (s : State) (t : TargetId) (v : Word) : Stands s (s.consumedMoved t v) := by
  have h := (stands_updTarget s t (fun x => { x with consumed := v })).trans (stands_rejudgeSpace _ t)
  unfold consumedMoved
  dsimp only
  split
  · exact (h.trans (stands_updTarget _ _ _)).trans (stands_rearmCheck _ _)
  · exact h

theorem stands_consumerAnswer (s : State) (t : TargetId) (v : ReadAnswer) : Stands s (s.consumerAnswer t v) := by
  unfold consumerAnswer
  (repeat' split)
  all_goals first
    | exact .refl s
    | exact stands_faultTarget _ _ _
    | exact stands_consumedMoved _ _ _

theorem stands_afterTargetAnswer (s : State) (t : TargetId) : Stands s (s.afterTargetAnswer t) :=
  (stands_tryDetach s t).trans (stands_settleHand _)

theorem stands_consumerHandler (v : ReadAnswer) (w : Issuer) (s : State) : Stands s (consumerHandler v w s) := by
  unfold consumerHandler
  split
  · exact (stands_consumerAnswer _ _ _).trans (stands_afterTargetAnswer _ _)
  · exact .refl s

theorem stands_signalAnswer (s : State) (t : TargetId) (v : WriteAnswer) : Stands s (s.signalAnswer t v) := by
  unfold signalAnswer
  split
  · exact .refl s
  · exact stands_faultTarget _ _ _

theorem stands_signalHandler (v : WriteAnswer) (w : Issuer) (s : State) : Stands s (signalHandler v w s) := by
  unfold signalHandler
  split
  · exact (stands_signalAnswer _ _ _).trans (stands_afterTargetAnswer _ _)
  · exact .refl s

theorem stands_pollExpires (s : State) (t : TargetId) : Stands s (s.pollExpires t) := by
  unfold pollExpires
  dsimp only
  split
  · split
    · exact (stands_updTarget s t _).trans (stands_issueConsumerRead _ _)
    · exact stands_updTarget s t _
  · exact .refl s

theorem stands_holdoffExpires (s : State) (t : TargetId) : Stands s (s.holdoffExpires t) := by
  unfold holdoffExpires
  dsimp only
  split
  · split
    · exact (stands_updTarget s t _).trans (stands_issueSignal _ _)
    · exact stands_updTarget s t _
  · exact .refl s

theorem stands_drainExpires (s : State) (e : Fin 4) : Stands s (s.drainExpires e) := by
  unfold drainExpires
  split
  · exact (((Stands.updProc s _).trans (stands_pushCompletion _ _)).trans (stands_sweepDeferred _)).trans
      (stands_settleHand _)
  · exact .refl s

theorem stands_refreshTarget (s : State) (t : TargetId) : Stands s (s.refreshTarget t) := by
  unfold refreshTarget
  split
  · exact stands_issueConsumerRead _ _
  · exact .refl s

theorem stands_rearmTarget (f : Bool) (s : State) (t : TargetId) : Stands s (s.rearmTarget f t) := by
  have h := stands_updTarget s t fun x => { x with armed := true }
  unfold rearmTarget
  dsimp only
  split
  · split
    · split
      · exact (h.trans (stands_refreshTarget _ _)).trans (stands_updTarget _ _ _)
      · exact (h.trans (stands_refreshTarget _ _)).trans (stands_rearmCheck _ _)
    · exact h.trans (stands_rearmCheck _ _)
  · exact .refl s

theorem stands_attentionRefresh (s : State) (c : BitVec 4) : Stands s (s.attentionRefresh c) := .foldl stands_refreshTarget _ s
theorem stands_attentionRearm (s : State) (c : BitVec 4) (f : Bool) : Stands s (s.attentionRearm c f) := .foldl (stands_rearmTarget f) _ s

/-! ### The command path -/

theorem stands_issueCplRead (s : State) : Stands s s.issueCplRead := by
  unfold issueCplRead
  split
  · split
    · exact .refl s
    · exact stands_issueRequest _ _ _ _
  · exact .refl s

theorem stands_takeCommand (s : State) : Stands s s.takeCommand := by
  unfold takeCommand
  (repeat' split)
  all_goals first
    | exact .refl s
    | exact stands_issueRequest _ _ _ _
    | exact (stands_setProcState _ _).trans (stands_issueCplRead _)

theorem stands_commandRefused (s : State) : Stands s s.commandRefused := by
  unfold commandRefused
  split
  · exact stands_halt _ _
  · exact .refl s

theorem stands_replyAnswer (s : State) (v : WriteAnswer) : Stands s (s.replyAnswer v) := by
  unfold replyAnswer
  (repeat' split)
  all_goals first
    | exact .refl s
    | exact (stands_complete _ _ _ _).trans (stands_handDone _)

theorem stands_issueCplSignal (s : State) (c : Completion) : Stands s (s.issueCplSignal c) := by
  unfold issueCplSignal
  (repeat' split)
  all_goals first
    | exact .refl s
    | exact stands_issueRequest _ _ _ _

theorem stands_completionAnswer (s : State) (v : WriteAnswer) : Stands s (s.completionAnswer v) := by
  unfold completionAnswer
  split
  · exact .refl s
  · split
    · exact ((Stands.updProc s _).trans (stands_issueCplSignal _ _)).trans (stands_issueCompletion _)
    · exact ((Stands.updProc s _).trans (stands_halt _ _)).trans (stands_issueCompletion _)

theorem stands_cplSignalAnswer (s : State) (v : WriteAnswer) : Stands s (s.cplSignalAnswer v) := by
  unfold cplSignalAnswer
  split
  · exact .refl s
  · exact stands_halt _ _

theorem stands_cplConsumedMoved (s : State) (v : Word) : Stands s (s.cplConsumedMoved v) := by
  have h : Stands s (s.updProc fun p => { p with cplConsumed := v }) := .updProc s _
  unfold cplConsumedMoved
  dsimp only
  split
  · exact (h.trans (stands_setProcState _ _)).trans (stands_takeCommand _)
  · exact h

theorem stands_cplConsumerAnswer (s : State) (v : ReadAnswer) : Stands s (s.cplConsumerAnswer v) := by
  unfold cplConsumerAnswer
  (repeat' split)
  all_goals first
    | exact .refl s
    | exact stands_cplConsumedMoved _ _
    | exact stands_halt _ _

theorem stands_issueSetupRead (s : State) : Stands s s.issueSetupRead := by
  unfold issueSetupRead
  split
  · exact stands_issueRequest _ _ _ _
  · exact stands_halt _ _

theorem stands_loadSetup (s : State) (b : SetupBlock) : Stands s (s.loadSetup b) := by
  have h : Stands s (s.updProc fun p => { p with setup := some b }) := .updProc s _
  unfold loadSetup
  dsimp only
  split
  · split
    · exact h
    all_goals exact h.trans (stands_setProcState _ _)
  · exact h.trans (stands_halt _ _)

theorem stands_setupAnswer (s : State) (v : SetupAnswer) : Stands s (s.setupAnswer v) := by
  unfold setupAnswer
  (repeat' split)
  all_goals first
    | exact stands_loadSetup _ _
    | exact stands_halt _ _

theorem stands_setEnable (s : State) (v : Bool) : Stands s (s.setEnable v) := by
  have h : Stands s (s.storeEnable v) := .of_eq rfl rfl rfl fun _ => rfl
  unfold setEnable
  dsimp only
  (repeat' split)
  all_goals first
    | exact .refl s
    | exact h.trans (stands_setProcState _ _)
    | exact h
    | exact h.trans (stands_issueSetupRead _)

theorem stands_restart (s : State) : Stands s s.restart :=
  (Stands.updProc s _).trans (.foldl (fun u t => stands_rejudgeDetachPending u t) _ _)

theorem stands_restartDrained (s : State) : Stands s s.restartDrained := by
  unfold restartDrained
  split
  · exact (Stands.updProc s _).trans (stands_issueSetupRead _)
  · exact .refl s

theorem stands_producerPassed (s : State) : Stands s s.producerPassed := by
  unfold producerPassed
  dsimp only
  (repeat' split)
  all_goals first
    | exact .refl s
    | exact stands_issueCplRead s
    | exact (stands_issueCplRead s).trans (stands_setProcState _ _)

theorem stands_producerWrite (s : State) (v : Word) : Stands s (s.producerWrite v) := by
  have h : Stands s (s.updProc fun p => { p with producer := v }) := .updProc s _
  unfold producerWrite
  dsimp only
  (repeat' split)
  all_goals first
    | exact h.trans (stands_producerPassed _)
    | exact h.trans (stands_halt _ _)
    | exact h

theorem stands_refreshCompletions (s : State) : Stands s s.refreshCompletions := by
  unfold refreshCompletions
  split
  · exact .refl s
  all_goals exact stands_issueCplRead s

theorem stands_abortCommand (s : State) (c : CmdId) (k : Half) : Stands s (s.abortCommand c k) := by
  unfold abortCommand abortDeferred
  split
  · refine (Stands.trans (Stands.trans ?_ (stands_pushCompletion _ _)) (stands_sweepDeferred _)).trans (stands_complete _ _ _ _)
    have h : Stands s (s.updProc fun p => { p with deferred := p.deferred.eraseP fun d => d.cmd.tag == k }) :=
      .updProc s _
    split
    · exact h.trans (stands_rejudgeDetachPending _ _)
    all_goals exact h
  · exact stands_complete _ _ _ _

/-! ### Registers -/

theorem stands_attentionWrite (s : State) (v : Word) : Stands s (s.attentionWrite v) := by
  have h : ∀ u, Stands s u → Stands s (if v.getLsbD 10 then u.refreshCompletions else u) := by
    intro u h
    split
    · exact h.trans (stands_refreshCompletions _)
    · exact h
  unfold attentionWrite
  refine h _ ?_
  (repeat' split)
  · exact stands_attentionRearm _ _ _
  · exact stands_attentionRefresh _ _
  · exact .refl s

theorem stands_beginReset (s : State) : Stands s s.beginReset := .of_eq rfl rfl rfl fun _ => rfl
theorem stands_clearStale (s : State) : Stands s s.clearStale := .of_eq rfl rfl rfl fun _ => rfl

theorem stands_controlWrite (s : State) (v : Word) : Stands s (s.controlWrite v) := by
  have h : ∀ u, Stands s u → Stands s (if v.getLsbD 2 then (u.setEnable (v.getLsbD 0)).restart else u.setEnable (v.getLsbD 0)) := by
    intro u h
    split
    · exact (h.trans (stands_setEnable _ _)).trans (stands_restart _)
    · exact h.trans (stands_setEnable _ _)
  unfold controlWrite
  split
  · exact stands_beginReset s
  · refine h _ ?_
    split
    · exact stands_clearStale s
    · exact .refl s

theorem stands_windowWrite (s : State) (o n : Nat) (v : Word) : Stands s (s.windowWrite o n v) := by
  unfold windowWrite
  (repeat' split)
  all_goals first
    | exact .refl s
    | exact stands_controlWrite _ _
    | exact stands_producerWrite _ _
    | exact stands_attentionWrite _ _
    | exact stands_ackPortWrite _ _ _
    | exact .of_eq rfl rfl rfl fun _ => rfl

/-! ### The assembler -/

theorem takeRecords_config (l : List SourceId) (s : State) (b : BundleId) : (takeRecords l s).2.config b = s.config b := by
  induction l generalizing s with
  | nil => rfl
  | cons a l ih => simp only [takeRecords]; split <;> simp [ih]

theorem stands_eventStart (s : State) : Stands s s.eventStart := by
  unfold eventStart
  split
  · rename_i b hc
    split
    · rename_i t ht
      split
      · rename_i hr
        intro p h
        have hn : s.eventFor = none := by unfold chosen at hc; split at hc <;> simp_all [eventFor]
        obtain ⟨-, f1, -, -⟩ := takeRecords_frame ((s.pendingList b).take (s.assemblySize b t)) (s.takeTurn b)
        have hrun : ∀ c, (s.startEvent b t).run c = if c = b then { s.run b with state := .assembling } else s.run c := by
          intro c
          by_cases e : c = b <;> simp [startEvent, updRun_run, e, f1]
        have hcfg : ∀ c, (s.startEvent b t).config c = s.config c := fun c => by simp [startEvent, takeRecords_config]
        have htgt : ∀ k, (s.startEvent b t).target k = s.target k := fun k => by simp [startEvent, State.target, takeRecords_requests]
        have hev : (s.startEvent b t).eventFor = some (b, t) := by simp [startEvent, eventFor]
        refine ⟨fun c => ?_, fun c => ?_, fun c => ?_, fun c k e => ?_, fun q c => ?_⟩
        · rw [hrun, hcfg]
          split
          · rename_i e; subst e; rw [← h.off c, hr]; simp
          · exact h.off c
        · rw [hrun]
          split
          · rename_i e; subst e; exact fun _ => h.calm c (by simp [hr])
          · exact h.calm c
        · rw [hrun, hcfg]
          simp only [htgt]
          split
          · exact nofun
          · exact h.held c
        · rw [hev] at e
          cases e
          rw [hrun, hcfg]
          exact ⟨by simp, ht⟩
        · rw [hrun, pausesHold_congr (hcfg c) fun k => by rw [htgt]]
          split
          · rename_i e; subst e; exact h.timers q c
          · exact h.timers q c
      · exact .refl s
    · exact .refl s
  · exact .refl s

theorem stands_reminderStart (s : State) : Stands s s.reminderStart := by
  unfold reminderStart
  split
  · rename_i b hc
    split
    · split
      · have hn : s.eventFor = none := by unfold chosen at hc; split at hc <;> simp_all [eventFor]
        refine Stands.trans (t := (s.takeTurn b).setAssembly _) ?_ (stands_updRun _ b _)
        exact .of_eq (by simp) (by simp) (by rw [hn]; rfl) (by simp)
      · exact .refl s
    · exact .refl s
  · exact .refl s

theorem stands_issueWrite (s : State) : Stands s s.issueWrite := by
  unfold issueWrite
  dsimp only
  (repeat' split)
  all_goals first
    | exact .refl s
    | exact stands_issueRequest _ _ _ _
    | exact (stands_setAssembly s _ (by simp [*, eventFor])).trans (stands_issueRequest _ _ _ _)

theorem stands_entryDone (s : State) : Stands s s.entryDone := by
  unfold entryDone
  (repeat' split)
  all_goals first
    | exact .refl s
    | exact (stands_setAssembly s _ (by simp [*, eventFor])).trans (stands_issueWrite _)

theorem stands_recheckReported (a : Assembly) (s : State) : Stands s (s.recheckReported a) := by
  unfold recheckReported
  split
  · exact stands_reassert s _
  · exact .refl s

theorem stands_ringPressure (a : Assembly) (s : State) : Stands s (s.ringPressure a) := by
  unfold ringPressure
  split
  · exact stands_accept _ _ _
  · exact .refl s

theorem stands_reportCopy (s : State) (c : Copy) : Stands s (s.reportCopy c) := by
  unfold reportCopy
  split
  · exact .refl s
  · exact stands_updTally _ _ _

theorem stands_afterAssembly (a : Assembly) (met : List TargetId) (s : State) : Stands s (s.afterAssembly a met) := by
  unfold afterAssembly
  split
  · split
    · exact stands_endWaits s _ _
    · exact stands_settleBundleSet s _ _ _ _ _
  · exact (stands_endWaits s _ _).trans (stands_settleHand _)

theorem stands_commitTarget (a : Assembly) (s : State) : Stands s (s.commitTarget a) :=
  (((stands_updTarget s _ _).trans (stands_signalRules _ _)).trans (stands_ringPressure a _)).trans (stands_rejudgeSpace _ _)

theorem woken_commitTarget (s : State) (a : Assembly) : Woken s (s.commitTarget a) := by
  have h : ∀ u : State, Woken u (u.ringPressure a) := by
    intro u
    unfold ringPressure
    split
    · exact woken_accept _ _ _
    · exact .refl _
  unfold commitTarget
  generalize hu : (s.updTarget a.target _).signalRules a.target = u
  exact ((Woken.of_eq (by simp [← hu])).trans (h u)).trans (.of_eq (by simp))

theorem woken_returnCopies (l : List Copy) (s : State) : Woken s (l.foldl returnCopy s) := by
  induction l generalizing s with
  | nil => exact .refl s
  | cons c l ih =>
    refine Woken.trans ?_ (ih _)
    unfold returnCopy
    split
    · exact .refl s
    · split
      · exact (Woken.of_eq rfl).trans (woken_listGained _ _)
      · dsimp only
        split
        · exact .of_eq rfl
        · exact (Woken.of_eq (t := State.updTally _ _ _) (by simp)).trans (woken_acceptMany _ _ _ _)

theorem stands_commitAssembly (s : State) (ht : ∀ a, s.assembly = some a → (s.target a.target).state ≠ .detached) :
    Stands s s.commitAssembly := by
  unfold commitAssembly
  split
  · exact .refl s
  · rename_i a ha
    intro p h
    dsimp only
    refine stands_afterAssembly _ _ _ p (stands_recheckReported _ _ p ?_)
    have hw : Woken s ((a.copies.foldl reportCopy (s.setAssembly none)).commitTarget a) :=
      (Woken.of_eq (by simp)).trans (woken_commitTarget _ a)
    have h1 : Standing p ((a.copies.foldl reportCopy (s.setAssembly none)).commitTarget a) :=
      stands_commitTarget a _ p (Stands.foldl stands_reportCopy _ _ p (stands_dropAssembly s p h))
    have h2 : ((a.copies.foldl reportCopy (s.setAssembly none)).commitTarget a).eventFor = none := by simp [eventFor]
    have h3 : ∀ b, ((a.copies.foldl reportCopy (s.setAssembly none)).commitTarget a).config b = s.config b := by simp
    have h4 : ∀ k, (((a.copies.foldl reportCopy (s.setAssembly none)).commitTarget a).target k).state = (s.target k).state :=
      fun k => by rw [commitTarget_state]; simp
    generalize (a.copies.foldl reportCopy (s.setAssembly none)).commitTarget a = v at hw h1 h2 h3 h4
    have hev : a.kind = .event → (v.run a.bundle).state = .assembling ∧ (v.config a.bundle).target = some a.target := fun hk => by
      obtain ⟨e1, e2⟩ := h.event a.bundle a.target (by simp [eventFor, ha, hk])
      exact ⟨by rw [hw.run (by rw [e1]; decide)]; exact e1, by rw [h3]; exact e2⟩
    have hkind : a.headerKind ≠ .reminder → a.kind = .event := fun e => by
      cases hk : a.kind
      · rfl
      · exact absurd (by simp [Assembly.headerKind, hk]) e
    unfold moveBundle
    split
    · rename_i hh
      obtain ⟨e1, e2⟩ := hev (hkind (by simp [hh]))
      have hc := h1.calm a.bundle (by simp [e1])
      split
      · unfold beginHold
        have k1 := stands_updRun v a.bundle
          (fun x => { x with token := a.token, heldSet := reportedSources a, remindersPosted := 0, reminderDue := false }) rfl rfl p h1
        have k2 := k1.updRun a.bundle (fun x => { x with state := .held }) (by simp [e1]) (by simp)
          (fun _ => ⟨a.target, e2, by rw [updRun_target, h4]; exact ht a ha⟩) (fun k e => by
            rw [show (v.updRun a.bundle _).eventFor = v.eventFor from rfl, h2] at e; cases e) (fun _ => by simp [hc, HoldTimer.judged])
        exact stands_startHold (stands_rejudgeSpaceOf _ _ p k2) a.bundle (by simp)
      · unfold noholdCommit
        exact stands_settleByList (stands_updRun v a.bundle (fun x => { x with token := a.token }) rfl rfl p h1) a.bundle
          (by simp [e1]) (by simp [hc]) (.inr h2)
    · rename_i hh
      obtain ⟨e1, -⟩ := hev (hkind (by simp [hh]))
      exact stands_settleByList h1 a.bundle (by simp [e1]) (h1.calm a.bundle (by simp [e1])) (.inr h2)
    · unfold reminderCommit
      split
      · rename_i hs
        have hs : (v.run a.bundle).state = .held := by simp [holdStands] at hs; exact hs.1
        exact stands_startHold (stands_updRun v a.bundle (fun x => { x with remindersPosted := x.remindersPosted + 1 }) rfl rfl p h1)
          a.bundle (by simpa using hs)
      · exact h1

theorem stands_returnCopy (s : State) (c : Copy) : Stands s (s.returnCopy c) := by
  unfold returnCopy
  dsimp only
  (repeat' split)
  · exact .refl s
  · exact (stands_setRecord s _ _).trans (stands_listGained _ _)
  · exact (stands_setRecord s _ _).trans (stands_updTally _ _ _)
  · exact ((stands_setRecord s _ _).trans (stands_updTally _ _ _)).trans (stands_acceptMany _ _ _ _)

theorem stands_abortAssembly (s : State) : Stands s s.abortAssembly := by
  unfold abortAssembly
  split
  · exact .refl s
  · rename_i a ha
    intro p h
    dsimp only
    refine stands_afterAssembly _ _ _ p (stands_faultTarget _ _ _ p ?_)
    have hw : Woken s (a.copies.foldl returnCopy (s.setAssembly none)) :=
      (Woken.of_eq (by rfl)).trans (woken_returnCopies _ _)
    have h1 : Standing p (a.copies.foldl returnCopy (s.setAssembly none)) :=
      Stands.foldl stands_returnCopy _ _ p (stands_dropAssembly s p h)
    have h2 : (a.copies.foldl returnCopy (s.setAssembly none)).eventFor = none := by simp [eventFor]
    generalize a.copies.foldl returnCopy (s.setAssembly none) = v at hw h1 h2
    unfold abortBundle
    split
    · rename_i hk
      obtain ⟨e1, -⟩ := h.event a.bundle a.target (by simp [eventFor, ha, hk])
      have e2 : (v.run a.bundle).state = .assembling := by rw [hw.run (by rw [e1]; decide)]; exact e1
      exact stands_settleByList h1 a.bundle (by simp [e2]) (h1.calm a.bundle (by simp [e2])) (.inr h2)
    · split
      · exact stands_updRun v a.bundle _ rfl rfl p h1
      · exact h1

/-! ### Lines and time -/

theorem stands_lineMoved (s : State) (l : LineId) : Stands s (s.lineMoved l) := by
  unfold lineMoved
  dsimp only
  (repeat' split)
  all_goals first
    | exact .refl s
    | exact stands_qualify _ _
    | exact stands_setLine _ _ _
    | exact (stands_setLine _ _ _).trans (stands_accept _ _ _)

theorem stands_qualificationExpires (s : State) (l : LineId) : Stands s (s.qualificationExpires l) := by
  unfold qualificationExpires
  split
  · exact stands_qualify _ _
  · exact .refl s

theorem stands_live {s : State} {f : State → State} (h : ∀ u, Stands u (f u)) : Stands s (live f s) := by
  unfold live
  split
  · exact .refl s
  · exact h s

theorem judged_tick (x : HoldTimer) (p : Bool) (h : x.judged p = x) : x.tick.judged p = x.tick := by
  cases x <;> cases p <;> simp_all [HoldTimer.tick, HoldTimer.judged]

theorem stands_elapse (s : State) : Stands s s.elapse := by
  have h : Stands s (live tickTimers s) := by
    unfold live
    split
    · exact .refl s
    · have hr : ∀ b, s.tickTimers.run b = { s.run b with holdTimer := (s.run b).holdTimer.tick } := fun b => by
        simp [tickTimers, State.run]
      have ht : ∀ k, (s.tickTimers.target k).state = (s.target k).state := fun k => by simp [tickTimers, State.target]
      refine fun p h => ⟨fun b => ?_, fun b => ?_, fun b => ?_, fun b k e => ?_, fun q b => ?_⟩
      · rw [hr]; exact h.off b
      · rw [hr]; exact fun e => by simp [h.calm b e, HoldTimer.tick]
      · rw [hr]; simp only [ht]; exact h.held b
      · rw [hr]; exact h.event b k e
      · rw [hr, show s.tickTimers.pausesHold b = s.pausesHold b from pausesHold_congr rfl ht]
        have := h.timers q b
        exact judged_tick _ _ this
  exact h.trans (.of_eq rfl rfl rfl fun _ => rfl)

theorem stands_raiseCommand (s : State) (c : CmdId) (n : Half) (k : Byte) (d : Option Half) : Stands s (s.raiseCommand c n k d) := by
  unfold raiseCommand
  split
  · exact stands_complete _ _ _ _
  · split
    · exact stands_complete _ _ _ _
    · split
      · exact (stands_acceptMany _ _ _ _).trans (stands_complete _ _ _ _)
      · exact stands_complete _ _ _ _

theorem stands_timeSetCommand (s : State) (c : CmdId) (v : BitVec 64) : Stands s (s.timeSetCommand c v) := by
  have h : Stands s (s.setTimebase (v.setWidth 48)) := .of_eq rfl rfl rfl fun _ => rfl
  unfold timeSetCommand
  split
  · exact stands_complete _ _ _ _
  · exact (h.trans (stands_accept _ _ _)).trans (stands_complete _ _ _ _)

/-! ### Answers and steps -/

theorem stands_answer {s : State} {i : Nat} {p : Issuer → Bool} {f : Issuer → State → State}
    (h : ∀ w, Stands (s.endRequest i) (f w (s.endRequest i))) : Stands s (s.answer i p f) := by
  have e := stands_endRequest s i
  unfold answer
  split
  · split
    · split
      · exact e
      · exact e.trans (h _)
    · exact .refl s
  · exact .refl s

theorem stands_command {s : State} {r : SlotRead} {f : State → State} (h : ∀ u, Stands u (f u)) : Stands s (s.commandAnswer r f) := by
  refine stands_answer fun w => ?_
  split
  · exact (Stands.updProc _ _).trans (h _)
  · exact .refl _

theorem stands_timedOut (w : Issuer) (s : State) (h : RingsInRange s) : Stands s (s.timedOut w) := by
  unfold timedOut
  split
  · exact stands_abortAssembly s
  · exact (stands_consumerAnswer _ _ _).trans (stands_afterTargetAnswer _ _)
  · exact (stands_signalAnswer _ _ _).trans (stands_afterTargetAnswer _ _)
  · exact stands_commandRefused _
  · exact stands_replyAnswer _ _
  · exact stands_attachAnswer _ _ fun c a e => (h.2.2 c a e).1
  · exact stands_completionAnswer _ _
  · exact stands_cplSignalAnswer _ _
  · exact stands_cplConsumerAnswer _ _
  · exact stands_setupAnswer _ _

theorem stands_resetBlocks (s : State) : Stands s s.resetBlocks := by
  have h1 : ∀ b, s.resetBlocks.run b = BundleRun.reset := fun b => by simp [resetBlocks, State.run, State.reset]
  have h2 : ∀ b, s.resetBlocks.config b = BundleConfig.reset := fun b => by simp [resetBlocks, State.config, State.reset]
  have h3 : s.resetBlocks.eventFor = none := rfl
  exact fun p _ =>
    { off := fun b => by simp [h1, h2, BundleRun.reset, BundleConfig.reset]
      calm := fun b _ => by rw [h1]; rfl
      held := fun b e => by simp [h1, BundleRun.reset] at e
      event := fun b k e => by simp [h3] at e
      timers := fun _ b => by rw [h1]; rfl }

/-- Every row of the table keeps the bundles standing. -/
theorem stands_exec (c : Instr) (s t : State) (hr : RingsInRange s) (h : exec c s = .next t) : Stands s t := by
  cases c <;>
  simp only [exec, execSampledLevelChange, execQualificationExpiry, execTimebaseWrap, execNop, execBadKind,
    execRaise, execTimeSet, execTimeRead, execRouteSet, execRouteRead, execSourceClear, execTallyReset,
    execBundleSet, execBundleRead, execBundleFlush, execAck, execTargetAttach, execTargetDetach, execTargetQuiesce,
    execTargetResume, execTargetRead, execDrain, execFence, execAbort, execCommandTake, execCommandReadRefused,
    execReplyWriteAnswer, execTargetAttachReadAnswer, execDrainTimerExpiry, execCompletionWriteAnswer,
    execCompletionSignalAnswer, execCompletionConsumerReadAnswer, execSetupReadAnswer, execEnable, execDeviceReset,
    execCmdRestart, execRestartDrainComplete, execClearCounts, execCmdProducer, execAttentionRefresh,
    execAttentionRearm, execCplRefresh, execAckPort, execRegisterWrite, execLinkLoss, execPowerOn, execResetEnd,
    execDrainedAnswerDiscard, execHostRequestTimeout, execLateAnswerDiscard, execEventAssemblyStart,
    execReminderAssemblyStart, execFirstWriteIssue, execEntryWriteDone, execCommit, execAssemblyAbort,
    execHoldTimerExpiry, execConsumerWordReadAnswer, execPollTimerExpiry, execHoldoffTimerExpiry,
    execSignalWriteAnswer, Host.Outcome.next.injEq] at h <;>
  subst h
  case sampledLevelChange => exact (stands_setLine s _ _).trans (stands_live fun u => stands_lineMoved u _)
  case qualificationExpiry => exact stands_live fun u => stands_qualificationExpires u _
  case timebaseWrap => split; exacts [stands_elapse s, .refl s]
  case nop => exact stands_command fun u => stands_complete _ _ _ _
  case badKind => exact stands_command fun u => stands_complete _ _ _ _
  case raise => exact stands_command fun u => stands_raiseCommand _ _ _ _ _
  case timeSet => exact stands_command fun u => stands_timeSetCommand _ _ _
  case timeRead => exact stands_command fun u => stands_complete _ _ _ _
  case routeSet => exact stands_command fun u => stands_routeSetCommand _ _ _ _ _
  case routeRead => exact stands_command fun u => stands_routeReadCommand _ _ _ _
  case sourceClear => exact stands_command fun u => stands_sourceClearCommand _ _ _
  case tallyReset => exact stands_command fun u => stands_tallyResetCommand _ _ _
  case bundleSet => exact stands_command fun u => stands_bundleSetCommand _ _ _ _
  case bundleRead => exact stands_command fun u => stands_bundleReadCommand _ _ _ _ _
  case bundleFlush => exact stands_command fun u => stands_bundleFlushCommand _ _ _
  case ack => exact stands_command fun u => stands_ackCommand _ _ _ _
  case targetAttach => exact stands_command fun u => stands_attachCommand _ _ _ _ _ _ _ _
  case targetDetach => exact stands_command fun u => stands_detachCommand _ _ _
  case targetQuiesce => exact stands_command fun u => stands_moveCommand _ _ _ _ _ (by decide)
  case targetResume => exact stands_command fun u => stands_moveCommand _ _ _ _ _ (by decide)
  case targetRead => exact stands_command fun u => stands_targetReadCommand _ _ _ _
  case drain => exact stands_command fun u => stands_drainCommand _ _ _ _
  case fence => exact stands_command fun u => stands_judgeDeferrable _ _ _
  case abort => exact stands_command fun u => stands_abortCommand _ _ _
  case commandTake => exact stands_live stands_takeCommand
  case commandReadRefused => exact stands_answer fun _ => stands_commandRefused _
  case replyWriteAnswer => exact stands_answer fun _ => stands_replyAnswer _ _
  case targetAttachReadAnswer => exact stands_answer fun _ => stands_attachAnswer _ _ fun c a e => (hr.2.2 c a e).1
  case drainTimerExpiry => exact stands_live fun u => stands_drainExpires u _
  case completionWriteAnswer => exact stands_answer fun _ => stands_completionAnswer _ _
  case completionSignalAnswer => exact stands_answer fun _ => stands_cplSignalAnswer _ _
  case completionConsumerReadAnswer => exact stands_answer fun _ => stands_cplConsumerAnswer _ _
  case setupReadAnswer => exact stands_answer fun _ => stands_setupAnswer _ _
  case enable => exact stands_live fun u => stands_setEnable u _
  case deviceReset => exact stands_beginReset s
  case cmdRestart => exact stands_live stands_restart
  case restartDrainComplete => exact stands_live stands_restartDrained
  case clearCounts => exact stands_live stands_clearStale
  case cmdProducer => exact stands_live fun u => stands_producerWrite u _
  case attentionRefresh => exact stands_live fun u => stands_attentionRefresh u _
  case attentionRearm => exact stands_live fun u => stands_attentionRearm u _ _
  case cplRefresh => exact stands_live stands_refreshCompletions
  case ackPort => exact stands_live fun u => stands_ackPortWrite u _ _
  case registerWrite => exact stands_live fun u => stands_windowWrite u _ _ _
  case linkLoss => exact stands_beginReset s
  case powerOn => exact (stands_resetBlocks s).trans (.of_eq rfl rfl rfl fun _ => rfl)
  case resetEnd => unfold resetEnds; split; exacts [stands_resetBlocks s, .refl s]
  case drainedAnswerDiscard => split; exacts [stands_endRequest s _, .refl s]
  case hostRequestTimeout => split; exacts [stands_answer fun w => stands_timedOut w _ hr, .refl s]
  case lateAnswerDiscard => exact .refl s
  case eventAssemblyStart => exact stands_live stands_eventStart
  case reminderAssemblyStart => exact stands_live stands_reminderStart
  case firstWriteIssue =>
    refine stands_live fun u => ?_
    split
    · exact .refl u
    · exact stands_issueWrite u
  case entryWriteDone => split; exacts [.refl s, stands_answer fun _ => stands_entryDone _]
  case commit => split; exacts [stands_answer fun _ => stands_commitAssembly _ fun a ha => (hr.2.1 a ha).1, .refl s]
  case assemblyAbort => exact stands_answer fun _ => stands_abortAssembly _
  case holdTimerExpiry => exact stands_live fun u => stands_holdExpires u _
  case consumerWordReadAnswer => exact stands_answer fun w => stands_consumerHandler _ w _
  case pollTimerExpiry => exact stands_live fun u => stands_pollExpires u _
  case holdoffTimerExpiry => exact stands_live fun u => stands_holdoffExpires u _
  case signalWriteAnswer => exact stands_answer fun w => stands_signalHandler _ w _

/-- Every step keeps the bundles standing. -/
theorem stands_step (s t : State) (hr : RingsInRange s) (h : step s = .next t) : Stands s t := by
  unfold step at h
  split at h
  · cases h
    unfold idle
    split
    · exact stands_elapse s
    · exact .of_eq rfl rfl rfl fun _ => rfl
  · rename_i c rest hp
    exact Stands.trans (t := { s with pending := rest }) (.of_eq rfl rfl rfl fun _ => rfl) (stands_exec _ _ _ hr h)

/-! ### The invariant -/

theorem pausesHold_iff (s : State) (b : BundleId) : s.pausesHold b = true ↔
    (s.config b).urgent = false ∧ ∃ k, (s.config b).target = some k ∧ (s.target k).state = .quiesced := by
  unfold pausesHold
  cases (s.config b).target <;> simp

/-- A hold timer is as it would be judged exactly when PAUSED and RUNNING are as the bundle's target wants them (R103). -/
theorem judged_iff (x : HoldTimer) (pause : Bool) : x.judged pause = x ↔
    ((∃ left, x = .paused left) → pause = true) ∧ ((∃ left, x = .running left) → ¬ pause = true) := by
  cases x <;> cases pause <;> simp [HoldTimer.judged]

/-- Where held sets and ASSEMBLING bundles are in step, `BundlesStand` is what every operation keeps. -/
theorem standing_iff (s : State) (h : HoldsInStep s) : Standing true s ↔ BundlesStand s := by
  have ht : ∀ b, (s.run b).holdTimer.judged (s.pausesHold b) = (s.run b).holdTimer ↔
      ((∃ left, (s.run b).holdTimer = .paused left) →
        (s.config b).urgent = false ∧ ∃ k, (s.config b).target = some k ∧ (s.target k).state = .quiesced) ∧
      ((∃ left, (s.run b).holdTimer = .running left) →
        ¬ ((s.config b).urgent = false ∧ ∃ k, (s.config b).target = some k ∧ (s.target k).state = .quiesced)) := by
    intro b
    rw [judged_iff, pausesHold_iff]
  constructor
  · intro k
    exact ⟨k.off, k.held, fun b => (ht b).1 (k.timers rfl b), fun a ha hk => (k.event a.bundle a.target (by simp [eventFor, ha, hk])).2⟩
  · rintro ⟨k1, k2, k3, k4⟩
    refine ⟨k1, fun b e => ((h.1 b).2.2.1 e).2.2, k2, fun b t e => ?_, fun _ b => (ht b).2 (k3 b)⟩
    cases ha : s.assembly with
    | none => simp [eventFor, ha] at e
    | some a =>
      by_cases hk : a.kind = .event
      · simp only [eventFor, ha, hk, if_true, Option.some.injEq, Prod.mk.injEq] at e
        obtain ⟨rfl, rfl⟩ := e
        exact ⟨(h.1 _).2.1.2 (by simp [eventBundle, ha, hk]), k4 a ha hk⟩
      · simp [eventFor, ha, hk] at e

end Sys2Proof.Machine
end

