-- ==== Sys2Proof/Tests/Slice0.lean ====
section
/-! SUPPORT. Sys2Proof/Tests/Slice0.lean: the well-formedness checks at work, the manual's worked examples one step at a time, and for
each obligation with hypotheses a state and operands that meet them (`test_meets_<Obligation>`; a clause at a time where the clauses
exclude each other). -/
namespace Sys2Proof.Tests

open Sys2Proof.Machine Sys2Proof.Machine.State

set_option Elab.async false

/-! ### Well-formedness -/

theorem test_badKind_of_a_listed_code_refused : Instr.wellFormed (.badKind ⟨0, 0, false⟩ 0x35) = false := by decide

theorem test_badKind_of_an_unlisted_code : Instr.wellFormed (.badKind ⟨0, 0, false⟩ 0x36) = true := by decide

theorem test_registerWrite_of_no_width_refused : Instr.wellFormed (.registerWrite 4 0 1) = false := by decide

/-! ### Small states -/

def setup0 : SetupBlock := ⟨0x10000#64, 0x20000#64, 0x30000#64, 0x30010#64, 7#32, 16#16, 16#16⟩

def request (id : Nat) (who : Issuer) : Request := ⟨id, who, 0#64, .read 4, 2000⟩

/-- A RUNNING processor whose command read is request 0. -/
def running : State :=
  { State.reset with
    proc := { Processor.reset with state := .running, setup := some setup0, producer := 1 }
    enable := true, requests := [request 0 .commandRead], nextRequest := 1 }

def cmd0 : SlotRead := ⟨0, 5, true⟩

/-- `s` with the one request 0 of an issuer. -/
def asked (who : Issuer) (s : State) : State := { s with requests := [request 0 who], nextRequest := 1 }

def entry (t : Trigger) (filter : Half) : RouteEntry := ⟨true, t, filter, some 0, 2⟩

def record1 : PendingRecord := ⟨1, 40, 40, 9, some 1⟩

def bundleOn : BundleConfig := ⟨true, some 0, .sweep, 8, false, .hold, 50, 1⟩

def target0 : Target := attached ⟨0, 0x4000, 16, 0x100, 200, 0x200, 7, 50⟩

/-- Bundle 0 in a state, on the ACTIVE target 0; source 5 is routed to it. -/
def bundleIn (st : BundleState) (s : State) : State :=
  (((s.setRoute 5 (entry .high 0)).setConfig 0 bundleOn).updTarget 0 fun _ => target0).updRun 0 fun x => { x with state := st }

/-- Bundle 0 READY with the record of source 5. -/
def ready (s : State) : State := (bundleIn .ready s).setRecord 5 (some record1)

/-- Bundle 0 HELD with token 7 and held set 5. -/
def held (s : State) : State :=
  (bundleIn .held s).updRun 0 fun x => { x with token := 7, heldSet := [5], holdTimer := .running 0 }

def copy5 (st : CopyState) : Copy := ⟨5, 2, 30, 31, 9, some 1, false, 0, st⟩

/-- An assembly of bundle 0 for target 0. -/
def assembly0 (kind : AssemblyKind) (copies : List Copy) (position : WritePosition) : Assembly :=
  ⟨kind, 0, 0, 0, copies, 7, 0, false, false, false, ⟨.sweep, 8, .hold, false⟩, position⟩

/-- Bundle 0 ASSEMBLING, its EVENT assembly at a position. -/
def assembling (st : CopyState) (position : WritePosition) (s : State) : State :=
  (bundleIn .assembling s).setAssembly (some (assembly0 .event [copy5 st] position))

/-- A processor with a command in hand. -/
def inHand (h : Hand) (s : State) : State := s.updProc fun p => { p with hand := some h }

/-- What holds of the state that a command answers. -/
def after (c : Instr) (s : State) (holds : State → Bool) : Bool :=
  match exec c s with
  | .next t => holds t
  | .fault _ => false
  | .refused _ => false

/-! ### Lines and time -/

theorem test_meets_StepTakesFrontCommand : ({ State.reset with pending := [.timebaseWrap, .powerOn] }).pending = [.timebaseWrap, .powerOn] :=
  rfl

theorem test_meets_IdleStepDoesOwnWork :
    (State.reset.pending = [] ∧ State.reset.ownWork = []) ∧
      ({ State.reset with resetting := true }).pending = [] ∧ ({ State.reset with resetting := true }).ownWork ≠ [] := by
  decide +kernel

theorem test_meets_SampledLevelChange_stable :
    State.reset.resetting = false ∧ (State.reset.line 191).qualification = .stable ∧
      (State.reset.line 191).sampled = (State.reset.line 191).qualified ∧ (State.reset.route (sourceOfLine 191)).filter = 0 ∧
      ((State.reset.setRoute 191 (entry .rise 65535)).route (sourceOfLine 191)).filter ≠ 0 := by decide +kernel

theorem test_meets_SampledLevelChange_qualifying :
    ((State.reset.setLine 0 ⟨.high, .low, .qualifying 3⟩).line 0).qualification = .qualifying 3 ∧
      ((State.reset.setLine 0 ⟨.high, .low, .qualifying 3⟩).line 0).sampled ≠
        ((State.reset.setLine 0 ⟨.high, .low, .qualifying 3⟩).line 0).qualified := by decide +kernel

theorem test_meets_QualificationExpiry :
    (State.reset.setLine 0 ⟨.high, .low, .qualifying 0⟩).resetting = false ∧
      ((State.reset.setLine 0 ⟨.high, .low, .qualifying 0⟩).line 0).qualification = .qualifying 0 := by decide +kernel

/-- Contact bounce, the expiry at 3000 (11): the record of source 30. -/
theorem test_bounce_expiry :
    after (.qualificationExpiry 30) ((((State.reset.setTimebase 7003000).setInterval 30 4003000).setRoute 30
        ⟨true, .both, 2000, some 1, 2⟩).setLine 30 ⟨.high, .low, .qualifying 0⟩) (fun t =>
      t.record 30 = some ⟨1, 7003000, 7003000, 4003000, some 1⟩ ∧ (t.tally 30).accepted = 1 ∧ t.interval 30 = 0) = true := by decide +kernel

/-- Contact bounce, the abandonment at 400 (11): source 214 accepts an event with detail 30. -/
theorem test_bounce_abandoned :
    after (.sampledLevelChange 30) ((((State.reset.setTimebase 7000400).setRoute 214 ⟨true, .rise, 0, some 2, 15⟩).setRoute 30
        ⟨true, .both, 2000, some 1, 2⟩).setLine 30 ⟨.high, .low, .qualifying 1600⟩) (fun t =>
      (t.record 214).map (fun x => (x.count, x.firstTime, x.detail)) = some (1, 7000400, some 30) ∧ t.record 30 = none ∧
        t.line 30 = ⟨.low, .low, .stable⟩) = true := by decide +kernel

theorem test_meets_TimebaseCountsOn :
    (State.reset.setTimebase 281474976710655#48).timebase.toNat = 281474976710655 ∧
      (281474976710655#64).toNat ≤ 281474976710655 := by decide +kernel

theorem test_takes_running : Takes running cmd0 := by
  unfold Takes Awaits
  decide +kernel

/-- What is done to the other blocks leaves the command takeable. -/
theorem takes_of {s : State} (h1 : s.proc = running.proc) (h2 : s.requests = running.requests) (h3 : s.resetting = false) :
    Takes s cmd0 := by
  refine ⟨⟨?_, h3, fun _ => ?_⟩, ?_⟩
  · rw [requestOf, h2]
    rfl
  · rw [h1]
    rfl
  · rw [h1]
    rfl

theorem test_meets_MicrosecondPasses : State.reset.resetting = false ∧ ({ State.reset with resetting := true }).resetting = true :=
  ⟨rfl, rfl⟩

/-! ### Events and accounts -/

theorem test_meets_AcceptanceChecks :
    (State.reset.route 0).enabled = false ∧
      (lineOf 5 = some 5 ∧ ((State.reset.setRoute 5 (entry .low 0)).route 5).enabled = true ∧
        ((State.reset.setRoute 5 (entry .low 0)).route 5).trigger.activeLevel =
          some ((State.reset.setRoute 5 (entry .low 0)).line 5).qualified) ∧
      lineOf 192 = none ∧ (lineOf 191 = some 191 ∧ (State.reset.route 191).enabled = false) := by decide +kernel

theorem test_meets_ArrivalCreates :
    ((State.reset.setRoute 215 (entry .rise 0)).route 215).enabled = true ∧
      (State.reset.setRoute 215 (entry .rise 0)).record 215 = none := by decide +kernel

theorem test_meets_ArrivalGrows :
    ((ready State.reset).route 5).enabled = true ∧ (ready State.reset).record 5 = some record1 ∧ 1 ≤ record1.count ∧
      ({ record1 with count := 65534 }).count ≤ 65534 := by decide +kernel

theorem test_meets_ArrivalLost :
    (((ready State.reset).setRecord 5 (some { record1 with count := 65535 })).route 5).enabled = true ∧
      ((ready State.reset).setRecord 5 (some { record1 with count := 65535 })).record 5 = some { record1 with count := 65535 } ∧
      ((State.reset.tally 5).lost + 1 ≠ (State.reset.tally 5).lossMark) := by decide +kernel

theorem test_list_order :
    ((((ready State.reset).setRoute 3 (entry .rise 0)).setRecord 3 (some { record1 with firstTime := 41 })).setRoute 9
      ⟨true, .rise, 0, some 0, 1⟩ |>.setRecord 9 (some { record1 with firstTime := 99 })).pendingList 0 = [9, 5, 3] := by
  decide +kernel

theorem test_meets_Raise :
    Takes (running.setRoute 207 (entry .rise 0)) cmd0 ∧ (¬ (192 ≤ (208#16).toNat ∧ (208#16).toNat ≤ 207) ∧
      ¬ (192 ≤ (191#16).toNat ∧ (191#16).toNat ≤ 207)) ∧ (running.route 192).enabled = false ∧
      ((running.setRoute 207 (entry .rise 0)).route 207).enabled = true ∧ (255#8 ≠ 0) ∧
      (running.setRoute 207 (entry .rise 0)).record 207 = none :=
  ⟨takes_of rfl rfl rfl, by decide +kernel⟩

theorem test_raise_three :
    after (.raise cmd0 207 3 true 77) (running.setRoute 207 (entry .rise 0)) (fun t =>
      t.record 207 = some ⟨3, 0, 0, 4294967295, some 77⟩ ∧ (t.tally 207).accepted = 3 ∧
        t.proc.completions = [⟨cmdOf cmd0 1, .ok, 3⟩] ∧ t.outstanding .completionWrite = 1) = true := by decide +kernel

theorem test_meets_TimeSetAndRead :
    Takes running cmd0 ∧ 281474976710655 < (281474976710656#64).toNat ∧ (281474976710655#64).toNat ≤ 281474976710655 :=
  ⟨test_takes_running, by decide⟩

theorem test_meets_NopAndBadKind : Takes running cmd0 := test_takes_running

theorem test_meets_SourceClear :
    Takes (assembling .unwritten (.entry 1) running) cmd0 ∧ 215 < (216#16).toNat ∧ (215#16).toNat = (215 : SourceId).val :=
  ⟨takes_of rfl rfl rfl, by decide⟩

theorem test_source_clear_of_record_and_copy :
    after (.sourceClear cmd0 5) ((assembling .unwritten (.entry 1) running).setRecord 5 (some { record1 with count := 4 })) (fun t =>
      t.record 5 = none ∧ (t.tally 5).cleared = 6 ∧ t.copies = [copy5 .void] ∧
        t.proc.completions = [⟨cmdOf cmd0 0x12, .ok, 0x00020004⟩]) = true := by decide +kernel

theorem test_meets_TallyReset :
    Takes running cmd0 ∧ (215 < (216#16).toNat ∧ (216#16) ≠ 0xFFFF#16) ∧ (215#16).toNat ≤ 215 ∧ (0xFFFF#16 = 0xFFFF#16) :=
  ⟨test_takes_running, by decide⟩

theorem test_meets_BalanceKept : step State.reset = .next State.reset.elapse := by
  have h : State.reset.ownWork.isEmpty = true := by decide +kernel
  simp [step, State.reset, idle] at h ⊢
  simp [h]

theorem test_meets_BoundsKept : step running = .next running.idle := rfl

/-- The invariants hold in states that are not the reset state. -/
theorem test_meets_BoundsKept_invariants :
    ReservationsFit { running with requests := [] } ∧ CopiesDistinct (assembling .written .header State.reset) ∧
      (running.proc.setup ≠ none ∧ (assembling .written .header State.reset).copies ≠ []) := by
  refine ⟨⟨fun su h => ?_, fun h => ?_⟩, ?_, by decide +kernel⟩
  · cases h
    decide +kernel
  · cases h
  · unfold CopiesDistinct
    decide +kernel

/-- Target 0 ACTIVE with an assembly in flight, within its ring. -/
theorem test_rings_in_range : RingsInRange (assembling .written .header State.reset) := by
  refine ⟨?_, fun a h => ?_, fun cmd a h => ?_⟩
  · decide +kernel
  · have e : a = assembly0 .event [copy5 .written] .header := by
      have h' : some (assembly0 .event [copy5 .written] .header) = some a := h
      exact (Option.some.inj h').symm
    subst e
    decide +kernel
  · have h' : (none : Option Hand) = some (.attach cmd a) := h
    cases h'

/-! ### The route table -/

theorem test_meets_RouteArguments :
    Takes running cmd0 ∧ (215 < (216#16).toNat ∧ 1 < (2#8).toNat ∧ 4 < (5#8).toNat ∧ (47 < (48#8).toNat ∧ (48#8) ≠ 0xFF#8) ∧
      15 < (16#8).toNat) ∧
      ¬ (215 < (215#16).toNat ∨ 1 < (1#8).toNat ∨ 4 < (4#8).toNat ∨ (47 < (0xFF#8).toNat ∧ 0xFF#8 ≠ 0xFF#8) ∨ 15 < (15#8).toNat) :=
  ⟨test_takes_running, by decide⟩

theorem test_meets_RouteSet :
    Takes running cmd0 ∧ (215#16).toNat = (215 : SourceId).val ∧
      routeArgs 1 4 65535 0xFF 15 = some ⟨true, .low, 65535, none, 15⟩ ∧ routeArgs 0 0 0 47 15 = some ⟨false, .rise, 0, some 47, 15⟩ ∧
      running.route 215 = ⟨false, .rise, 0, none, 15⟩ ∧ routeArgs 0 0 0 0xFF 15 = some ⟨false, .rise, 0, none, 15⟩ :=
  ⟨test_takes_running, by decide +kernel⟩

/-- A line that is QUALIFYING with filter 100. -/
def qualifying : State := (running.setRoute 7 (entry .rise 100)).setLine 7 ⟨.high, .low, .qualifying 10⟩

theorem test_meets_RouteSet_on_a_line :
    Takes qualifying cmd0 ∧ lineOf 7 = some 7 ∧ (qualifying.line 7).qualification ≠ .stable ∧
      routeArgs 1 0 65535 0 2 = some (entry .rise 65535) ∧ routeArgs 1 0 0 0 2 = some (entry .rise 0) ∧
      routeArgs 1 0 100 0 2 = some (qualifying.route 7) ∧ (running.line 7).qualification = .stable ∧
      (running.record 7 = none ∧ (entry .low 0).enabled = true ∧
        (entry .low 0).trigger.activeLevel = some (running.line 7).qualified ∧ (running.route 7).enabled = false) :=
  ⟨takes_of rfl rfl rfl, by decide +kernel⟩

theorem test_level_check_at_enabling :
    after (.routeSet cmd0 7 1 4 0 0 2 false) running (fun t =>
      t.record 7 = some ⟨1, 0, 0, 4294967295, some 0⟩ ∧ t.route 7 = entry .low 0 ∧
        t.proc.completions = [⟨cmdOf cmd0 0x10, .ok, 0⟩]) = true := by decide +kernel

/-- Source 7 an edge source with a record, its line LOW: a level trigger written now finds the level active. -/
def edgeWithRecord : State := (running.setRoute 7 (entry .rise 0)).setRecord 7 (some record1)

theorem test_meets_RouteSet_joins :
    Takes edgeWithRecord cmd0 ∧ lineOf 7 = some 7 ∧ edgeWithRecord.record 7 = some record1 ∧ 1 ≤ record1.count ∧
      record1.count ≤ 65534 ∧ routeArgs 1 4 0 0 2 = some (entry .low 0) ∧ (entry .low 0).enabled = true ∧
      (entry .low 0).trigger.activeLevel = some (edgeWithRecord.line 7).qualified ∧
      (edgeWithRecord.route 7).trigger ≠ (entry .low 0).trigger ∧ (edgeWithRecord.line 7).qualification = .stable :=
  ⟨takes_of rfl rfl rfl, by decide +kernel⟩

theorem test_level_check_joins_a_record :
    after (.routeSet cmd0 7 1 4 0 0 2 false) edgeWithRecord (fun t =>
      t.record 7 = some { record1 with count := 2, lastTime := 0, detail := some 0 }) = true := by decide +kernel

/-- The clauses on what is accepted: a qualification that is ended, counted and not counted, an edge trigger, a level not active. -/
theorem test_meets_RouteSet_accepts :
    ((qualifying.line 7).qualification ≠ .stable ∧ (entry .rise 0).filter ≠ (qualifying.route 7).filter ∧
      (entry .rise 0).trigger.counts (qualifying.line 7).sampled = true ∧
      (entry .fall 0).trigger.counts (qualifying.line 7).sampled = false) ∧
      (entry .fall 0).trigger.activeLevel ≠ some (running.line 7).qualified ∧
      (entry .high 0).trigger.activeLevel ≠ some (running.line 7).qualified ∧ lineOf 215 = none := by decide +kernel

theorem test_filter_0_ends_a_qualification :
    after (.routeSet cmd0 7 1 0 0 0 2 false) qualifying (fun t =>
      t.line 7 = ⟨.high, .high, .stable⟩ ∧ t.record 7 = some ⟨1, 0, 0, 4294967295, some 1⟩ ∧ (t.tally 7).accepted = 1) = true ∧
    after (.routeSet cmd0 7 1 1 0 0 2 false) qualifying (fun t => t.record 7 = none ∧ t.accounts = qualifying.accounts) = true := by
  decide +kernel

theorem test_meets_RouteSet_discard :
    Takes ((assembling .unwritten (.entry 1) running).setRecord 5 (some { record1 with count := 4 })) cmd0 ∧
      routeArgs 1 3 0 0 2 = some ((assembling .unwritten (.entry 1) running).route 5) :=
  ⟨takes_of rfl rfl rfl, by decide +kernel⟩

/-- ROUTE_SET with DISCARD and an entry that changes nothing: the record goes and the copy becomes VOID (R28, R29). -/
theorem test_route_set_discards :
    after (.routeSet cmd0 5 1 3 0 0 2 true) ((assembling .unwritten (.entry 1) running).setRecord 5 (some { record1 with count := 4 }))
      (fun t =>
        t.record 5 = none ∧ (t.tally 5).cleared = 6 ∧ t.copies = [copy5 .void] ∧
          t.proc.completions = [⟨cmdOf cmd0 0x10, .ok, 0x00020004⟩]) = true := by decide +kernel

theorem test_meets_ReadCommands :
    Takes running cmd0 ∧ (215 < (216#16).toNat ∧ 47 < (48#8).toNat ∧ 216 < (217#16).toNat ∧ 5 < (6#8).toNat ∧
      (4#64).toNat % 8 ≠ 0) ∧
      ((8#64 ≠ 0) ∧ (8#64).toNat % 8 = 0 ∧ (215#16).toNat = (215 : SourceId).val ∧ (47#8).toNat = (47 : BundleId).val ∧
        (216#16).toNat ≤ 216 ∧ (5#8).toNat = (5 : TargetId).val) :=
  ⟨test_takes_running, by decide⟩

theorem test_meets_ReadCommands_answer :
    Awaits (inHand (.reply (cmdOf cmd0 0x11) 0) (asked .replyWrite running)) 0 .replyWrite ∧
      (inHand (.reply (cmdOf cmd0 0x11) 0) (asked .replyWrite running)).proc.hand = some (.reply (cmdOf cmd0 0x11) 0) ∧
      ((∀ why, running.proc.state ≠ .halted why) ∧ ∃ why, (running.halt .cmdRead).proc.state = .halted why) := by
  refine ⟨?_, rfl, ?_, .cmdRead, by decide +kernel⟩
  · unfold Awaits
    decide +kernel
  · rintro ⟨⟩ <;> decide +kernel

theorem test_meets_RecordLayouts :
    (ready State.reset).record 5 = some record1 ∧ record1.count ≤ 65535 ∧ (0 < 1 ∧ ((ready State.reset).pendingList 0)[0]? = some 5) ∧
      (copy5 .void).state = .void ∧ (copy5 .written).state ≠ .void ∧ (copy5 .written).count ≤ 65535 ∧
      (assembly0 .event [copy5 .written] .header).copies.length ≤ 255 := by decide +kernel

theorem test_meets_RecordLayouts_results :
    (2 ^ 64 - 1 < 2 ^ 64 ∧ 2 ^ 32 - 1 < 2 ^ 32) ∧
      completionBytes true ⟨cmdOf cmd0 0x22, .ok, resultFlush 65535 1 2⟩ =
        [1, 0x22, 5, 0, 0, 0, 0, 0, 0xFF, 0xFF, 1, 0, 2, 0, 0, 0] := by decide +kernel

theorem test_meets_RecordLayouts_replies :
    ((assembling .written .header State.reset).assembly = some (assembly0 .event [copy5 .written] .header) ∧
      CopiesDistinct (assembling .written .header State.reset) ∧ ∀ c ∈ State.reset.copies, c.source ≠ 5) ∧
      (bundleOn.sweepLimit ≤ 255 ∧ bundleOn.reminderLimit ≤ 255 ∧ ((held State.reset).run 0).heldSet.length ≤ 255 ∧
        ((held State.reset).run 0).holdTimer = .running 0 ∧ (State.reset.run 0).holdTimer = .stopped) ∧
      (target0.ringSize ≤ 65535 ∧ (Timer.running 65535) = .running 65535 ∧ 65535 < 2 ^ 32 ∧
        State.reset.signalWritesOutstanding 5 < 2 ^ 32) := by
  unfold CopiesDistinct
  decide +kernel

/-! ### Bundles -/

theorem test_meets_BundleArguments :
    Takes running cmd0 ∧ (47 < (48#8).toNat ∧ 1 < (2#8).toNat ∧ (5 < (6#8).toNat ∧ (6#8) ≠ 0xFF#8) ∧ 8 < (9#8).toNat ∧
      7 < (8#8).toNat) ∧
      ¬ (47 < (47#8).toNat ∨ 1 < (1#8).toNat ∨ (5 < (0xFF#8).toNat ∧ 0xFF#8 ≠ 0xFF#8) ∨ 1 < (1#8).toNat ∨ (8#8) = 0 ∨
        8 < (8#8).toNat ∨ 1 < (1#8).toNat ∨ 1 < (1#8).toNat ∨ 7 < (7#8).toNat) :=
  ⟨test_takes_running, by decide⟩

theorem test_meets_BundleSetByState_applied :
    Takes (bundleIn .ready running) cmd0 ∧ (0#8).toNat = (0 : BundleId).val ∧
      bundleArgs 1 0 1 8 0 0 1 50 = some bundleOn ∧ ((bundleIn .off running).run 0).state = .off ∧
      ((bundleIn .ready running).run 0).state = .ready ∧
      (bundleOn.enabled = true ∧ ¬ bundleOn.target ≠ ((bundleIn .held running).config 0).target) ∧
      (bundleOn.urgent = false ∧ bundleOn.target = some 0 ∧
        (((bundleIn .held running).updTarget 0 fun x => { x with state := .quiesced }).target 0).state = .quiesced) :=
  ⟨takes_of rfl rfl rfl, by decide +kernel⟩

theorem test_meets_BundleSetByState_other :
    Takes (bundleIn .assembling running) cmd0 ∧ ((bundleIn .held running).run 0).state = .held ∧
      bundleArgs 0 0 1 8 0 0 1 50 = some { bundleOn with enabled := false } ∧
      bundleArgs 1 5 1 8 0 0 1 50 = some { bundleOn with target := some 5 } ∧
      ((bundleIn .assembling running).run 0).state = .assembling ∧
      (some (5 : TargetId) ≠ ((bundleIn .assembling running).config 0).target) :=
  ⟨takes_of rfl rfl rfl, by decide +kernel⟩

theorem test_bundle_set_waits :
    after (.bundleSet cmd0 0 1 5 1 8 0 0 1 50) (bundleIn .assembling running) (fun t =>
      t.proc.state = .waiting .assembly ∧ (t.config 0) = bundleOn ∧ t.proc.completions = []) = true := by decide +kernel

theorem test_meets_BundleFlush :
    Takes (ready running) cmd0 ∧ 47 < (48#8).toNat ∧ (0#8).toNat = (0 : BundleId).val ∧ (ready running).flushedCopies 0 = [] ∧
      (assembling .unwritten (.entry 1) running).flushedCopies 0 ≠ [] ∧ ((ready running).run 0).state = .ready ∧
      ((held running).run 0).state ≠ .ready :=
  ⟨takes_of rfl rfl rfl, by decide +kernel⟩

theorem test_flush_empties_the_list :
    after (.bundleFlush cmd0 0) (ready running) (fun t =>
      t.pendingList 0 = [] ∧ (t.run 0).state = .idle ∧ (t.tally 5).cleared = 1 ∧
        t.proc.completions = [⟨cmdOf cmd0 0x22, .ok, 0x0000000100000001⟩]) = true := by decide +kernel

theorem test_meets_BundlesStayInStep : step (ready running) = .next (ready running).idle := rfl

/-- Bundle 0 HELD on a QUIESCED target, its hold timer PAUSED. -/
def paused : State :=
  ((held State.reset).updTarget 0 fun x => { x with state := .quiesced }).updRun 0 fun x => { x with holdTimer := .paused 7 }

/-- The premises of the clause on BundlesStand, in a state with a HELD bundle and a PAUSED timer. -/
theorem test_meets_BundlesStayInStep_standing : HoldsInStep paused ∧ RingsInRange paused ∧ BundlesStand paused := by
  have none : paused.assembly = none := rfl
  refine ⟨⟨?_, fun a h => by simp [none] at h⟩, ⟨by decide +kernel, fun a h => by simp [none] at h, ?_⟩, by decide +kernel,
    by decide +kernel, fun b => ?_, fun a h => by simp [none] at h⟩
  · unfold BundleRun.HoldFields
    decide +kernel
  · intro cmd a h
    have hand : paused.proc.hand = Option.none := rfl
    simp [hand] at h
  · by_cases e : b = 0
    · subst e
      have timer : (paused.run 0).holdTimer = .paused 7 := by decide +kernel
      exact ⟨fun _ => by decide +kernel, fun ⟨_, h⟩ => by simp [timer] at h⟩
    · have timer : ∀ c : BundleId, c ≠ 0 → (paused.run c).holdTimer = .stopped := by decide +kernel
      exact ⟨fun ⟨_, h⟩ => by simp [timer b e] at h, fun ⟨_, h⟩ => by simp [timer b e] at h⟩

/-! ### Holds -/

theorem test_meets_Acknowledges :
    Takes (held running) cmd0 ∧ 47 < (48#8).toNat ∧ (47#8).toNat = (47 : BundleId).val ∧ ((held running).run 47).state ≠ .held ∧
      (((held running).run 0).state = .held ∧ (8#16) ≠ ((held running).run 0).token) ∧ (7#16) = ((held running).run 0).token ∧
      (held running).resetting = false :=
  ⟨takes_of rfl rfl rfl, by decide +kernel⟩

/-- An acknowledge racing a hold expiry, the acknowledge taken first (11). -/
theorem test_ack_releases :
    after (.ack cmd0 0 7) (held running) (fun t =>
      (t.run 0) = ⟨.idle, 7, [], 0, false, .stopped⟩ ∧ t.staleCount = 0 ∧ (t.tally 210).accepted = 0 ∧
        t.proc.completions = [⟨cmdOf cmd0 0x23, .ok, 1⟩]) = true := by decide +kernel

/-- The same race, the expiry taken first: the acknowledge is stale (11). -/
theorem test_ack_port_stale :
    after (.ackPort 12 300) (State.reset.setRoute 212 ⟨true, .rise, 0, some 0, 15⟩) (fun t =>
      t.staleCount = 1 ∧ (t.record 212).map (fun x => (x.count, x.detail)) = some (1, some 12)) = true := by decide +kernel

theorem test_meets_ReleaseAndHoldTimer :
    (held State.reset).resetting = false ∧ ((held State.reset).run 0).state = .held ∧
      ((held State.reset).run 0).holdTimer = .running 0 ∧
      ((held State.reset).run 0).remindersPosted < ((held State.reset).config 0).reminderLimit ∧
      (((held State.reset).setConfig 0 { bundleOn with reminderLimit := 0 }).config 0).reminderLimit ≤
        ((held State.reset).run 0).remindersPosted := by decide +kernel

/-! ### The assembler -/

theorem test_meets_EventAssemblyStart :
    (ready State.reset).resetting = false ∧ (ready State.reset).chosen = some 0 ∧ ((ready State.reset).config 0).target = some 0 ∧
      ((ready State.reset).run 0).state = .ready := by decide +kernel

/-- Bundle 0 HELD with a reminder due. -/
def reminderDue : State := (held State.reset).updRun 0 fun x => { x with reminderDue := true, holdTimer := .stopped }

theorem test_meets_ReminderAssemblyStart :
    reminderDue.resetting = false ∧ reminderDue.chosen = some 0 ∧ (reminderDue.config 0).target = some 0 ∧
      (reminderDue.run 0).state = .held := by decide +kernel

/-- A sweep trimmed by a full ring, step 1 (11): three of six records are taken, with PARTIAL and MORE. -/
def sweep : State :=
  ([20, 21, 22, 23, 24, 25] : List SourceId).foldl
    (fun s n => (s.setRoute n ⟨true, .rise, 0, some 8, 0⟩).setRecord n (some record1))
    (((State.reset.setConfig 8 ⟨true, some 3, .sweep, 8, false, .nohold, 0, 0⟩).updRun 8 fun x => { x with state := .ready }).updTarget
      3 fun _ => { target0 with produced := 100, consumed := 88 })

theorem test_sweep_trimmed :
    after .eventAssemblyStart sweep (fun t =>
      (t.copies.map fun c => c.source) = [20, 21, 22] ∧ t.pendingList 8 = [23, 24, 25] ∧ (t.run 8).state = .assembling ∧
        t.assembly.map (fun a => (a.base, a.flagPartial, a.flagMore, a.token)) = some (100, true, true, 1) ∧ t.roundRobin = 8) = true := by decide +kernel

theorem test_meets_WritesInOrder :
    (assembling .unwritten (.entry 1) State.reset).resetting = false ∧
      (assembling .unwritten (.entry 1) State.reset).inFlight .assembly = false ∧
      Awaits (asked .assembly (assembling .written (.entry 1) State.reset)) 0 .assembly ∧
      (assembly0 .event [copy5 .unwritten] (.entry 1)).position = .entry 1 ∧
      (assembly0 .event [copy5 .unwritten] (.entry 1)).copies[1 - 1]? = some (copy5 .unwritten) ∧
      (assembly0 .event [copy5 .written] .header).position = .header := by
  unfold Awaits
  decide +kernel

theorem test_meets_Commit :
    Awaits (asked .assembly (assembling .written .header State.reset)) 0 .assembly ∧
      (asked .assembly (assembling .written .header State.reset)).assembly = some (assembly0 .event [copy5 .written] .header) ∧
      ((assembly0 .event [copy5 .written] .header).copies.map fun c => c.source).Nodup ∧ (copy5 .written).state ≠ .void := by
  unfold Awaits
  decide +kernel

/-- Bring-up, step 13 (11): a HOLD bundle's commit, and the signal of an armed target. -/
theorem test_commit_holds_and_signals :
    after (.commit 0) (asked .assembly (assembling .written .header State.reset)) (fun t =>
      (t.run 0) = ⟨.held, 7, [5], 0, false, .running 50000⟩ ∧ (t.tally 5).reported = 2 ∧ (t.target 0).produced = 2 ∧
        (t.target 0).armed = false ∧ (t.target 0).holdoffTimer = .running 50 ∧ t.outstanding (.signal 0) = 1 ∧ t.assembly = none) = true := by decide +kernel

theorem test_meets_Commit_partial :
    let a := { assembly0 .event [copy5 .written] .header with flagPartial := true }
    a.kind = .event ∧ (∃ c ∈ a.copies, c.state ≠ .void) ∧ a.flagPartial = true := by decide +kernel

/-- Target 0 with a TARGET_DETACH that waits for an assembly of a NOHOLD bundle, and behind it a DRAIN and a FENCE. -/
def detachBeforeDrain : State :=
  (((asked .assembly (bundleIn .assembling running)).setAssembly
      (some { assembly0 .event [copy5 .written] .header with captured := ⟨.sweep, 8, .nohold, false⟩ })).updTarget 0 fun x =>
        { x with detachPending := true, armed := false }).updProc fun p =>
    { p with deferred := [⟨cmdOf cmd0 0x31, .detach 0, .stopped⟩, ⟨cmdOf cmd0 0x35, .drain 0 0, .stopped⟩,
        ⟨cmdOf cmd0 0x40, .fence, .stopped⟩] }

/-- What one commit ends in the deferred table completes in table order, oldest first (R145). -/
theorem test_one_event_completes_in_table_order :
    after (.commit 0) detachBeforeDrain (fun t =>
      (t.target 0).state = .detached ∧ (t.run 0).state = .idle ∧ t.proc.deferred = [] ∧
        t.proc.completions = [⟨cmdOf cmd0 0x31, .ok, 0⟩, ⟨cmdOf cmd0 0x35, .ok, 0⟩, ⟨cmdOf cmd0 0x40, .ok, 0⟩]) = true := by decide +kernel

theorem test_meets_CommitSettlesBundle :
    (∃ c ∈ [copy5 .written], c.state ≠ .void) ∧ (∀ c ∈ [copy5 .void], c.state = .void) ∧
      (assembly0 .event [copy5 .written] .header).captured.hold = .hold ∧
      ({ mode := .single, sweepLimit := 8, hold := .nohold, urgent := false } : Captured).hold = .nohold ∧
      (((held State.reset).run 0).state = .held ∧ ((held State.reset).run 0).token = (assembly0 .reminder [] .header).token) ∧
      ((ready State.reset).run 0).state ≠ .held := by decide +kernel

theorem test_meets_AssemblyAbort :
    Awaits (asked .assembly (assembling .written .header State.reset)) 0 .assembly ∧ (copy5 .void).state = .void ∧
      (copy5 .written).state ≠ .void ∧ State.reset.record 5 = none ∧ (ready State.reset).record 5 = some record1 ∧
      (copy5 .written).count + ({ record1 with count := 65533 }).count ≤ 65535 ∧
      65535 < (copy5 .written).count + ({ record1 with count := 65534 }).count := by
  unfold Awaits
  decide +kernel

/-- A target fault, step 4 (11): the copy merges with the record gained meanwhile, and the target is faulted. -/
theorem test_abort_merges :
    after (.assemblyAbort 0) ((asked .assembly (assembling .written .header State.reset)).setRecord 5 (some record1)) (fun t =>
      t.record 5 = some ⟨3, 30, 40, 9, some 1⟩ ∧ (t.run 0).state = .ready ∧ (t.run 0).token = 0 ∧
        (t.target 0).state = .faulted ∧ (t.target 0).faultReason = .ringWrite ∧ (t.target 0).produced = 0 ∧ t.assembly = none) = true := by decide +kernel

/-! ### Targets -/

theorem test_meets_TargetAttach :
    Takes running cmd0 ∧ 5 < (6#64).toNat % 8 ∧ (5#64).toNat % 8 = (5 : TargetId).val ∧ ((bundleIn .idle running).target 0).state ≠ .detached ∧
      (running.target 5).state = .detached ∧ 8 < (0x48#64).toNat / 8 % 16 ∧
      ¬ (8 < (0x20045#64).toNat / 8 % 16 ∨ (BitVec.ofNat 64 ((0x20045#64).toNat / 512 * 512)).toNat % (16 * 2 ^ 8 * 32) ≠ 0 ∨
        (BitVec.ofNat 64 ((0x20045#64).toNat / 512 * 512) + (0xFFFFFFFC#32).signExtend 64).toNat % 4 ≠ 0 ∨ (0x200#64).toNat % 4 ≠ 0) :=
  ⟨test_takes_running, by decide +kernel⟩

theorem test_attach_reads_the_consumer_word :
    after (.targetAttach cmd0 0 200 0x20045 0xFFFFFFFC 7 0x200) running (fun t =>
      t.proc.hand = some (.attach (cmdOf cmd0 0x30) ⟨5, 0x20000, 4096, 0x1FFFC, 0, 0x200, 7, 200⟩) ∧
        t.requests = [⟨1, .attachRead, 0x1FFFC, .read 4, 2000⟩]) = true := by decide +kernel

def attach0 : AttachArgs := ⟨0, 0x4000, 16, 0x100, 200, 0x200, 7, 50⟩

theorem test_meets_TargetAttach_answer :
    Awaits (inHand (.attach (cmdOf cmd0 0x30) attach0) (asked .attachRead running)) 0 .attachRead ∧
      (inHand (.attach (cmdOf cmd0 0x30) attach0) (asked .attachRead running)).proc.hand = some (.attach (cmdOf cmd0 0x30) attach0) ∧
      (1#32) ≠ 0 := by
  unfold Awaits
  decide +kernel

theorem test_meets_QuiesceAndResume :
    Takes (bundleIn .held running) cmd0 ∧ 5 < (6#8).toNat ∧ (5#8).toNat = (5 : TargetId).val ∧
      ((bundleIn .held running).target 5).state ≠ .active ∧ ((bundleIn .held running).target 0).state = .active ∧
      (((bundleIn .held running).updTarget 0 fun x => { x with state := .quiesced }).target 0).state = .quiesced :=
  ⟨takes_of rfl rfl rfl, by decide +kernel⟩

/-- A full deferred table. -/
def tableFull (s : State) : State :=
  s.updProc fun p => { p with deferred := List.replicate 4 ⟨cmdOf cmd0 0x40, .fence, .stopped⟩ }

/-- Target 0 with a signal write outstanding, beside the command read. -/
def signalling : State :=
  { bundleIn .held running with requests := [request 0 .commandRead, request 1 (.signal 0)], nextRequest := 2 }

theorem test_meets_TargetDetach :
    Takes signalling cmd0 ∧ Takes (tableFull signalling) cmd0 ∧ 5 < (6#8).toNat ∧ (running.target 5).state = .detached ∧
      ((bundleIn .held running).target 0).state ≠ .detached ∧ ((bundleIn .held running).taken cmd0).targetBusy 0 = false ∧
      (signalling.taken cmd0).targetBusy 0 = true ∧ signalling.proc.deferred.length < 4 ∧
      4 ≤ (tableFull signalling).proc.deferred.length := by
  unfold Takes Awaits
  decide +kernel

/-- Drain and detach (11): the detach waits for the signal write, whose answer carries it out and releases the hold. -/
theorem test_detach_after_the_signal :
    after (.signalWriteAnswer 1 .done) ((signalling.updTarget 0 fun x => { x with detachPending := true }).updProc fun p =>
        { p with deferred := [⟨cmdOf cmd0 0x31, .detach 0, .stopped⟩] }) (fun t =>
      (t.target 0).state = .detached ∧ (t.run 0).state = .idle ∧ t.proc.deferred = [] ∧
        t.proc.completions = [⟨cmdOf cmd0 0x31, .ok, 1⟩]) = true := by decide +kernel

/-- One HELD bundle whose source 5 is active at the detach: its re-assertion makes the bundle READY (R101, R127). -/
theorem test_meets_DetachCarriedOut :
    let s := (held State.reset).setRoute 5 (entry .low 0)
    s.heldBundles 0 = [0] ∧ (1 : BundleId) ∉ s.heldBundles 0 ∧ ((s.performDetach 0).run 0).state = .ready ∧
      ((s.performDetach 0).record 5).isSome = true ∧ (((held State.reset).performDetach 0).run 0).state = .idle := by decide +kernel

theorem test_meets_DrainAndFence :
    Takes (bundleIn .held running) cmd0 ∧ Takes (tableFull (bundleIn .held running)) cmd0 ∧ 5 < (6#8).toNat ∧
      (5#8).toNat = (5 : TargetId).val ∧ (∀ b, (running.config b).target = some 5 → (running.config b).enabled = true →
        (running.run b).state = .idle) ∧
      ¬ (∀ b, ((bundleIn .held running).config b).target = some 0 → ((bundleIn .held running).config b).enabled = true →
        ((bundleIn .held running).run b).state = .idle) ∧
      running.proc.deferred = [] ∧ (tableFull running).proc.deferred ≠ [] := by
  unfold Takes Awaits
  decide +kernel

/-- A DRAIN of target 0 whose timer has run, and a FENCE behind it. -/
def drainDue : State :=
  (bundleIn .held running).updProc fun p =>
    { p with deferred := [⟨cmdOf cmd0 0x35, .drain 0 2000, .running 0⟩, ⟨cmdOf cmd0 0x40, .fence, .stopped⟩] }

theorem test_meets_DeferredWaitsEnd :
    drainDue.resetting = false ∧ drainDue.proc.deferred[(0 : Fin 4).val]? = some ⟨cmdOf cmd0 0x35, .drain 0 2000, .running 0⟩ := by
  decide +kernel

/-- One event that ends a DRAIN, then the first TARGET_DETACH, then the FENCE behind them. -/
theorem test_meets_DeferredWaitsEnd_sweep :
    let d : Deferred := ⟨cmdOf cmd0 0x31, .detach 0, .stopped⟩
    let before : List Deferred := [⟨cmdOf cmd0 0x35, .drain 5 0, .stopped⟩]
    running.drained 5 = true ∧ d.what = .detach 0 ∧ (∀ x ∈ before, ∀ k, x.what ≠ .detach k) ∧
      ((running.updProc fun p => { p with deferred := before ++ [d, ⟨cmdOf cmd0 0x40, .fence, .stopped⟩] }).sweepDeferredFor (some 0)
        2 []).proc.completions = [⟨cmdOf cmd0 0x35, .ok, 0⟩, ⟨d.cmd, .ok, 2⟩, ⟨cmdOf cmd0 0x40, .ok, 0⟩] := by decide +kernel

theorem test_drain_times_out :
    after (.drainTimerExpiry 0) drainDue (fun t =>
      t.proc.deferred = [] ∧
        t.proc.completions = [⟨cmdOf cmd0 0x35, .timedOut, 1⟩, ⟨cmdOf cmd0 0x40, .ok, 0⟩]) = true := by decide +kernel

/-- Target 0 with produced 104 and cached 88, its consumer word asked for. -/
def consumerAsked : State :=
  asked (.consumerRead 0) ((bundleIn .ready State.reset).updTarget 0 fun x => { x with produced := 104, consumed := 88 })

/-- The same while an assembly of three entries is in flight. -/
def consumerEarly : State :=
  consumerAsked.setAssembly (some (assembly0 .event [copy5 .written, copy5 .written, copy5 .written] .header))

theorem test_meets_ConsumerWordAndFault :
    Awaits consumerAsked 0 (.consumerRead 0) ∧ (consumerAsked.target 0).state = .active ∧
      ((104#32) - 88).toNat ≤ ((104#32) - 88).toNat ∧ ((104#32) - 88).toNat < ((108#32) - 88).toNat ∧
      ((108#32) - 104).toNat ≤ 1 + 3 ∧ ((104#32) - 88).toNat < ((87#32) - 88).toNat ∧ ¬ ((87#32) - 104).toNat ≤ 1 + 3 ∧
      (State.reset.target 0).state = .detached := by
  unfold Awaits
  decide +kernel

/-- The rearm check of a consumer-word answer: pending, with the ring empty and not empty after it (R122). -/
theorem test_meets_ConsumerWordAndFault_rearm :
    let s := consumerAsked.updTarget 0 fun x => { x with rearmCheckPending := true }
    (s.target 0).rearmCheckPending = true ∧ (s.target 0).produced = 104 ∧ (s.target 0).produced ≠ 92 ∧
      (consumerAsked.target 0).rearmCheckPending = false ∧ (s.consumedMoved 0 104).outstanding (.signal 0) = 0 ∧
      (s.consumedMoved 0 92).outstanding (.signal 0) = 1 := by decide +kernel

/-- A sweep trimmed by a full ring, step 4 (11), an early value, and a value behind the cached one (R116). -/
theorem test_consumer_words :
    after (.consumerWordReadAnswer 0 (.done 92)) consumerAsked (fun t =>
      (t.target 0).consumed = 92 ∧ (t.target 0).state = .active ∧ t.consumerReadInFlight 0 = false) = true ∧
    after (.consumerWordReadAnswer 0 (.done 108)) consumerEarly (fun t =>
      (t.target 0).consumed = 104 ∧ (t.target 0).state = .active) = true ∧
    after (.consumerWordReadAnswer 0 (.done 87)) consumerEarly (fun t =>
      (t.target 0).consumed = 88 ∧ (t.target 0).state = .faulted ∧ (t.target 0).faultReason = .badConsumer) = true := by decide +kernel

theorem test_meets_Signals :
    Awaits (asked (.signal 0) (bundleIn .held State.reset)) 0 (.signal 0) ∧
      ((((bundleIn .held State.reset).target 0).state = .active) ∧ ((bundleIn .held State.reset).target 0).armed = true ∧
        ((bundleIn .held State.reset).target 0).holdoffTimer = .stopped) ∧
      (((bundleIn .held State.reset).updTarget 0 fun x => { x with holdoffTimer := .running 0, signalOwed := true }).target
        0).holdoffTimer = .running 0 ∧ (State.reset.target 0).armed = false := by
  unfold Awaits
  decide +kernel

theorem test_meets_AttentionAndSpace :
    (((bundleIn .held State.reset).target 0).state = .active ∧ ((bundleIn .held State.reset).target 0).detachPending = false ∧
      (bundleIn .held State.reset).consumerReadInFlight 0 = false) ∧
      ((bundleIn .held State.reset).updTarget 0 fun x => { x with detachPending := true }).target 0 =
        { target0 with detachPending := true } ∧
      ((5#4).toNat = (5 : TargetId).val ∧ 6 ≤ (6#4).toNat ∧ (14#4).toNat ≤ 14) ∧
      ((ready State.reset).updTarget 0 fun x => { x with produced := 15 }).shortOfSpace 0 = true ∧
      ((ready State.reset).updTarget 0 fun x => { x with spaceWanted := true, pollTimer := .running 0 }).shortOfSpace 0 = false := by
  decide +kernel

/-! ### The command path -/

/-- A RUNNING processor with a command to take. -/
def canTake : State := { running with requests := [] }

/-- The same with every completion slot reserved. -/
def noSpace : State := canTake.updProc fun p => { p with cplProduced := 16 }

theorem test_meets_CommandTake :
    canTake.resetting = false ∧ canTake.proc.setup = some setup0 ∧
      (canTake.proc.state = .running ∧ canTake.proc.hand = none ∧ canTake.inFlight .commandRead = false ∧
        canTake.proc.producer ≠ canTake.proc.taken) ∧
      (0 + 0 < 16 - ((15#32) - 0).toNat ∧ ¬ 0 + 0 < 16 - ((16#32) - 0).toNat) ∧ Awaits running 0 .commandRead ∧
      (running.updProc fun p => { p with state := .stopped }).proc.state ≠ .running := by
  unfold Awaits
  decide +kernel

theorem test_meets_CommandTake_discard : slotReadOf (.badKind cmd0 0x36) = some cmd0 ∧ slotReadOf .cmdRestart = none := ⟨rfl, rfl⟩

theorem test_no_completion_space :
    after .commandTake noSpace (fun t =>
      t.proc.state = .waiting .completionSpace ∧ t.requests = [⟨1, .completionConsumerRead, 0x30000, .read 4, 2000⟩]) = true := by decide +kernel

/-- A completion at the front of the queue, its write outstanding, and one behind it. -/
def completing : State :=
  asked .completionWrite (running.updProc fun p =>
    { p with completions := [⟨cmdOf cmd0 0, .ok, 0⟩, ⟨cmdOf cmd0 3, .ok, 9⟩], cplProduced := 15 })

theorem test_meets_Completions :
    Awaits completing 0 .completionWrite ∧ completing.proc.setup = some setup0 ∧
      ((completing.endRequest 0).inFlight .completionSignal = false ∧ (completing.endRequest 0).inFlight .completionWrite = false) ∧
      Awaits (asked .completionSignal running) 0 .completionSignal ∧ (running.proc.completions = [] ∧
        running.inFlight .completionWrite = false) := by
  unfold Awaits
  decide +kernel

theorem test_completion_written :
    after (.completionWriteAnswer 0 .done) completing (fun t =>
      t.proc.cplProduced = 16 ∧ t.proc.completions = [⟨cmdOf cmd0 3, .ok, 9⟩] ∧
        (t.requests.map fun q => (q.issuer, q.address)) = [(.completionSignal, 0x30010), (.completionWrite, 0x20000)]) = true := by decide +kernel

/-- A processor that waits for completion space, its read outstanding. -/
def spaceAsked : State := asked .completionConsumerRead (noSpace.updProc fun p => { p with state := .waiting .completionSpace })

theorem test_meets_CompletionConsumerAnswer :
    Awaits spaceAsked 0 .completionConsumerRead ∧ ((16#32) - 0).toNat ≤ ((16#32) - 0).toNat ∧
      (((16#32) - 0).toNat < ((17#32) - 0).toNat ∧ (spaceAsked.endRequest 0).outstanding .completionWrite < ((17#32) - 16).toNat) ∧
      spaceAsked.proc.state = .waiting .completionSpace ∧
      (spaceAsked.updProc fun q => { q with cplConsumed := 1 }).canReserve = true ∧
      (spaceAsked.updProc fun q => { q with cplConsumed := 0 }).canReserve = false := by
  unfold Awaits
  decide +kernel

theorem test_meets_SetupAndHalt :
    Awaits (asked .setupRead State.reset) 0 .setupRead ∧ setupValid setup0 = true ∧
      setupValid { setup0 with cmdSize := 8192 } = false ∧ ((16#32) - 0).toNat ≤ setup0.cmdSize.toNat ∧
      setup0.cmdSize.toNat < ((17#32) - 0).toNat ∧ (∀ why, State.reset.proc.state ≠ .halted why) := by
  refine ⟨?_, by decide, by decide, by decide, by decide, ?_⟩
  · unfold Awaits
    decide +kernel
  · rintro ⟨⟩ <;> decide +kernel

theorem test_meets_SetupAndHalt_halted :
    Awaits (asked .setupRead (State.reset.halt .cmdRead)) 0 .setupRead ∧
      (asked .setupRead (State.reset.halt .cmdRead)).proc.state = .halted .cmdRead := by
  unfold Awaits
  decide +kernel

theorem test_meets_EnableAndRestart :
    State.reset.resetting = false ∧ State.reset.enable = false ∧ State.reset.proc.state = .stopped ∧
      (State.reset.proc.setup = none ∧ State.reset.inFlight .setupRead = false ∧ State.reset.proc.restarting = false) ∧
      ((canTake.updProc fun p => { p with state := .stopped }).proc.setup.isSome = true) ∧
      (asked .setupRead State.reset).inFlight .setupRead = true ∧
      (running.enable = true ∧ running.proc.state = .running ∧ running.proc.hand = none) ∧
      spaceAsked.proc.state = .waiting .completionSpace ∧
      (inHand (.reply (cmdOf cmd0 0x11) 0) running).proc.hand ≠ none ∧
      (State.reset.updProc fun p => { p with restarting := true }).proc.restarting = true ∧
      (∃ q ∈ running.requests, q.issuer.commandPath = true) ∧ ∀ q ∈ State.reset.requests, q.issuer.commandPath = false := by
  decide +kernel

theorem test_meets_EnableAndRestart_drain_and_cancel :
    (running.updProc fun p => { p with restarting := true }).proc.restarting = true ∧
      (running.updProc fun p => { p with restarting := true }).requestOf 0 = some (request 0 .commandRead) ∧
      Issuer.commandRead.commandPath = true ∧
      ({ inHand (.reply (cmdOf cmd0 0x11) 0) running with enable := false }).proc.state = .running := by decide +kernel

theorem test_meets_ProducerAndRefresh :
    canTake.resetting = false ∧ State.reset.proc.setup = none ∧ canTake.proc.setup = some setup0 ∧
      setup0.cmdSize.toNat < ((17#32) - canTake.proc.taken).toNat ∧ ((16#32) - canTake.proc.taken).toNat ≤ setup0.cmdSize.toNat ∧
      canTake.proc.state ≠ .waiting .completionSpace ∧ spaceAsked.proc.state = .waiting .completionSpace ∧
      spaceAsked.proc.producer = 1 ∧ spaceAsked.proc.taken = 0 ∧ producerOk setup0 1 0 = true ∧ producerOk setup0 2 0 = true := by
  decide +kernel

theorem test_meets_ProducerAndRefresh_taken :
    spaceAsked.proc.state = .waiting .completionSpace ∧ (0#32) ≠ spaceAsked.proc.producer ∧ 0#32 = spaceAsked.proc.taken := by
  decide +kernel

theorem test_meets_Abort :
    Takes drainDue ⟨0, 9, false⟩ ∧ (∀ d ∈ drainDue.proc.deferred, d.cmd.tag ≠ 6) ∧
      drainDue.proc.deferred = [] ++ ⟨cmdOf cmd0 0x35, .drain 0 2000, .running 0⟩ :: [⟨cmdOf cmd0 0x40, .fence, .stopped⟩] := by
  unfold Takes Awaits
  decide +kernel

theorem test_abort_releases_the_fence :
    after (.abort ⟨0, 9, false⟩ 5) drainDue (fun t =>
      t.proc.deferred = [] ∧ t.proc.completions =
        [⟨cmdOf cmd0 0x35, .aborted, 0⟩, ⟨cmdOf cmd0 0x40, .ok, 0⟩, ⟨⟨0x41, 9, false⟩, .ok, 0x35⟩]) = true := by decide +kernel

/-- A pending detach of target 0 and a FENCE behind it. -/
def detachPending : State :=
  (signalling.updTarget 0 fun x => { x with detachPending := true }).updProc fun p =>
    { p with deferred := [⟨⟨0x31, 6, false⟩, .detach 0, .stopped⟩, ⟨cmdOf cmd0 0x40, .fence, .stopped⟩] }

theorem test_meets_Abort_of_a_detach :
    Takes detachPending cmd0 ∧ (detachPending.target 0).detachPending = true ∧
      (∀ x ∈ [(⟨cmdOf cmd0 0x40, .fence, .stopped⟩ : Deferred)], x.what ≠ .detach 0) := by
  unfold Takes Awaits
  decide +kernel

theorem test_abort_ends_a_pending_detach :
    after (.abort cmd0 6) detachPending (fun t =>
      (t.target 0).detachPending = false ∧ (t.target 0).state = .active ∧ t.proc.deferred = [] ∧ t.proc.completions =
        [⟨⟨0x31, 6, false⟩, .aborted, 0⟩, ⟨cmdOf cmd0 0x40, .ok, 0⟩, ⟨⟨0x41, 5, true⟩, .ok, 0x31⟩]) = true := by decide +kernel

/-! ### The host link -/

theorem test_meets_ClearCounts :
    State.reset.resetting = false ∧ (∀ b : BundleId, (0#8).toNat = b.val →
      (State.reset.run b).state ≠ .held ∨ (0#16) ≠ (State.reset.run b).token) ∧
      ({ State.reset with resetting := true }).resetting = true ∧ (0x8#32).getLsbD 1 = false := by decide +kernel

theorem test_meets_RegisterWindow :
    (16 ≠ 32) ∧ (0x08 ∉ [0x04, 0x0C, 0x10, 0x14, 0x18, 0x1C]) ∧ (0x2#32).getLsbD 1 = true ∧
      ((0x5#32).getLsbD 1 = false ∧ (0x5#32).getLsbD 2 = true ∧ (0x5#32).getLsbD 3 = false) ∧ (0x9#32).getLsbD 3 = true ∧
      ((0x30F#32).getLsbD 10 = false ∧ (0x30F#32).getLsbD 9 = true) ∧ (0x400#32).getLsbD 10 = true ∧
      ((0x6FF#32).getLsbD 10 = true ∧ (0x6FF#32).getLsbD 9 = true) ∧
      ((0x50F#32).getLsbD 10 = true ∧ (0x50F#32).getLsbD 9 = false ∧ (0x50F#32).getLsbD 8 = true) ∧ State.reset.staleCount ≤ 255 := by
  decide +kernel

theorem test_meets_Resets :
    ({ State.reset with resetting := true }).resetting = true ∧ State.reset.requests = [] ∧ running.requests ≠ [] ∧
      running.requestOf 0 = some (request 0 .commandRead) ∧ ({ request 0 .commandRead with timeout := 0 }).timeout = 0 := by
  decide +kernel

theorem test_meets_RequestTimeouts :
    (asked (.signal 0) State.reset).requestOf 0 = some (request 0 (.signal 0)) ∧ (request 0 (.signal 0)).timeout ≠ 0 ∧
      ({ State.reset with requests := [⟨3, .setupRead, 0, .read 48, 0⟩] }).requestOf 3 = some ⟨3, .setupRead, 0, .read 48, 0⟩ ∧
      State.reset.requestOf 0 = none := by decide +kernel

theorem test_meets_RequestTimeouts_late : slotReadOf (.nop cmd0) = some cmd0 ∧ cmd0.req = 0 ∧ State.reset.requestOf cmd0.req = none := by
  decide +kernel

theorem test_setup_read_times_out :
    after (.hostRequestTimeout 3) { State.reset with requests := [⟨3, .setupRead, 0, .read 48, 0⟩] } (fun t =>
      t.proc.state = .halted .setupRead ∧ t.requests = []) = true := by decide +kernel

/-- Power-on begins the reset with RESETTING yes and the timebase at 0, and its end follows by itself (R163). -/
theorem test_power_on :
    after .powerOn ((held running).setTimebase 9) (fun t =>
      t.resetting = true ∧ t.statusWord = 0x80000000 ∧ t.timebase = 0 ∧ t.requests = [] ∧ t.ownWork = [.resetEnd] ∧
        after .resetEnd t (fun u => u.resetting = false ∧ u.timebase = 0 ∧ u.proc = .reset ∧ (u.run 0).state = .off)) = true := by decide +kernel

theorem test_reset_ends :
    after .resetEnd { (held State.reset).setLine 5 ⟨.high, .low, .qualifying 3⟩ with resetting := true } (fun t =>
      t.resetting = false ∧ t.line 5 = ⟨.high, .high, .stable⟩ ∧ (t.run 0).state = .off ∧ (t.target 0).state = .detached) = true := by decide +kernel

/-! ### The command slot -/

theorem test_meets_SlotRoundTrip :
    Instr.wellFormed (.badKind cmd0 0x36) = true ∧ encodeSlot (.badKind cmd0 0x36) = some (0, slotBytes 0x36 cmd0 []) := by
  decide +kernel

/-- An ACK slot written out from the command slot table of 10: kind 0x23, SIGNAL, tag 5, bundle 47, token 0x1234. -/
theorem test_ack_slot :
    decodeSlot 0 ([0x23, 0x01, 0x05, 0x00, 0x2F, 0x00, 0x34, 0x12] ++ List.replicate 24 0) = some (.ack cmd0 47 0x1234) := by
  decide +kernel

/-- A TARGET_ATTACH slot: poll 0, holdoff 200, descriptor 0x20045, offset -4, signal data 7, signal address 0x200. -/
theorem test_attach_slot :
    decodeSlot 0 ([0x30, 0x01, 0x05, 0x00, 0x00, 0x00, 0xC8, 0x00, 0x45, 0x00, 0x02, 0x00, 0x00, 0x00, 0x00, 0x00,
      0xFC, 0xFF, 0xFF, 0xFF, 0x07, 0x00, 0x00, 0x00, 0x00, 0x02, 0x00, 0x00, 0x00, 0x00, 0x00, 0x00]) =
      some (.targetAttach cmd0 0 200 0x20045 0xFFFFFFFC 7 0x200) := by decide +kernel

/-! ### The ends of waits -/

/-- A command that waits for an entry of the deferred table. -/
def waitsForEntry (what : DeferKind) : State :=
  (bundleIn .held running).updProc fun p =>
    { p with state := .waiting .tableEntry, hand := some (.tableEntry (cmdOf cmd0 0x31) what) }

theorem test_meets_WaitsEnd :
    (((bundleIn .held running).updTarget 0 fun x => { x with detachPending := true }).targetBusy 0 = false) ∧
      ((waitsForEntry .fence).proc.hand = some (.tableEntry (cmdOf cmd0 0x31) .fence) ∧
        (waitsForEntry .fence).proc.deferred.length < 4 ∧ (waitsForEntry .fence).proc.deferred = []) ∧
      ((waitsForEntry (.drain 0 1)).drained 0 = false ∧ (waitsForEntry (.drain 5 1)).drained 5 = true) ∧
      (((waitsForEntry (.detach 5)).target 5).state = .detached ∧ ((waitsForEntry (.detach 0)).target 0).state ≠ .detached ∧
        (waitsForEntry (.detach 0)).targetBusy 0 = false) ∧
      (∃ why, ((waitsForEntry .fence).halt .cplWrite).proc.state = .halted why) ∧ 4 ≤ (tableFull running).proc.deferred.length := by
  refine ⟨by decide +kernel, by decide +kernel, by decide +kernel, by decide +kernel, ⟨.cplWrite, by decide +kernel⟩, by decide +kernel⟩

/-- A BUNDLE_SET that waits for the end of an assembly: applied after it where the bundle settled on READY or IDLE. -/
theorem test_meets_WaitsEnd_of_an_assembly :
    (inHand (.assembly (cmdOf cmd0 0x20) 0 bundleOn) (bundleIn .ready running)).proc.hand = some (.assembly (cmdOf cmd0 0x20) 0 bundleOn) ∧
      ((bundleIn .ready running).run 0).state = .ready ∧ ((bundleIn .held running).run 0).state ≠ .assembling ∧
      ¬ (bundleOn.enabled = true ∧ { bundleOn with target := some 1 }.target = ((bundleIn .held running).config 0).target) := by
  decide +kernel

/-- A waiting BUNDLE_SET completes after the deferred command that the same commit ends (R67, R145). -/
theorem test_waiting_bundle_set_completes_last :
    after (.commit 0) (inHand (.assembly (cmdOf cmd0 0x20) 0 { bundleOn with target := some 1 }) detachBeforeDrain) (fun t =>
      (t.config 0).target = some 1 ∧ t.proc.hand = none ∧ (t.proc.completions.map fun c => c.cmd.kind) = [0x31, 0x35, 0x40, 0x20]) =
      true := by decide +kernel

end Sys2Proof.Tests
end

/-! The statements on field lines, TIME_SET and TIME_READ (R7 to R9, R19, R20). -/
namespace Sys2Proof.Machine

open State

/-! ### Levels -/

theorem Level.other_ne (x : Level) : x.other ≠ x := by cases x <;> decide

/-- There are two levels: the change of one that differs from another brings it to that other. -/
theorem Level.other_eq_of_ne : ∀ {x y : Level}, x ≠ y → x.other = y
  | .low, .high, _ | .high, .low, _ => rfl
  | .low, .low, h | .high, .high, h => absurd rfl h

/-! ### Lines -/

/-- Of two writes of one line the later one stands. -/
theorem State.setLine_setLine (s : State) (l : LineId) (x y : Line) : (s.setLine l x).setLine l y = s.setLine l y := by
  simp [setLine]

/-- A line after a change of its sampled level, before the change is judged (R6). -/
def State.resampled (s : State) (l : LineId) : State := s.setLine l { s.line l with sampled := (s.line l).sampled.other }

theorem State.resampled_line (s : State) (l : LineId) :
    (s.resampled l).line l = { s.line l with sampled := (s.line l).sampled.other } := setLine_line_self s l _

theorem State.resampled_qualification (s : State) (l : LineId) :
    ((s.resampled l).line l).qualification = (s.line l).qualification := by rw [resampled_line]

/-- A change of a sampled level that stood at the qualified level takes it away from there. -/
theorem State.resampled_leaves {s : State} {l : LineId} (h : (s.line l).sampled = (s.line l).qualified) :
    ((s.resampled l).line l).sampled ≠ ((s.resampled l).line l).qualified := by
  rw [resampled_line]
  exact h ▸ Level.other_ne _

theorem State.resampled_route (s : State) (l : LineId) (n : SourceId) : (s.resampled l).route n = s.route n := rfl

theorem State.resampled_setLine (s : State) (l : LineId) (x : Line) : (s.resampled l).setLine l x = s.setLine l x :=
  setLine_setLine s l _ x

/-- Outside a device reset a change of the sampled level is judged on the new level (R6, R7, R9). -/
theorem exec_sampledLevelChange_live {s : State} (l : LineId) (h : s.resetting = false) :
    exec (.sampledLevelChange l) s = .next ((s.resampled l).lineMoved l) :=
  congrArg Host.Outcome.next (live_eq (f := lineMoved l) (s := s.resampled l) h)

/-- A STABLE line whose sampled level has left the qualified level starts to qualify, where there is a filter (R7). -/
theorem lineMoved_filtered {s : State} {l : LineId} (hq : (s.line l).qualification = .stable)
    (hne : (s.line l).sampled ≠ (s.line l).qualified) (hf : (s.route (sourceOfLine l)).filter ≠ 0) :
    s.lineMoved l = s.setLine l { s.line l with qualification := .qualifying (s.route (sourceOfLine l)).filter.toNat } := by
  simp only [lineMoved, hq]
  rw [if_neg hne, if_neg hf]

/-- A STABLE line whose sampled level has left the qualified level takes it at once, where the filter is 0 (R7). -/
theorem lineMoved_unfiltered {s : State} {l : LineId} (hq : (s.line l).qualification = .stable)
    (hne : (s.line l).sampled ≠ (s.line l).qualified) (hf : (s.route (sourceOfLine l)).filter = 0) :
    s.lineMoved l = s.qualify l := by
  simp only [lineMoved, hq]
  rw [if_neg hne, if_pos hf]

/-- A change of level on a QUALIFYING line abandons the qualification; source 214 meets an occurrence where the line's entry is
enabled (R9). -/
theorem lineMoved_abandoned {s : State} {l : LineId} {k : Nat} (hq : (s.line l).qualification = .qualifying k) :
    s.lineMoved l =
      if (s.route (sourceOfLine l)).enabled then
        (s.setLine l { s.line l with qualification := .stable }).accept Config.lineChatter (sourceDetail l.val)
      else s.setLine l { s.line l with qualification := .stable } := by
  simp only [lineMoved, hq]

/-- Settles O5: each clause is one branch of `lineMoved`, met on the line with its new sampled level. -/
theorem sampledLevelChange : Obligations.SampledLevelChange := by
  intro s l hr
  rw [exec_sampledLevelChange_live l hr]
  have hsame := resampled_qualification s l
  refine ⟨fun hq hs hf => ?starts, fun hq hs hf => ?atOnce, fun ⟨k, hq⟩ hs => ?abandons⟩
  case starts =>
    rw [lineMoved_filtered (s := s.resampled l) (hsame.trans hq) (resampled_leaves hs) hf, resampled_setLine, resampled_line,
      resampled_route]
  case atOnce =>
    rw [lineMoved_unfiltered (s := s.resampled l) (hsame.trans hq) (resampled_leaves hs) hf]
    simp only [qualify, resampled_setLine, resampled_line, resampled_route]
  case abandons =>
    have hback : (s.line l).sampled.other = (s.line l).qualified := Level.other_eq_of_ne hs
    rw [lineMoved_abandoned (hsame.trans hq), resampled_setLine, resampled_line, resampled_route, hback]
    rfl

/-- Settles O6: an expiry that has come due qualifies the line (R8). -/
theorem qualificationExpiry : Obligations.QualificationExpiry := by
  intro s l hr hq
  have hexec : exec (.qualificationExpiry l) s = .next (live (qualificationExpires l) s) := rfl
  have hdue : s.qualificationExpires l = s.qualify l := if_pos hq
  rw [hexec, live_eq hr, hdue]
  rfl

/-! ### Interval counters that an occurrence leaves alone -/

/-- An arrival restarts the interval counter of its own source only (R14). -/
theorem arrive_interval_ne (s : State) {n m : SourceId} (d : Option Half) (h : m ≠ n) :
    (s.arrive n d).interval m = s.interval m := by
  unfold arrive
  dsimp only
  split
  · simp [setInterval_interval_ne _ _ h]
  · split <;> simp [setInterval_interval_ne _ _ h]

theorem acceptOne_interval_ne (s : State) {n m : SourceId} (d : Option Half) (h : m ≠ n) :
    (s.acceptOne n d).interval m = s.interval m := by
  unfold acceptOne
  split
  · exact arrive_interval_ne s d h
  · rfl

/-- An occurrence restarts the interval counter of its own source at most, and that of source 209 where its event is lost
(R14, R41). -/
theorem accept_interval_ne (s : State) {n m : SourceId} (d : Option Half) (h : m ≠ n) (h' : m ≠ Config.eventsLost) :
    (s.accept n d).interval m = s.interval m := by
  unfold accept
  split
  · rw [acceptOne_interval_ne _ _ h', acceptOne_interval_ne s d h]
  · exact acceptOne_interval_ne s d h

/-! ### TIME_SET and TIME_READ -/

theorem exec_timeSet_taken {s : State} {r : SlotRead} (v : BitVec 64) (h : Takes s r) :
    exec (.timeSet r v) s = .next ((s.taken r).timeSetCommand (cmdOf r 0x02) v) := congrArg Host.Outcome.next (command_taken h)

theorem exec_timeRead_taken {s : State} {r : SlotRead} (h : Takes s r) :
    exec (.timeRead r) s = .next ((s.taken r).pushCompletion ⟨cmdOf r 0x03, .ok, s.timebase.setWidth 64⟩) := by
  have htaken : exec (.timeRead r) s = .next ((s.taken r).complete (cmdOf r 0x03) .ok ((s.taken r).timebase.setWidth 64)) :=
    congrArg Host.Outcome.next (command_taken h)
  have htime : (s.taken r).timebase = s.timebase := by simp
  rw [htaken, complete_ok, htime]

theorem timeSetCommand_rejected (s : State) (c : CmdId) {v : BitVec 64} (h : Config.timebaseMax < v.toNat) :
    s.timeSetCommand c v = s.complete c .badArgument 0 := if_pos h

theorem timeSetCommand_loads (s : State) (c : CmdId) {v : BitVec 64} (h : v.toNat ≤ Config.timebaseMax) :
    s.timeSetCommand c v =
      ((s.setTimebase (v.setWidth 48)).accept Config.timebaseSet (some (v.setWidth 16))).complete c .ok (s.timebase.setWidth 64) :=
  if_neg (Nat.not_lt.mpr h)

/-- A value that TIME_SET takes fits the timebase (R16, R19). -/
theorem toNat_timebase {v : BitVec 64} (h : v.toNat ≤ Config.timebaseMax) : (v.setWidth 48 : Time).toNat = v.toNat := by
  simp only [Config.timebaseMax] at h
  rw [BitVec.toNat_setWidth]
  omega

/-- Settles O15: the two branches of `timeSetCommand`, and the one completion of TIME_READ. -/
theorem timeSetAndRead : Obligations.TimeSetAndRead := by
  refine ⟨fun s r v h => ⟨fun hv => ?rejected, fun hv => ?loads⟩, fun s r h => ?reads⟩
  case rejected =>
    refine ⟨?_, by simp⟩
    rw [exec_timeSet_taken v h, timeSetCommand_rejected _ _ hv]
  case loads =>
    have htime : (s.taken r).timebase = s.timebase := by simp
    refine ⟨?_, ?_, fun n hn hlost => ?_, ?_⟩
    · rw [exec_timeSet_taken v h, timeSetCommand_loads _ _ hv, htime]
      rfl
    · simpa using toNat_timebase hv
    · simp only [complete_ok, pushCompletion_frame]
      rw [accept_interval_ne _ _ hn hlost]
      simp
    · rw [Completes, complete_proc]
      simp [taken_proc]
  case reads =>
    exact ⟨_, exec_timeRead_taken h, by rw [Completes, pushCompletion_proc, taken_proc], only_push s r _, issues_push s r _⟩

end Sys2Proof.Machine

/-! The statements on arrivals and TALLY_RESET (R39, R40, R49). -/
namespace Sys2Proof.Machine

open State

/-! ### TALLY_RESET -/

/-- The sources that the source field of TALLY_RESET names; 0xFFFF is ALL (R49). -/
def tallySources (source : Half) : List SourceId :=
  if source = 0xFFFF#16 then allSources else (sourceArg source).toList

theorem mem_tallySources (source : Half) (n : SourceId) :
    n ∈ tallySources source ↔ source = 0xFFFF#16 ∨ source.toNat = n.val := by
  unfold tallySources
  split
  case isTrue hall => simp [allSources, hall]
  case isFalse hone =>
    have hlt : source.toNat = n.val → source.toNat < 216 := fun h => h ▸ n.isLt
    simpa [hone, sourceArg, Fin.ext_iff] using hlt

theorem sourceArg_eq_none {source : Half} (h : 215 < source.toNat) : sourceArg source = none :=
  dif_neg (Nat.not_lt.mpr h)

theorem exec_tallyReset_taken {s : State} {r : SlotRead} (source : Half) (h : Takes s r) :
    exec (.tallyReset r source) s = .next ((s.taken r).tallyResetCommand (cmdOf r 0x13) source) :=
  congrArg Host.Outcome.next (command_taken h)

theorem tallyResetCommand_rejected (s : State) (c : CmdId) {source : Half} (h : 215 < source.toNat)
    (hall : source ≠ 0xFFFF#16) : s.tallyResetCommand c source = s.complete c .badArgument 0 := by
  simp only [tallyResetCommand, if_neg hall, sourceArg_eq_none h]

/-- One source or all: the accounts of each source that the field names restart, one after the other (R49). -/
theorem tallyResetCommand_restarts (s : State) (c : CmdId) {source : Half}
    (h : source = 0xFFFF#16 ∨ source.toNat ≤ 215) :
    s.tallyResetCommand c source = ((tallySources source).foldl resetTally s).complete c .ok 0 := by
  unfold tallyResetCommand tallySources
  by_cases hall : source = 0xFFFF#16
  case pos => simp only [if_pos hall]
  case neg =>
    have hone : sourceArg source = some ⟨source.toNat, Nat.lt_succ_of_le (h.resolve_left hall)⟩ := dif_pos _
    simp only [if_neg hall, hone, Option.toList_some, List.foldl_cons, List.foldl_nil]

/-- A completion reaches no copy in flight. -/
theorem pushCompletion_copies (s : State) (c : Completion) : (s.pushCompletion c).copies = s.copies :=
  copies_eq_of_assembly (by simp)

/-- Settles O18: both forms of the command restart the sources of a list, whose accounts `foldl_resetTally_accounts` gives. -/
theorem tallyReset : Obligations.TallyReset := by
  intro s r source h
  refine ⟨fun hbig hall => ?rejected, fun hok => ?restarts⟩
  case rejected => rw [exec_tallyReset_taken source h, tallyResetCommand_rejected _ _ hbig hall]
  case restarts =>
    obtain ⟨htally, hcopies⟩ := foldl_resetTally_accounts (tallySources source) (s.taken r)
    simp only [mem_tallySources, taken_kept, taken_views] at htally hcopies
    rw [exec_tallyReset_taken source h, tallyResetCommand_restarts _ _ hok, complete_ok]
    refine ⟨_, rfl, fun n hn => ⟨?_, ?_⟩, fun n hn => ?_, ?_, by simp, by simp, by simp [fieldSide], by simp [bundles], ?_⟩
    · simp only [pushCompletion_frame, htally, if_pos hn]
    · simp only [lossFlag, pushCompletion_frame, htally, if_pos hn, bne_self_eq_false]
    · simp only [pushCompletion_frame, htally, if_neg hn]
    · rw [pushCompletion_copies, hcopies]
    · simp only [Completes, pushCompletion_proc, foldl_resetTally_kept, taken_proc]

/-! ### An arrival that is not lost -/

/-- `s` after an arrival for source `n` that leaves it the record `r`: the interval counter has restarted, and the event is counted
as accepted (R39, R40). -/
def State.counted (s : State) (n : SourceId) (r : PendingRecord) : State :=
  ((s.setInterval n 0).updTally n fun y => { y with accepted := y.accepted + 1 }).setRecord n (some r)

theorem counted_self (s : State) (n : SourceId) (r : PendingRecord) :
    (s.counted n r).record n = some r ∧ (s.counted n r).interval n = 0 ∧
      (s.counted n r).tally n = { s.tally n with accepted := (s.tally n).accepted + 1 } := by
  simp [counted]

/-- The other sources keep their record, tallies and interval counter. -/
theorem counted_ne (s : State) {n m : SourceId} (r : PendingRecord) (h : m ≠ n) :
    (s.counted n r).record m = s.record m ∧ (s.counted n r).tally m = s.tally m ∧
      (s.counted n r).interval m = s.interval m := by
  simp [counted, setRecord_record_ne _ _ h, updTally_tally_ne _ _ h, setInterval_interval_ne _ _ h]

theorem saturated_of_none {s : State} {n : SourceId} (h : s.record n = none) : s.saturated n = false := by
  simp only [saturated, h]

theorem saturated_of_below {s : State} {n : SourceId} {r : PendingRecord} (h : s.record n = some r)
    (hr : r.count < Config.countLimit) : s.saturated n = false := by
  simp only [saturated, h, decide_eq_false (Nat.not_le.mpr hr)]

/-- Where nothing is lost, an occurrence for an enabled source is one arrival (R2). -/
theorem accept_arrives {s : State} {n : SourceId} (d : Option Half) (he : (s.route n).enabled = true)
    (hs : s.saturated n = false) : s.accept n d = s.arrive n d := by
  simp [accept, acceptOne, he, hs]

/-- An arrival for a source without a record creates one, and the list it joins may wake its bundle (R39, R55). -/
theorem accept_creates {s : State} {n : SourceId} (d : Option Half) (he : (s.route n).enabled = true)
    (h : s.record n = none) :
    s.accept n d =
      (s.counted n ⟨1, s.timebase, s.timebase, s.interval n, d⟩).listGained (s.route n).bundle := by
  rw [accept_arrives d he (saturated_of_none h)]
  simp only [arrive, h, counted]

/-- An arrival at a record below the greatest count grows it and does nothing else but count the event (R40). -/
theorem accept_grows {s : State} {n : SourceId} {r : PendingRecord} (d : Option Half)
    (he : (s.route n).enabled = true) (h : s.record n = some r) (hr : r.count < Config.countLimit) :
    s.accept n d = s.counted n { r with count := r.count + 1, lastTime := s.timebase, detail := d } := by
  rw [accept_arrives d he (saturated_of_below h hr)]
  simp only [arrive, h, if_pos hr, counted]

/-! ### Places of records -/

/-- A record is unrouted exactly when its source's route entry names no bundle (R37). -/
theorem mem_unroutedSet (s : State) (n : SourceId) :
    n ∈ s.unroutedSet ↔ (s.record n).isSome = true ∧ (s.route n).bundle = none := by
  simp [unroutedSet, mem_recorded]

/-- A record that changes but keeps its first time stays where it is, and so do all the others (R38). -/
theorem pendingList_counted {s : State} {n : SourceId} {r r' : PendingRecord} (h : s.record n = some r)
    (ht : r'.firstTime = r.firstTime) (b : BundleId) : (s.counted n r').pendingList b = s.pendingList b := by
  have hother : ∀ m, m ≠ n → (s.counted n r').record m = s.record m := fun m hm => (counted_ne s r' hm).1
  have hself : (s.counted n r').record n = some r' := (counted_self s n r').1
  have hroute : ∀ m, (s.counted n r').route m = s.route m := fun m => by simp [counted]
  refine pendingList_congr (fun m => ?recorded) (fun m x y hx hy => ?first) hroute b
  case recorded =>
    by_cases hm : m = n
    · rw [hm, hself, h, Option.isSome_some, Option.isSome_some]
    · rw [hother m hm]
  case first =>
    by_cases hm : m = n
    · subst hm
      obtain rfl : r = x := Option.some.inj (h.symm.trans hx)
      obtain rfl : r' = y := Option.some.inj (hself.symm.trans hy)
      exact ht.symm
    · obtain rfl : x = y := Option.some.inj (hx.symm.trans ((hother m hm).symm.trans hy))
      rfl

/-- Settles O10: the created record by `accept_creates`; its place is read off its route entry. -/
theorem arrivalCreates : Obligations.ArrivalCreates := by
  intro s n d he h
  have heq := accept_creates d he h
  obtain ⟨hrecord, hinterval, htally⟩ := counted_self s n ⟨1, s.timebase, s.timebase, s.interval n, d⟩
  have hrecord' : (s.accept n d).record n = some ⟨1, s.timebase, s.timebase, s.interval n, d⟩ := by
    simpa [heq] using hrecord
  have htally' : (s.accept n d).tally n = { s.tally n with accepted := (s.tally n).accepted + 1 } := by
    simpa [heq] using htally
  refine ⟨hrecord', by simpa [heq] using hinterval, htally', by rw [lossFlag, htally'], fun b => ?place, ?unrouted,
    fun m hm => ?others, by simp [fieldSide], by simp [assembler], .accept s n d, by simp⟩
  case place => simp [mem_pendingList, hrecord']
  case unrouted => simp [mem_unroutedSet, hrecord']
  case others => simpa [heq] using counted_ne s ⟨1, s.timebase, s.timebase, s.interval n, d⟩ hm

/-- Settles O11: below the greatest count an arrival is `counted` alone, which keeps the first time. -/
theorem arrivalGrows : Obligations.ArrivalGrows := by
  intro s n d r he h _ hcount
  have hlimit : r.count < Config.countLimit := Nat.lt_succ_of_le hcount
  rw [accept_grows d he h hlimit]
  obtain ⟨hrecord, hinterval, htally⟩ := counted_self s n { r with count := r.count + 1, lastTime := s.timebase, detail := d }
  exact ⟨hrecord, hinterval, htally, pendingList_counted h rfl, fun m hm => counted_ne s _ hm, rfl, rfl, rfl, rfl, rfl, rfl⟩

end Sys2Proof.Machine

/-! The statement on the start of a REMINDER assembly (R80). -/
namespace Sys2Proof.Machine

open State

/-- Only a choice in the non-urgent class moves the round-robin position (R76). -/
theorem takeTurn_roundRobin (s : State) (b : BundleId) :
    (s.takeTurn b).roundRobin = if (s.config b).urgent then s.roundRobin else b := by
  unfold takeTurn
  split
  · rfl
  · exact setTurn_roundRobin s b

/-! ### The start step of a REMINDER assembly -/

/-- The assembly record that R80 gives: no entry, the hold's own token, and the number of the reminder to come. -/
theorem startReminder_assembly (s : State) (b : BundleId) (t : TargetId) :
    (s.startReminder b t).assembly = some
      { kind := .reminder, bundle := b, target := t, base := (s.target t).produced, copies := []
        token := (s.run b).token, reminderNumber := (s.run b).remindersPosted + 1, flagUrgent := (s.config b).urgent
        flagMore := decide (s.pendingList b ≠ []), flagPartial := false, captured := captured (s.config b)
        position := .header } := by
  simp only [startReminder, updRun_assembly, setAssembly_assembly]

/-- The bundle stays HELD, with its held set and its timer: it loses its reminder due and nothing else (R80). -/
theorem startReminder_run_self (s : State) (b : BundleId) (t : TargetId) :
    (s.startReminder b t).run b = { s.run b with reminderDue := false } := by
  simp only [startReminder, updRun_run_self, setAssembly_run, takeTurn_frame]

theorem startReminder_run_ne (s : State) {b k : BundleId} (t : TargetId) (h : k ≠ b) :
    (s.startReminder b t).run k = s.run k := by
  simp only [startReminder, updRun_run_ne _ _ h, setAssembly_run, takeTurn_frame]

theorem startReminder_roundRobin (s : State) (b : BundleId) (t : TargetId) :
    (s.startReminder b t).roundRobin = if (s.config b).urgent then s.roundRobin else b := by
  simp only [startReminder, updRun_roundRobin, setAssembly_roundRobin, takeTurn_roundRobin]

/-- A chosen HELD bundle starts its REMINDER assembly (R75, R80). -/
theorem reminderStart_chosen {s : State} {b : BundleId} {t : TargetId} (hc : s.chosen = some b)
    (ht : (s.config b).target = some t) (hs : (s.run b).state = .held) : s.reminderStart = s.startReminder b t := by
  simp only [reminderStart, hc, ht, if_pos hs]

theorem exec_reminderAssemblyStart_live {s : State} (h : s.resetting = false) :
    exec .reminderAssemblyStart s = .next s.reminderStart :=
  congrArg Host.Outcome.next (live_eq h)

/-- Settles O33: outside a device reset the row is `startReminder` of the chosen bundle, whose parts are read off one by one. -/
theorem reminderAssemblyStart : Obligations.ReminderAssemblyStart := by
  intro s b t hr hc ht hs
  have hexec : exec .reminderAssemblyStart s = .next (s.startReminder b t) := by
    rw [exec_reminderAssemblyStart_live hr, reminderStart_chosen hc ht hs]
  refine ⟨_, _, hexec, startReminder_assembly s b t, rfl, rfl, rfl, rfl, rfl, rfl, rfl, rfl, decide_eq_true_iff, rfl, rfl, rfl,
    startReminder_run_self s b t, fun k hk => startReminder_run_ne s t hk, ?accounts, startReminder_roundRobin s b t, ?config,
    ?fieldSide, ?targets, ?proc, ?requests⟩
  case accounts => simp [accounts]
  case fieldSide => simp [fieldSide]
  case config | targets | proc | requests => simp

end Sys2Proof.Machine

/-! The statement on CLEAR_COUNTS (R156). -/
namespace Sys2Proof.Machine

open State

/-! ### The stale count -/

theorem countStale_staleCount (s : State) : s.countStale.staleCount = min (s.staleCount + 1) Config.staleLimit :=
  setStale_staleCount s _

theorem bundleArg_eq_some {x : Byte} {b : BundleId} (h : bundleArg x = some b) : x.toNat = b.val := by
  obtain ⟨_, hb⟩ := Option.dite_none_right_eq_some.mp h
  exact congrArg Fin.val (Option.some.inj hb)

/-- An ACK_PORT write whose number names no bundle touches nothing but the stale count (R96, R97). -/
theorem ackPortWrite_invalid {s : State} {bundle : Byte} (token : Half) (h : bundleArg bundle = none) :
    s.ackPortWrite bundle token = s.countStale := by
  simp only [ackPortWrite, h]

/-- A stale ACK_PORT write is an occurrence for source 212 and grows the stale count (R97, R99). -/
theorem ackPortWrite_stale {s : State} {bundle : Byte} {token : Half} {b : BundleId} (hb : bundleArg bundle = some b)
    (h : (s.run b).state ≠ .held ∨ token ≠ (s.run b).token) :
    s.ackPortWrite bundle token = (s.staleAck b).countStale := by
  simp only [ackPortWrite, hb]
  exact if_neg (not_and_or.mpr h)

/-- A stale or invalid ACK_PORT write adds one to the stale count, up to its limit (R97). -/
theorem ackPortWrite_staleCount {s : State} {bundle : Byte} {token : Half}
    (h : ∀ b : BundleId, bundle.toNat = b.val → (s.run b).state ≠ .held ∨ token ≠ (s.run b).token) :
    (s.ackPortWrite bundle token).staleCount = min (s.staleCount + 1) Config.staleLimit := by
  cases hb : bundleArg bundle with
  | none => rw [ackPortWrite_invalid token hb, countStale_staleCount]
  | some b => simp only [ackPortWrite_stale hb (h b (bundleArg_eq_some hb)), countStale_staleCount, staleAck_frame]

/-! ### The rows -/

theorem exec_clearCounts_live {s : State} (h : s.resetting = false) : exec .clearCounts s = .next s.clearStale :=
  congrArg Host.Outcome.next (live_eq h)

/-- A device reset ignores CLEAR_COUNTS (R161). -/
theorem exec_clearCounts_resetting {s : State} (h : s.resetting = true) : exec .clearCounts s = .next s :=
  congrArg Host.Outcome.next (live_resetting h)

theorem exec_ackPort_live {s : State} (bundle : Byte) (token : Half) (h : s.resetting = false) :
    exec (.ackPort bundle token) s = .next (s.ackPortWrite bundle token) :=
  congrArg Host.Outcome.next (live_eq h)

/-- A device reset ignores every write of the window (R161). -/
theorem exec_registerWrite_resetting {s : State} (offset bits : Nat) (value : Word) (h : s.resetting = true) :
    exec (.registerWrite offset bits value) s = .next s :=
  congrArg Host.Outcome.next (live_resetting h)

/-- Settles O54: CLEAR_COUNTS is `clearStale`, which meets a stale ACK_PORT write (`ackPortWrite_staleCount`) in either order. -/
theorem clearCounts : Obligations.ClearCounts := by
  refine ⟨fun s hr => ⟨exec_clearCounts_live hr, fun bundle token hstale => ⟨?ackFirst, ?clearFirst⟩⟩,
    fun s hr => ⟨exec_clearCounts_resetting hr, fun value _ => exec_registerWrite_resetting _ _ value hr⟩⟩
  case ackFirst =>
    have hlive : (s.ackPortWrite bundle token).resetting = false := by simp only [ackPortWrite_kept, hr]
    exact ⟨_, exec_ackPort_live bundle token hr, exec_clearCounts_live hlive⟩
  case clearFirst =>
    have hcount : (s.clearStale.ackPortWrite bundle token).staleCount = 1 := ackPortWrite_staleCount (s := s.clearStale) hstale
    exact ⟨_, exec_ackPort_live (s := s.clearStale) bundle token hr, hcount⟩

end Sys2Proof.Machine

/-! The statements on every row and every step: what it answers, what it keeps, and the invariants (95, R6, R35, R46, R54, R77, R141). -/
namespace Sys2Proof.Machine

open State

/-! ### What a row keeps of the queue, the free choices and the timebase -/

/-- The model's own fields (log 3) and the timebase (R16). -/
def State.clockwork (s : State) : (List Instr × Nat) × Time := (s.own, s.timebase)

theorem clockwork_eq {s t : State} (hp : t.pending = s.pending) (hc : t.choices = s.choices) (ht : t.timebase = s.timebase) :
    t.clockwork = s.clockwork := by
  simp only [clockwork, own, hp, hc, ht]

theorem clockwork_command {s : State} {r : SlotRead} {f : State → State} (h : ∀ u, (f u).clockwork = u.clockwork) :
    (s.commandAnswer r f).clockwork = s.clockwork :=
  command_kept clockwork (fun _ _ => rfl) (fun _ _ => rfl) h

theorem clockwork_answer {s : State} {id : Nat} {mine : Issuer → Bool} {f : Issuer → State → State}
    (h : ∀ who u, (f who u).clockwork = u.clockwork) : (s.answer id mine f).clockwork = s.clockwork :=
  answer_kept clockwork (fun _ _ => rfl) fun who u _ => h who u

theorem clockwork_live {s : State} {f : State → State} (h : ∀ u, (f u).clockwork = u.clockwork) :
    (live f s).clockwork = s.clockwork := live_kept clockwork (h s)

theorem clockwork_ite {c : Prop} [Decidable c] {s t u : State} (ht : t.clockwork = s.clockwork) (hu : u.clockwork = s.clockwork) :
    (if c then t else u).clockwork = s.clockwork := by
  split
  · exact ht
  · exact hu

/-- No row but TIMEBASE_WRAP, POWER_ON and TIME_SET touches the timebase (R16), and none the queue or the free choices. -/
theorem exec_clockwork (c : Instr) (s : State) (hw : c ≠ .timebaseWrap) (hp : c ≠ .powerOn) (ht : ∀ r v, c ≠ .timeSet r v) :
    ∃ t, exec c s = .next t ∧ t.clockwork = s.clockwork := by
  cases c with
  | timebaseWrap => exact absurd rfl hw
  | powerOn => exact absurd rfl hp
  | timeSet r v => exact absurd rfl (ht r v)
  | nop | badKind | raise | timeRead | routeSet | routeRead | sourceClear | tallyReset | bundleSet | bundleRead | bundleFlush
  | ack | targetAttach | targetDetach | targetQuiesce | targetResume | targetRead | drain | fence | abort =>
    exact ⟨_, rfl, clockwork_command fun u => clockwork_eq (by simp) (by simp) (by simp)⟩
  | commandReadRefused | replyWriteAnswer | targetAttachReadAnswer | completionWriteAnswer | completionSignalAnswer
  | completionConsumerReadAnswer | setupReadAnswer | assemblyAbort | consumerWordReadAnswer | signalWriteAnswer =>
    exact ⟨_, rfl, clockwork_answer fun who u => clockwork_eq (by simp) (by simp) (by simp)⟩
  | sampledLevelChange l =>
    exact ⟨_, rfl, clockwork_live (s := s.setLine l _) fun u => clockwork_eq (by simp) (by simp) (by simp)⟩
  | qualificationExpiry | commandTake | drainTimerExpiry | enable | cmdRestart | restartDrainComplete | cmdProducer
  | attentionRefresh | attentionRearm | cplRefresh | ackPort | registerWrite | eventAssemblyStart | reminderAssemblyStart
  | holdTimerExpiry | pollTimerExpiry | holdoffTimerExpiry =>
    exact ⟨_, rfl, clockwork_live fun u => clockwork_eq (by simp) (by simp) (by simp)⟩
  | clearCounts => exact ⟨_, rfl, clockwork_live fun u => rfl⟩
  | deviceReset | linkLoss | lateAnswerDiscard => exact ⟨_, rfl, rfl⟩
  | resetEnd => exact ⟨_, rfl, clockwork_ite rfl rfl⟩
  | drainedAnswerDiscard => exact ⟨_, rfl, clockwork_ite rfl rfl⟩
  | hostRequestTimeout =>
    exact ⟨_, rfl, clockwork_ite (clockwork_answer fun who u => clockwork_eq (by simp) (by simp) (by simp)) rfl⟩
  | firstWriteIssue =>
    exact ⟨_, rfl, clockwork_live fun u => clockwork_ite rfl (clockwork_eq (by simp) (by simp) (by simp))⟩
  | entryWriteDone =>
    exact ⟨_, rfl, clockwork_ite rfl (clockwork_answer fun who u => clockwork_eq (by simp) (by simp) (by simp))⟩
  | commit =>
    exact ⟨_, rfl, clockwork_ite (clockwork_answer fun who u => clockwork_eq (by simp) (by simp) (by simp)) rfl⟩

theorem own_of_clockwork {s t : State} (h : t.clockwork = s.clockwork) : t.own = s.own := congrArg Prod.fst h

/-- No row touches the queue or the free choices (logs 3 and 20). -/
theorem exec_own (c : Instr) (s : State) : ∃ t, exec c s = .next t ∧ t.own = s.own := by
  by_cases hw : c = .timebaseWrap
  case pos =>
    subst hw
    refine ⟨_, rfl, ?_⟩
    split
    · simp [elapse, live, tickTimers, own, apply_ite]
    · rfl
  by_cases hp : c = .powerOn
  case pos =>
    subst hp
    exact ⟨_, rfl, rfl⟩
  by_cases ht : ∃ r v, c = .timeSet r v
  case pos =>
    obtain ⟨r, v, rfl⟩ := ht
    exact ⟨_, rfl, command_kept own (fun _ _ => rfl) (fun _ _ => rfl) fun u => by simp [own]⟩
  case neg =>
    obtain ⟨t, hexec, hkept⟩ := exec_clockwork c s hw hp fun r v h => ht ⟨r, v, h⟩
    exact ⟨t, hexec, own_of_clockwork hkept⟩

/-- Settles O3: `exec_own`, read by its two fields. -/
theorem everyCommandAnswersNext : Obligations.EveryCommandAnswersNext := by
  intro c s
  obtain ⟨t, hexec, hown⟩ := exec_own c s
  exact ⟨t, hexec, congrArg Prod.fst hown, congrArg Prod.snd hown⟩

/-- Settles O1: the second branch of `step`. -/
theorem stepTakesFrontCommand : Obligations.StepTakesFrontCommand := by
  intro s c rest h
  simp only [step, h]

/-- A µs takes the timebase from its greatest value to 0 (R16). -/
theorem elapse_timebase (s : State) : s.elapse.timebase = s.timebase + 1 := rfl

/-- Settles O7: a µs adds one, POWER_ON and TIME_SET load, and `exec_clockwork` covers every other row. -/
theorem timebaseCountsOn : Obligations.TimebaseCountsOn := by
  refine ⟨elapse_timebase, fun s h => ⟨congrArg Host.Outcome.next (if_pos h), ?wraps⟩, fun s => ⟨_, rfl, rfl⟩, fun s r v h hv => ?loads,
    fun c s t hexec hw hp ht => ?others⟩
  case wraps =>
    rw [elapse_timebase]
    bv_omega
  case loads =>
    refine ⟨_, exec_timeSet_taken v h, ?_⟩
    simp only [timeSetCommand_loads _ _ hv, complete_frame, accept_frame, setTimebase_timebase]
  case others =>
    obtain ⟨u, hexec', hkept⟩ := exec_clockwork c s hw hp ht
    obtain rfl : u = t := by simpa [hexec'] using hexec
    exact congrArg Prod.snd hkept

/-! ### The invariants -/

/-- Settles O19: a step is a chain of works, and no work unbalances a source (`Works.balanced`). -/
theorem balanceKept : Obligations.BalanceKept := fun s t h => (works_step s t h).balanced

/-- Settles O28: lists and holds through the works of a step; the standing by `stands_step`, whose judged hold timers are what
`BundlesStand` says where held sets are in step. -/
theorem bundlesStayInStep : Obligations.BundlesStayInStep := by
  refine ⟨fun s t h hs => ?lists, fun s t h => (works_step s t h).holds, fun s t h hholds hrings hs => ?stand⟩
  case lists => exact (lists_iff t).2 ((works_step s t h).li ((lists_iff s).1 hs))
  case stand =>
    have hholds' : HoldsInStep t := (works_step s t h).holds hholds
    exact (standing_iff t hholds').1 (stands_step s t hrings h true ((standing_iff s hholds).2 hs))

end Sys2Proof.Machine

/-! The statement on the state's bounds: they hold of every step from a state that keeps them (R6, R7). -/
namespace Sys2Proof.Machine

open State

/-! ### Lines settle -/

/-- One line's part of `LinesSettled` (R6, R7). -/
def Line.Settled (x : Line) : Prop := x.qualification = .stable ↔ x.sampled = x.qualified

theorem Line.settled_stable (level : Level) : Line.Settled ⟨level, level, .stable⟩ := iff_of_true rfl rfl

theorem Line.settled_qualifying {x : Line} (h : x.sampled ≠ x.qualified) (left : Nat) :
    Line.Settled { x with qualification := .qualifying left } := iff_of_false nofun h

theorem Line.settled_tick {x : Line} (h : x.Settled) : Line.Settled { x with qualification := x.qualification.tick } := by
  cases hq : x.qualification with
  | stable => exact iff_of_true rfl (h.1 hq)
  | qualifying left => exact iff_of_false nofun fun he => nomatch hq.symm.trans (h.2 he)

/-- What keeps lines settled: outside a device reset after the change there was none before, and every line is as it was or
settled. -/
def KeepsSettled (s t : State) : Prop :=
  t.resetting = false → s.resetting = false ∧ ∀ l, (s.line l).Settled → (t.line l).Settled

namespace KeepsSettled

theorem settled {s t : State} (h : KeepsSettled s t) (hs : LinesSettled s) : LinesSettled t := fun hr l =>
  (h hr).2 l (hs (h hr).1 l)

theorem trans {s t u : State} (h : KeepsSettled s t) (k : KeepsSettled t u) : KeepsSettled s u := fun hr =>
  ⟨(h (k hr).1).1, fun l hl => (k hr).2 l ((h (k hr).1).2 l hl)⟩

theorem of_eq {s t : State} (hl : t.lines = s.lines) (hr : t.resetting = s.resetting) : KeepsSettled s t := fun h =>
  ⟨hr ▸ h, fun l => by simp only [line, hl, imp_self]⟩

theorem refl (s : State) : KeepsSettled s s := of_eq rfl rfl

/-- A device reset that has begun asks nothing of the lines. -/
theorem of_resetting {s t : State} (h : t.resetting = true) : KeepsSettled s t := fun hr => absurd (h.symm.trans hr) (by decide)

theorem setLine (s : State) (l : LineId) {x : Line} (h : (s.line l).Settled → x.Settled) : KeepsSettled s (s.setLine l x) := by
  refine fun hr => ⟨hr, fun k hk => ?_⟩
  rw [setLine_line]
  split
  case isTrue e => exact h (e ▸ hk)
  case isFalse => exact hk

theorem ite {c : Prop} [Decidable c] {s t u : State} (ht : c → KeepsSettled s t) (hu : ¬ c → KeepsSettled s u) :
    KeepsSettled s (if c then t else u) := by
  split
  case isTrue h => exact ht h
  case isFalse h => exact hu h

theorem accept (s : State) (n : SourceId) (d : Option Half) : KeepsSettled s (s.accept n d) := of_eq (by simp) (by simp)

/-- A line that qualifies is STABLE at its sampled level (R8). -/
theorem qualify (s : State) (l : LineId) : KeepsSettled s (s.qualify l) :=
  (setLine s l fun _ => Line.settled_stable _).trans (ite (fun _ => accept _ _ _) fun _ => refl _)

end KeepsSettled

/-- A change of the sampled level is judged at once (R7, R9): the line is settled after it as it was before. -/
theorem linesSettled_sampledLevelChange {s : State} (l : LineId) (hs : LinesSettled s) :
    LinesSettled (live (lineMoved l) (s.resampled l)) := by
  cases hr : s.resetting with
  | true => exact (KeepsSettled.of_resetting (s := s) (by rw [live_resetting (s := s.resampled l) hr]; exact hr)).settled hs
  | false =>
    rw [live_eq (s := s.resampled l) hr]
    have hl : (s.line l).Settled := hs hr l
    have hsame := resampled_qualification s l
    cases hq : (s.line l).qualification with
    | stable =>
      have hne := resampled_leaves (hl.1 hq)
      by_cases hf : (s.route (sourceOfLine l)).filter = 0
      · rw [lineMoved_unfiltered (s := s.resampled l) (hsame.trans hq) hne hf]
        unfold State.qualify
        dsimp only
        rw [resampled_setLine]
        exact ((KeepsSettled.setLine s l fun _ => Line.settled_stable _).trans
          (.ite (fun _ => .accept _ _ _) fun _ => .refl _)).settled hs
      · rw [lineMoved_filtered (s := s.resampled l) (hsame.trans hq) hne hf, resampled_setLine]
        exact (KeepsSettled.setLine s l fun _ => Line.settled_qualifying hne _).settled hs
    | qualifying left =>
      have hback : (s.line l).sampled.other = (s.line l).qualified :=
        Level.other_eq_of_ne fun h => nomatch hq.symm.trans (hl.2 h)
      rw [lineMoved_abandoned (hsame.trans hq), resampled_setLine, resampled_line]
      have hset : KeepsSettled s (s.setLine l { { s.line l with sampled := (s.line l).sampled.other } with qualification := .stable }) :=
        .setLine s l fun _ => iff_of_true rfl hback
      exact (hset.trans (.ite (fun _ => .accept _ _ _) fun _ => .refl _)).settled hs

namespace KeepsSettled

/-- A filter change ends a qualification or starts it again (R10). -/
theorem changeFilter (s : State) (n : SourceId) (old e : RouteEntry) : KeepsSettled s (s.changeFilter n old e) := by
  unfold State.changeFilter
  cases lineOf n with
  | none => exact refl s
  | some l =>
    refine ite (fun _ => refl s) fun _ => ?_
    cases hq : (s.line l).qualification with
    | stable => exact refl s
    | qualifying left =>
      refine ite (fun _ => qualify s l) fun _ => setLine s l fun hl => Line.settled_qualifying (fun h => ?_) _
      exact nomatch hq.symm.trans (hl.2 h)

theorem reroute (s : State) (n : SourceId) (e : RouteEntry) : KeepsSettled s (s.reroute n e) := by
  have hwrite : KeepsSettled s (s.writeRoute n e) := of_eq (by simp) (by simp)
  have hfilter : KeepsSettled s ((s.writeRoute n e).changeFilter n (s.route n) e) := hwrite.trans (changeFilter _ _ _ _)
  exact ite (fun _ => hfilter.trans (of_eq (by simp) (by simp))) fun _ => hfilter

theorem routeSetCommand (s : State) (cmd : CmdId) (source : Half) (entry : Option RouteEntry) (discard : Bool) :
    KeepsSettled s (s.routeSetCommand cmd source entry discard) := by
  have hdone : ∀ {u : State} (st : Status) (v : BitVec 64), KeepsSettled s u → KeepsSettled s (u.complete cmd st v) :=
    fun st v h => h.trans (of_eq (by simp) (by simp))
  unfold State.routeSetCommand
  split
  · have hdiscard : ∀ n, KeepsSettled s (s.discardSource n) := fun n => of_eq (by simp) (by simp)
    exact ite (fun _ => hdone _ _ ((hdiscard _).trans (reroute _ _ _))) fun _ => hdone _ _ (reroute _ _ _)
  · exact hdone _ _ (refl s)

theorem elapse (s : State) : KeepsSettled s s.elapse := by
  have hresetting : s.elapse.resetting = s.resetting := by simp [State.elapse, live, tickTimers, apply_ite]
  refine fun h => ⟨hresetting ▸ h, fun l hl => ?_⟩
  have hline : s.elapse.line l = { s.line l with qualification := (s.line l).qualification.tick } := by
    simp [State.elapse, live_eq (hresetting ▸ h), tickTimers, line]
  rw [hline]
  exact Line.settled_tick hl

/-- The end of a device reset loads every qualified level from its sampled level (R6). -/
theorem resetBlocks_line (s : State) (l : LineId) : s.resetBlocks.line l = ⟨(s.line l).sampled, (s.line l).sampled, .stable⟩ := by
  simp [resetBlocks, line]

theorem answer {s : State} {id : Nat} {mine : Issuer → Bool} {f : Issuer → State → State}
    (h : ∀ who u, KeepsSettled u (f who u)) : KeepsSettled s (s.answer id mine f) := by
  have hend : KeepsSettled s (s.endRequest id) := of_eq rfl rfl
  unfold State.answer
  split
  · exact ite (fun _ => ite (fun _ => hend) fun _ => hend.trans (h _ _)) fun _ => refl s
  · exact refl s

theorem command {s : State} {r : SlotRead} {f : State → State} (h : ∀ u, KeepsSettled u (f u)) :
    KeepsSettled s (s.commandAnswer r f) :=
  answer fun _ u => ite (fun _ => (of_eq (s := u) (t := u.updProc _) rfl rfl).trans (h _)) fun _ => refl u

theorem live {s : State} {f : State → State} (h : KeepsSettled s (f s)) : KeepsSettled s (live f s) :=
  ite (fun _ => refl s) fun _ => h

theorem controlWrite (s : State) (v : Word) : KeepsSettled s (s.controlWrite v) := by
  unfold State.controlWrite
  split
  · exact of_resetting rfl
  · exact of_eq (by split <;> split <;> simp [clearStale]) (by split <;> split <;> simp [clearStale])

theorem windowWrite (s : State) (offset bits : Nat) (v : Word) : KeepsSettled s (s.windowWrite offset bits v) :=
  ite (fun _ => refl s) fun _ => ite (fun _ => controlWrite s v) fun _ => ite (fun _ => of_eq rfl rfl) fun _ =>
    ite (fun _ => of_eq rfl rfl) fun _ => ite (fun _ => of_eq (by simp) (by simp)) fun _ =>
      ite (fun _ => of_eq (by simp) (by simp)) fun _ => ite (fun _ => of_eq (by simp) (by simp)) fun _ => refl s

end KeepsSettled

/-- The end of a reset settles every line, whatever it was. -/
theorem linesSettled_resetBlocks (s : State) : LinesSettled s.resetBlocks := fun _ l => by
  rw [KeepsSettled.resetBlocks_line]
  exact Line.settled_stable _

/-- Every row keeps the lines settled. -/
theorem linesSettled_exec (c : Instr) (s : State) (hs : LinesSettled s) : ∃ t, exec c s = .next t ∧ LinesSettled t := by
  cases c with
  | sampledLevelChange l => exact ⟨_, rfl, linesSettled_sampledLevelChange l hs⟩
  | qualificationExpiry l => exact ⟨_, rfl, (KeepsSettled.live (.ite (fun _ => .qualify s l) fun _ => .refl s)).settled hs⟩
  | timebaseWrap => exact ⟨_, rfl, (KeepsSettled.ite (fun _ => .elapse s) fun _ => .refl s).settled hs⟩
  | routeSet => exact ⟨_, rfl, (KeepsSettled.command fun u => .routeSetCommand u _ _ _ _).settled hs⟩
  | deviceReset | linkLoss => exact ⟨_, rfl, (KeepsSettled.of_resetting (s := s) rfl).settled hs⟩
  | powerOn => exact ⟨_, rfl, (KeepsSettled.of_resetting (s := s) rfl).settled hs⟩
  | resetEnd =>
    refine ⟨_, rfl, ?_⟩
    unfold resetEnds
    split
    · exact linesSettled_resetBlocks s
    · exact hs
  | registerWrite offset bits v => exact ⟨_, rfl, (KeepsSettled.live (.windowWrite s offset bits v)).settled hs⟩
  | nop | badKind | raise | timeSet | timeRead | routeRead | sourceClear | tallyReset | bundleSet | bundleRead | bundleFlush
  | ack | targetAttach | targetDetach | targetQuiesce | targetResume | targetRead | drain | fence | abort =>
    exact ⟨_, rfl, (KeepsSettled.command fun u => .of_eq (by simp) (by simp)).settled hs⟩
  | commandReadRefused | replyWriteAnswer | targetAttachReadAnswer | completionWriteAnswer | completionSignalAnswer
  | completionConsumerReadAnswer | setupReadAnswer | assemblyAbort | consumerWordReadAnswer | signalWriteAnswer =>
    exact ⟨_, rfl, (KeepsSettled.answer fun who u => .of_eq (by simp) (by simp)).settled hs⟩
  | commandTake | drainTimerExpiry | enable | cmdRestart | restartDrainComplete | cmdProducer | attentionRefresh
  | attentionRearm | cplRefresh | ackPort | eventAssemblyStart | reminderAssemblyStart | holdTimerExpiry | pollTimerExpiry
  | holdoffTimerExpiry =>
    exact ⟨_, rfl, (KeepsSettled.live (.of_eq (by simp) (by simp))).settled hs⟩
  | clearCounts => exact ⟨_, rfl, (KeepsSettled.live (.of_eq rfl rfl)).settled hs⟩
  | lateAnswerDiscard => exact ⟨_, rfl, hs⟩
  | drainedAnswerDiscard id =>
    exact ⟨_, rfl, (KeepsSettled.ite (fun _ => .of_eq (t := s.endRequest id) rfl rfl) fun _ => .refl s).settled hs⟩
  | hostRequestTimeout =>
    exact ⟨_, rfl, (KeepsSettled.ite (fun _ => .answer fun who u => .of_eq (by simp) (by simp)) fun _ => .refl s).settled hs⟩
  | firstWriteIssue =>
    have hwrite : KeepsSettled s (if s.inFlight .assembly then s else s.issueWrite) :=
      .ite (fun _ => .refl s) fun _ => .of_eq (by simp) (by simp)
    exact ⟨_, rfl, (KeepsSettled.live hwrite).settled hs⟩
  | entryWriteDone =>
    exact ⟨_, rfl, (KeepsSettled.ite (fun _ => .refl s) fun _ => .answer fun who u => .of_eq (by simp) (by simp)).settled hs⟩
  | commit =>
    exact ⟨_, rfl, (KeepsSettled.ite (fun _ => .answer fun who u => .of_eq (by simp) (by simp)) fun _ => .refl s).settled hs⟩

/-- Every step keeps the lines settled (R6, R7). -/
theorem linesSettled_step {s t : State} (h : step s = .next t) (hs : LinesSettled s) : LinesSettled t := by
  unfold step at h
  split at h
  case h_1 =>
    obtain rfl : s.idle = t := Host.Outcome.next.inj h
    have hidle : KeepsSettled s s.idle := by
      unfold idle
      exact .ite (fun _ => .elapse s) fun _ => .of_eq rfl rfl
    exact hidle.settled hs
  case h_2 c rest _ =>
    obtain ⟨u, hexec, hu⟩ := linesSettled_exec c { s with pending := rest } hs
    obtain rfl : u = t := Host.Outcome.next.inj (hexec.symm.trans h)
    exact hu

/-- Settles O20: each clause is one of the step laws; that of the lines is `linesSettled_step`. -/
theorem boundsKept : Obligations.BoundsKept :=
  ⟨fun s t h => (works_step s t h).counts, fun _ _ => linesSettled_step,
    fun s t h one bound => ⟨(tidy_step s t h).one one, (tidy_step s t h).bound bound⟩,
    fun s t h => (works_step s t h).copiesDistinct, fun s t h => (tidy_step s t h).rings, fits_step⟩

end Sys2Proof.Machine

/-! The statements on the state after power-on, and on the slot byte. -/
namespace Sys2Proof.Machine

open State

/-! ### The state after power-on -/

theorem reset_source (n : SourceId) :
    State.reset.route n = .reset ∧ State.reset.interval n = Config.intervalMax ∧ State.reset.record n = none ∧
      State.reset.tally n = .reset := by
  simp [State.reset, route, interval, record, tally]

theorem reset_line (l : LineId) : State.reset.line l = ⟨.low, .low, .stable⟩ := by simp [State.reset, line]

theorem reset_bundle (b : BundleId) : State.reset.config b = .reset ∧ State.reset.run b = .reset := by
  simp [State.reset, config, run]

theorem reset_target (t : TargetId) : State.reset.target t = .reset := by simp [State.reset, target]

theorem reset_pendingList (b : BundleId) : State.reset.pendingList b = [] :=
  (pendingList_eq_nil _ b).2 fun n h => by simp [reset_source] at h

theorem reset_faultedBits : State.reset.faultedBits = 0 := by simp [faultedBits, reset_target, Target.reset]

/-- A STOPPED processor, no faulted target and no stale acknowledge: STATUS is 0 (R155). -/
theorem reset_statusWord : State.reset.statusWord = 0 := by
  rw [statusWord, reset_faultedBits]
  rfl

/-- Settles O4: the fields of `State.reset`, read through its readers. -/
theorem powerOnValues : Obligations.PowerOnValues := by
  refine ⟨rfl, reset_source, fun l => ?line, fun b => ⟨(reset_bundle b).1, (reset_bundle b).2, reset_pendingList b⟩, rfl, rfl,
    reset_target, rfl, rfl, rfl, rfl, rfl, rfl, rfl, reset_statusWord⟩
  case line =>
    rw [reset_line]
    exact ⟨rfl, rfl⟩

/-- Settles O58: after power-on no record, no copy, no request and no hold exists, and every target is DETACHED. -/
theorem invariantsHoldAtReset : Obligations.InvariantsHoldAtReset := by
  refine ⟨fun n => ?balanced, fun b => ?lists, ⟨fun b => ?holds, nofun⟩, ⟨fun n r h => ?counts, nofun⟩, fun who _ => Nat.zero_le 1,
    ⟨Nat.zero_le 4, Nat.zero_le 255⟩, fun _ l => ?lines, List.nodup_nil, ⟨fun k => ?rings, nofun, nofun⟩,
    ⟨nofun, fun _ => ⟨rfl, rfl, rfl, rfl, fun _ => rfl⟩⟩, ⟨fun b => ?off, fun b h => ?held, fun b => ?timer, nofun⟩⟩
  case balanced =>
    have hcopies : State.reset.inFlightCount n = 0 := rfl
    simp [pendingCount, reset_source, hcopies, Tallies.reset]
  case lists => exact ⟨fun h => by simp [reset_bundle, BundleRun.reset] at h, fun _ => reset_pendingList b⟩
  case holds =>
    have hevent : State.reset.eventBundle = none := rfl
    simp [reset_bundle, hevent, BundleRun.reset, BundleRun.HoldFields]
  case counts => simp [reset_source] at h
  case lines => simp [reset_line]
  case rings => simp [reset_target, Target.reset]
  case off => simp [reset_bundle, BundleRun.reset, BundleConfig.reset]
  case held => simp [reset_bundle, BundleRun.reset] at h
  case timer => simp [reset_bundle, BundleRun.reset]

/-! ### The command slot -/

/-- Settles O59: the law of the command slot, row by row; rows that are no commands have no slot. -/
theorem slotRoundTrip : Obligations.SlotRoundTrip := by
  intro i req slot hwf hslot
  have hread : Laws.Slot.Statement i := by
    cases i with
    | nop => exact Laws.Slot.nop _
    | badKind => exact Laws.Slot.badKind _ _
    | raise => exact Laws.Slot.raise _ _ _ _ _
    | timeSet => exact Laws.Slot.timeSet _ _
    | timeRead => exact Laws.Slot.timeRead _
    | routeSet => exact Laws.Slot.routeSet _ _ _ _ _ _ _ _
    | routeRead => exact Laws.Slot.routeRead _ _ _
    | sourceClear => exact Laws.Slot.sourceClear _ _
    | tallyReset => exact Laws.Slot.tallyReset _ _
    | bundleSet => exact Laws.Slot.bundleSet _ _ _ _ _ _ _ _ _ _
    | bundleRead => exact Laws.Slot.bundleRead _ _ _ _
    | bundleFlush => exact Laws.Slot.bundleFlush _ _
    | ack => exact Laws.Slot.ack _ _ _
    | targetAttach => exact Laws.Slot.targetAttach _ _ _ _ _ _ _
    | targetDetach => exact Laws.Slot.targetDetach _ _
    | targetQuiesce => exact Laws.Slot.targetQuiesce _ _
    | targetResume => exact Laws.Slot.targetResume _ _
    | targetRead => exact Laws.Slot.targetRead _ _ _
    | drain => exact Laws.Slot.drain _ _ _
    | fence => exact Laws.Slot.fence _
    | abort => exact Laws.Slot.abort _ _
    | _ => exact Laws.Slot.of_none rfl
  exact hread hwf req slot hslot

end Sys2Proof.Machine

/-! The statements on a step's own work, on pending lists, and on the passing of a microsecond (R8, R14, R37, R38, R102, R158). -/
namespace Sys2Proof.Machine

open State

/-! ### Pending lists -/

/-- The sort key of a record orders by rank, then first_time, then source number (R38). -/
theorem listKey_le {s : State} {m n : SourceId} {x y : PendingRecord} (hx : s.record m = some x) (hy : s.record n = some y)
    (hne : m ≠ n) (hle : s.listKey m ≤ s.listKey n) :
    (s.route m).rank < (s.route n).rank ∨ (s.route m).rank = (s.route n).rank ∧
      (x.firstTime < y.firstTime ∨ x.firstTime = y.firstTime ∧ m < n) := by
  simp only [listKey, hx, hy] at hle
  have hm := m.isLt
  have hn := n.isLt
  have hxt := x.firstTime.isLt
  have hyt := y.firstTime.isLt
  rw [Fin.lt_def, Fin.ext_iff, Fin.lt_def, BitVec.lt_def, ← BitVec.toNat_inj]
  rw [ne_eq, Fin.ext_iff] at hne
  omega

/-- Settles O13: membership by `mem_pendingList`; the insertion sort orders the keys, which `listKey_le` reads. -/
theorem pendingListOrder : Obligations.PendingListOrder := by
  intro s b
  refine ⟨mem_pendingList s b, pendingList_nodup s b, ?_⟩
  have htotal : Std.Total fun m n : SourceId => s.listKey m ≤ s.listKey n := ⟨fun m n => Nat.le_total _ _⟩
  have htrans : IsTrans SourceId fun m n => s.listKey m ≤ s.listKey n := ⟨fun _ _ _ => Nat.le_trans⟩
  have hsorted : (s.pendingList b).Pairwise fun m n => s.listKey m ≤ s.listKey n := List.pairwise_insertionSort _ _
  exact (hsorted.and (pendingList_nodup s b)).imp fun h x y hx hy => listKey_le hx hy h.2 h.1

/-! ### A microsecond -/

theorem elapse_live {s : State} (h : s.resetting = false) :
    s.elapse = { s.tickTimers with
      timebase := s.timebase + 1, requests := s.requests.map fun r => { r with timeout := r.timeout - 1 } } := by
  simp only [elapse, live_eq h]

theorem elapse_resetting {s : State} (h : s.resetting = true) :
    s.elapse = { s with
      timebase := s.timebase + 1, requests := s.requests.map fun r => { r with timeout := r.timeout - 1 } } := by
  simp only [elapse, live_resetting h]

section
variable {s : State} (h : s.resetting = false)
include h

theorem elapse_interval (n : SourceId) : s.elapse.interval n = tickInterval (s.route n) (s.interval n) := by
  simp [elapse_live h, interval, tickTimers, route]

theorem elapse_line (l : LineId) : s.elapse.line l = { s.line l with qualification := (s.line l).qualification.tick } := by
  simp [elapse_live h, line, tickTimers]

theorem elapse_run (b : BundleId) : s.elapse.run b = { s.run b with holdTimer := (s.run b).holdTimer.tick } := by
  simp [elapse_live h, run, tickTimers]

theorem elapse_target (t : TargetId) :
    s.elapse.target t =
      { s.target t with pollTimer := (s.target t).pollTimer.tick, holdoffTimer := (s.target t).holdoffTimer.tick } := by
  simp [elapse_live h, target, tickTimers]

theorem elapse_proc :
    s.elapse.proc = { s.proc with deferred := s.proc.deferred.map fun d => { d with timer := d.timer.tick } } := by
  simp only [elapse_live h, tickTimers]

end

/-- A timer that runs has one µs less to go, and a stopped one stays stopped (R115, R120, R129; log 4). -/
theorem Timer.tick_counted (x : Timer) : (x = .stopped → x.tick = .stopped) ∧ ∀ left, x = .running left → x.tick = .running (left - 1) :=
  ⟨fun h => by rw [h]; rfl, fun _ h => by rw [h]; rfl⟩

/-- Settles O8: outside a device reset each array ticks entry by entry; during one only the requests do. -/
theorem microsecondPasses : Obligations.MicrosecondPasses := by
  refine ⟨fun s h => ⟨elapse_interval h, fun l => ?line, fun b => ?run, fun t => ?target, ?proc, ?length, fun k d hd => ?entry, ?_, ?_, ?_, ?_, ?_, ?_⟩,
    fun s => rfl, fun s h => elapse_resetting h⟩
  case line =>
    rw [elapse_line h]
    exact ⟨rfl, fun hq => by rw [hq]; rfl, fun left hq => by rw [hq]; rfl⟩
  case run =>
    rw [elapse_run h]
    exact ⟨rfl, fun ht => by rw [ht]; rfl, fun left ht => by rw [ht]; rfl, fun left ht => by rw [ht]; rfl⟩
  case target =>
    rw [elapse_target h]
    exact ⟨rfl, Timer.tick_counted _, Timer.tick_counted _⟩
  case proc => rw [elapse_proc h]
  case length => rw [elapse_proc h, List.length_map]
  case entry => exact ⟨_, Timer.tick_counted _, by rw [elapse_proc h, List.getElem?_map, hd]; rfl⟩
  all_goals rw [elapse_live h]; rfl

/-! ### The part's own work -/

theorem insertWork_perm (k : Nat) (w : Instr) (l : List (Nat × Instr)) : (insertWork k w l).Perm ((k, w) :: l) := by
  induction l with
  | nil => exact .refl _
  | cons p ps ih =>
    unfold insertWork
    split
    · exact .refl _
    · exact (ih.cons p).trans (.swap _ _ _)

/-- The free order only arranges the work (log 3). -/
theorem arranged_perm (c : Nat) (work : List Instr) : (arranged c work).Perm work := by
  have hkeyed : ∀ (l : List Instr) c, ((arrangeKeyed c l).map fun p => p.2).Perm l := by
    intro l
    induction l with
    | nil => exact fun _ => .refl _
    | cons w ws ih => exact fun c => ((insertWork_perm _ w _).map fun p => p.2).trans ((ih (c + 1)).cons w)
  exact hkeyed work c

/-- The entries of an array with their numbers. -/
theorem mem_zip_toList {α : Type} {n : Nat} (v : Vector α n) (k : Fin n) (x : α) :
    (k, x) ∈ (List.finRange n).zip v.toList ↔ v[k] = x := by
  simp only [List.mem_iff_getElem, List.getElem_zip, List.length_zip, List.length_finRange, Vector.length_toList, min_self,
    List.getElem_finRange, Vector.getElem_toList, Prod.mk.injEq]
  constructor
  · rintro ⟨i, hi, rfl, rfl⟩
    rfl
  · rintro rfl
    exact ⟨k.val, k.isLt, rfl, rfl⟩

/-- The work that a condition on the entries of an array brings up. -/
theorem mem_due {α : Type} {n : Nat} (v : Vector α n) (due : α → Bool) (row : Fin n → Instr) (i : Instr) :
    (i ∈ (((List.finRange n).zip v.toList).filter fun p => due p.2).map fun p => row p.1) ↔
      ∃ k : Fin n, due v[k] = true ∧ i = row k := by
  simp only [List.mem_map, List.mem_filter, Prod.exists, mem_zip_toList]
  constructor
  · rintro ⟨k, x, ⟨rfl, hdue⟩, rfl⟩
    exact ⟨k, hdue, rfl⟩
  · rintro ⟨k, hdue, rfl⟩
    exact ⟨k, _, ⟨rfl, hdue⟩, rfl⟩

section
variable (s : State) (i : Instr)

theorem mem_dueTimeouts : i ∈ s.dueTimeouts ↔ ∃ q ∈ s.requests, q.timeout = 0 ∧ i = .hostRequestTimeout q.id := by
  simp only [dueTimeouts, List.mem_map, List.mem_filter, beq_iff_eq, and_assoc, eq_comm (a := Instr.hostRequestTimeout _)]

theorem mem_dueQualifications :
    i ∈ s.dueQualifications ↔ ∃ l, (s.line l).qualification = .qualifying 0 ∧ i = .qualificationExpiry l :=
  (mem_due s.lines (fun x => x.qualification == .qualifying 0) .qualificationExpiry i).trans (by simp [line])

theorem mem_dueHolds :
    i ∈ s.dueHolds ↔ ∃ b, (s.run b).state = .held ∧ (s.run b).holdTimer = .running 0 ∧ i = .holdTimerExpiry b :=
  (mem_due s.bundleRun (fun x => x.state == .held && x.holdTimer == .running 0) .holdTimerExpiry i).trans
    (by simp [run, and_assoc])

theorem mem_duePolls : i ∈ s.duePolls ↔ ∃ k, (s.target k).pollTimer = .running 0 ∧ i = .pollTimerExpiry k :=
  (mem_due s.targets (fun x => x.pollTimer == .running 0) .pollTimerExpiry i).trans (by simp [target])

theorem mem_dueHoldoffs : i ∈ s.dueHoldoffs ↔ ∃ k, (s.target k).holdoffTimer = .running 0 ∧ i = .holdoffTimerExpiry k :=
  (mem_due s.targets (fun x => x.holdoffTimer == .running 0) .holdoffTimerExpiry i).trans (by simp [target])

theorem mem_dueDrains :
    i ∈ s.dueDrains ↔ ∃ (e : Fin 4) (cmd : CmdId) (k : TargetId) (timeout : Half),
      s.proc.deferred[e.val]? = some ⟨cmd, .drain k timeout, .running 0⟩ ∧ i = .drainTimerExpiry e := by
  have hall : ∀ e : Fin 4, e ∈ ([0, 1, 2, 3] : List (Fin 4)) := by decide
  simp only [dueDrains, List.mem_map, List.mem_filter, hall, true_and]
  constructor
  · rintro ⟨e, hdue, rfl⟩
    split at hdue
    case h_1 cmd k timeout he => exact ⟨e, cmd, k, timeout, he, rfl⟩
    case h_2 => exact absurd hdue (by decide)
  · rintro ⟨e, cmd, k, timeout, he, rfl⟩
    exact ⟨e, by simp only [he], rfl⟩

theorem mem_dueRestart :
    i ∈ s.dueRestart ↔ s.proc.restarting = true ∧ (∀ q ∈ s.requests, q.issuer.commandPath = false) ∧ i = .restartDrainComplete := by
  unfold dueRestart commandPathBusy
  split <;> simp_all

theorem mem_dueTake :
    i ∈ s.dueTake ↔ s.proc.state = .running ∧ s.proc.hand = none ∧ s.proc.setup ≠ none ∧ s.inFlight .commandRead = false ∧
      s.proc.producer ≠ s.proc.taken ∧ i = .commandTake := by
  unfold dueTake wantsCommand
  split <;> simp_all [Option.isSome_iff_ne_none, and_assoc]

theorem mem_dueStart :
    i ∈ s.dueStart ↔ ∃ b, s.assembly = none ∧ s.choice = some b ∧
      i = if (s.run b).state = .ready then .eventAssemblyStart else .reminderAssemblyStart := by
  unfold dueStart chosen
  cases s.assembly with
  | some a => simp
  | none =>
    cases s.choice with
    | none => simp
    | some b => simp only [Option.isNone_none, if_true]; split <;> simp_all

theorem mem_dueFirstWrite :
    i ∈ s.dueFirstWrite ↔ s.assembly ≠ none ∧ s.inFlight .assembly = false ∧ i = .firstWriteIssue := by
  unfold dueFirstWrite
  split <;> simp_all [Option.isSome_iff_ne_none]

end

/-- Settles O2: an idle step by its two branches; own work is the union of what is due. -/
theorem idleStepDoesOwnWork : Obligations.IdleStepDoesOwnWork := by
  intro s hs
  have hstep : step s = .next s.idle := by simp only [step, hs]
  refine ⟨fun hnone => ?elapses, fun hwork => ⟨arranged s.choices s.ownWork, arranged_perm _ _, ?works⟩, fun i => ?own⟩
  case elapses => rw [hstep, idle, hnone]; rfl
  case works => rw [hstep, idle, if_neg (by simpa using hwork)]
  case own =>
    unfold ownWork
    cases hr : s.resetting with
    | true => simp [mem_dueTimeouts]
    | false =>
      simp only [if_false, Bool.false_eq_true, List.mem_append, mem_dueTimeouts, mem_dueQualifications, mem_dueHolds, mem_duePolls,
        mem_dueHoldoffs, mem_dueDrains, mem_dueRestart, mem_dueTake, mem_dueStart, mem_dueFirstWrite, false_and, false_or,
        true_and, or_assoc]

end Sys2Proof.Machine

/-! The statements on occurrences, RAISE, NOP and BAD_KIND, and completions (R2, R11, R13, R18, R41, R139, R141, R142). -/
namespace Sys2Proof.Machine

open State

/-! ### Occurrences -/

/-- A cause that occurs while the entry is OFF accepts nothing (R2). -/
theorem accept_off {s : State} {n : SourceId} (d : Option Half) (h : (s.route n).enabled = false) : s.accept n d = s := by
  simp [accept, acceptOne, h]

theorem levelActive_iff {s : State} {n : SourceId} {l : LineId} (h : lineOf n = some l) :
    s.levelActive n = true ↔ (s.route n).enabled = true ∧ (s.route n).trigger.activeLevel = some (s.line l).qualified := by
  simp [levelActive, h]

/-- Settles O9: the trigger tables case by case, and the two branches of a level check. -/
theorem acceptanceChecks : Obligations.AcceptanceChecks := by
  refine ⟨fun x level => ?counts, fun x level => ?active, fun s n d h => accept_off d h, fun s => rfl, fun s n l => rfl,
    fun s n l hl he ha => ?check, fun s n h => if_neg ?noCheck⟩
  case counts => cases x <;> cases level <;> decide
  case active => cases x <;> cases level <;> decide
  case check =>
    rw [levelCheck, if_pos ((levelActive_iff hl).2 ⟨he, ha⟩), levelDetail, hl]
    rfl
  case noCheck =>
    cases hl : lineOf n with
    | none => simp [levelActive, hl]
    | some l =>
      rw [levelActive_iff hl, not_and_or, Bool.not_eq_true]
      exact h l hl

/-! ### Lost arrivals -/

theorem saturated_of_full {s : State} {n : SourceId} {r : PendingRecord} (h : s.record n = some r)
    (hr : Config.countLimit ≤ r.count) : s.saturated n = true := by
  simp only [saturated, h, decide_eq_true hr]

/-- Of two changes of one source's tallies the second is made on the first. -/
theorem State.updTally_updTally (s : State) (n : SourceId) (f g : Tallies → Tallies) :
    (s.updTally n f).updTally n g = s.updTally n fun y => g (f y) := by
  simp [updTally, tally]

/-- An arrival at a saturated record only moves its last time and its detail, and the event is counted as lost (R41). -/
theorem arrive_full {s : State} {n : SourceId} {r : PendingRecord} (d : Option Half) (h : s.record n = some r)
    (hr : Config.countLimit ≤ r.count) :
    s.arrive n d =
      ((s.setInterval n 0).setRecord n (some { r with lastTime := s.timebase, detail := d })).updTally n fun y =>
        { y with accepted := y.accepted + 1, lost := y.lost + 1 } := by
  unfold arrive
  simp only [h, if_neg (Nat.not_lt.mpr hr)]
  exact updTally_updTally ((s.setInterval n 0).setRecord n (some { r with lastTime := s.timebase, detail := d })) n
    (fun y => { y with accepted := y.accepted + 1 }) fun y => { y with lost := y.lost + 1 }

/-- An occurrence for source 209 reports no loss of its own (R5). -/
theorem accept_eventsLost (s : State) (d : Option Half) : s.accept Config.eventsLost d = s.acceptOne Config.eventsLost d := by
  simp [accept]

/-- Settles O12: a saturated source's occurrence is `arrive_full`, and for any source but 209 an occurrence for 209 after it. -/
theorem arrivalLost : Obligations.ArrivalLost := by
  intro s n d r he h hr
  have hfull : Config.countLimit ≤ r.count := hr.ge
  refine ⟨fun hne => ?flag, ?accepts⟩
  case flag => simpa [lossFlag] using hne
  case accepts =>
    have hone : s.acceptOne n d = s.arrive n d := if_pos he
    rw [← arrive_full d h hfull, ← hone]
    by_cases hn : n = 209
    case pos =>
      subst hn
      exact accept_eventsLost s d
    case neg =>
      have hlost : ((s.route n).enabled && s.saturated n && n != Config.eventsLost) = true := by
        have hn' : n ≠ Config.eventsLost := hn
        simp [he, saturated_of_full h hfull, hn']
      rw [if_neg hn, accept, if_pos hlost]
      exact (accept_eventsLost (s.acceptOne n d) _).symm

/-! ### NOP and BAD_KIND -/

/-- A rejection joins the queue, and is then an occurrence for source 208 with the tag as detail (R139; log 38). -/
theorem complete_rejected (s : State) (c : CmdId) {st : Status} (v : BitVec 64) (h : st.rejected = true) :
    s.complete c st v = (s.pushCompletion ⟨c, st, v⟩).accept Config.commandPath (some c.tag) := by
  simp only [complete, h, if_true]

/-- Settles O16: NOP only completes; BAD_KIND is rejected. -/
theorem nopAndBadKind : Obligations.NopAndBadKind := by
  refine fun s r h => ⟨?nop, fun kind => ?badKind⟩
  case nop =>
    have hexec : exec (.nop r) s = .next ((s.taken r).complete (cmdOf r 0x00) .ok 0) :=
      congrArg Host.Outcome.next (command_taken h)
    rw [complete_ok] at hexec
    exact ⟨_, hexec, by rw [Completes, pushCompletion_proc, taken_proc], only_push s r _, issues_push s r _⟩
  case badKind =>
    have hexec : exec (.badKind r kind) s = .next ((s.taken r).complete (cmdOf r kind) .badKind 0) :=
      congrArg Host.Outcome.next (command_taken h)
    exact ⟨_, _, rfl, complete_rejected _ _ _ rfl, hexec, completes_complete s r _ _ _, only_push s r _⟩

/-! ### RAISE -/

/-- Further events at the moment of a record's last one only count up (R18, R40). -/
theorem acceptMany_grows {n : SourceId} {d : Option Half} (k : Nat) {s : State} {r : PendingRecord}
    (he : (s.route n).enabled = true) (h : s.record n = some r) (ht : r.lastTime = s.timebase) (hd : r.detail = d)
    (hk : r.count + k ≤ Config.countLimit) (hi : s.interval n = 0) :
    (s.acceptMany n d k).record n = some { r with count := r.count + k } ∧ (s.acceptMany n d k).interval n = 0 ∧
      (s.acceptMany n d k).tally n = { s.tally n with accepted := (s.tally n).accepted + BitVec.ofNat 32 k } := by
  induction k generalizing s r with
  | zero => simp [acceptMany, h, hi]
  | succ k ih =>
    have hlt : r.count < Config.countLimit := by omega
    have hgrown : { r with count := r.count + 1, lastTime := s.timebase, detail := d } = { r with count := r.count + 1 } := by
      rw [← ht, ← hd]
    have heq := accept_grows d he h hlt
    rw [hgrown] at heq
    obtain ⟨hrecord, hinterval, htally⟩ := counted_self s n { r with count := r.count + 1 }
    rw [← heq] at hrecord hinterval htally
    obtain ⟨krecord, kinterval, ktally⟩ := ih (s := s.accept n d) (r := { r with count := r.count + 1 }) (by simpa using he)
      hrecord (by simpa using ht) hd (by simp only; omega) hinterval
    refine ⟨krecord.trans ?_, kinterval, ktally.trans ?_⟩
    · simp only [Nat.add_assoc, Nat.add_comm 1 k]
    · rw [htally, BitVec.ofNat_add, add_comm (BitVec.ofNat 32 k), ← add_assoc]
      rfl

/-- The events of a RAISE for a source without a record create it at their one moment (R18, R39). -/
theorem acceptMany_creates {s : State} {n : SourceId} (d : Option Half) {k : Nat} (he : (s.route n).enabled = true)
    (h : s.record n = none) (h1 : 1 ≤ k) (hk : k ≤ Config.countLimit) :
    (s.acceptMany n d k).record n = some ⟨k, s.timebase, s.timebase, s.interval n, d⟩ ∧
      (s.acceptMany n d k).interval n = 0 ∧
      (s.acceptMany n d k).tally n = { s.tally n with accepted := (s.tally n).accepted + BitVec.ofNat 32 k } := by
  obtain ⟨k, rfl⟩ := Nat.exists_eq_add_of_le' h1
  have hrecord : (s.accept n d).record n = some ⟨1, s.timebase, s.timebase, s.interval n, d⟩ := (arrivalCreates s n d he h).1
  have hinterval : (s.accept n d).interval n = 0 := (arrivalCreates s n d he h).2.1
  have htally : (s.accept n d).tally n = { s.tally n with accepted := (s.tally n).accepted + 1 } :=
    (arrivalCreates s n d he h).2.2.1
  obtain ⟨krecord, kinterval, ktally⟩ := acceptMany_grows (d := d) k (s := s.accept n d) (by simpa using he) hrecord (by simp) rfl
    (by simp only; omega) hinterval
  refine ⟨krecord.trans (by simp only [Nat.add_comm]), kinterval, ktally.trans ?_⟩
  rw [htally, BitVec.ofNat_add, add_comm (BitVec.ofNat 32 k), ← add_assoc]
  rfl

theorem exec_raise_taken {s : State} {r : SlotRead} (source : Half) (count : Byte) (has : Bool) (arg : Half) (h : Takes s r) :
    exec (.raise r source count has arg) s =
      .next ((s.taken r).raiseCommand (cmdOf r 0x01) source count (if has then some arg else none)) :=
  congrArg Host.Outcome.next (command_taken h)

theorem sourceArg_eq_some {source : Half} {n : SourceId} (h : source.toNat = n.val) : sourceArg source = some n := by
  have hlt : source.toNat < 216 := h ▸ n.isLt
  rw [sourceArg, dif_pos hlt]
  exact congrArg some (Fin.ext h)

/-- Settles O14: the branches of `raiseCommand`, and the record that `acceptMany_creates` gives. -/
theorem raise : Obligations.Raise := by
  intro s r source count has arg h
  refine ⟨fun hbad => ?rejected, fun n hn hlo hhi hcount => ⟨fun he => ?off, fun he => ⟨?events, fun hnone => ?created⟩⟩⟩
  case rejected =>
    rw [exec_raise_taken _ _ _ _ h, raiseCommand]
    by_cases hv : 192 ≤ source.toNat ∧ source.toNat ≤ 207
    · have hzero : count = 0 := hbad.resolve_left (not_not_intro hv)
      simp only [virtualArg, if_pos hv, hzero, if_true]
      split <;> rfl
    · simp only [virtualArg, if_neg hv]
  all_goals
    have hv : virtualArg source = some n := by
      rw [virtualArg, if_pos ⟨hn ▸ hlo, hn ▸ hhi⟩, sourceArg_eq_some hn]
  case off =>
    have he' : ¬ ((s.taken r).route n).enabled = true := by simp [he]
    rw [exec_raise_taken _ _ _ _ h, raiseCommand]
    simp only [hv, if_neg hcount, if_neg he']
  case events =>
    have he' : ((s.taken r).route n).enabled = true := by simpa using he
    rw [exec_raise_taken _ _ _ _ h, raiseCommand]
    simp only [hv, if_neg hcount, if_pos he']
  case created =>
    have h1 : 1 ≤ count.toNat := Nat.one_le_iff_ne_zero.mpr fun e => hcount (BitVec.eq_of_toNat_eq e)
    have hk : count.toNat ≤ Config.countLimit := Nat.le_trans (Nat.le_of_lt count.isLt) (by decide)
    have hcreated := acceptMany_creates (s := s.taken r) (if has then some arg else none) (by simpa using he)
      (by simpa using hnone) h1 hk
    simpa only [complete_ok, pushCompletion_frame, taken_kept] using hcreated

end Sys2Proof.Machine

/-! The statements on taking commands, on completions and on the completion consumer word (R137, R138, R139, R141, R142). -/
namespace Sys2Proof.Machine

open State

/-! ### Requests that were issued -/

theorem inFlight_issueRequest (s : State) (who w : Issuer) (a : Addr) (k : Access) :
    (s.issueRequest w a k).inFlight who = (s.inFlight who || w == who) := by
  simp [inFlight]

theorem not_inFlight_iff (s : State) (who : Issuer) : s.inFlight who = false ↔ ∀ q ∈ s.requests, q.issuer ≠ who := by
  simp [inFlight]

/-! ### Taking commands -/

theorem wantsCommand_iff {s : State} {su : SetupBlock} (h : s.proc.setup = some su) :
    s.wantsCommand = true ↔ s.proc.state = .running ∧ s.proc.hand = none ∧ s.inFlight .commandRead = false ∧
      s.proc.producer ≠ s.proc.taken := by
  simp [wantsCommand, h, and_assoc]

theorem canReserve_iff {s : State} {su : SetupBlock} (h : s.proc.setup = some su) :
    s.canReserve = true ↔ s.proc.deferred.length + s.proc.completions.length <
      su.cplSize.toNat - (s.proc.cplProduced - s.proc.cplConsumed).toNat := by
  simp [canReserve, cplFree, h]

theorem issueCplRead_held {s : State} {su : SetupBlock} (h : s.proc.setup = some su) :
    s.issueCplRead = if s.inFlight .completionConsumerRead then s
      else s.issueRequest .completionConsumerRead su.cplConsumer (.read 4) := by
  simp only [issueCplRead, h]

theorem takeCommand_unwanted {s : State} (h : ¬ s.wantsCommand = true) : s.takeCommand = s := if_neg h

/-- With a completion slot to reserve the processor reads the slot at the taken index (R137). -/
theorem takeCommand_reads {s : State} {su : SetupBlock} (h : s.proc.setup = some su) (hw : s.wantsCommand = true)
    (hr : s.canReserve = true) :
    s.takeCommand = s.issueRequest .commandRead (slotAddress su.cmdRing su.cmdSize.toNat 32 s.proc.taken) (.read 32) := by
  simp only [takeCommand, hw, h, hr, if_true]

/-- Without one it waits, and reads the completion consumer word (R138). -/
theorem takeCommand_waits {s : State} {su : SetupBlock} (h : s.proc.setup = some su) (hw : s.wantsCommand = true)
    (hr : ¬ s.canReserve = true) : s.takeCommand = (s.setProcState (.waiting .completionSpace)).issueCplRead := by
  simp only [takeCommand, hw, h, hr, if_true, Bool.false_eq_true, if_false]

/-- Settles O47: the three branches of `takeCommand`, and the answers of a refused or discarded read. -/
theorem commandTake : Obligations.CommandTake := by
  refine ⟨fun s su hlive hsu => ⟨fun h => ?stays, fun h hr => ?reads, fun h hr => ?waits⟩,
    fun s r h => ⟨fun hrun => ?refused, fun hnot => ⟨?ignored, fun i hi => ?discarded⟩⟩⟩
  case stays =>
    exact congrArg Host.Outcome.next ((live_eq hlive).trans (takeCommand_unwanted (mt (wantsCommand_iff hsu).1 h)))
  case reads =>
    exact congrArg Host.Outcome.next
      ((live_eq hlive).trans (takeCommand_reads hsu ((wantsCommand_iff hsu).2 h) ((canReserve_iff hsu).2 hr)))
  case waits =>
    have hwaits := takeCommand_waits hsu ((wantsCommand_iff hsu).2 h) (mt (canReserve_iff hsu).1 hr)
    have hread : (s.setProcState (.waiting .completionSpace)).issueCplRead = _ := issueCplRead_held hsu
    exact congrArg Host.Outcome.next (((live_eq hlive).trans hwaits).trans hread)
  case refused =>
    exact congrArg Host.Outcome.next ((answer_awaited h rfl).trans (if_pos hrun))
  case ignored =>
    exact congrArg Host.Outcome.next ((answer_awaited h rfl).trans (if_neg hnot))
  case discarded =>
    obtain ⟨execute, hexec⟩ := exec_slot hi
    rw [hexec s, command_discarded h hnot]

/-! ### The completion queue -/

theorem rejected_iff (st : Status) : st.rejected = true ↔ st = .badKind ∨ st = .badArgument ∨ st = .badState := by
  cases st <;> simp [Status.rejected]

/-- The write of the completion at the front of the queue (R141). -/
theorem issueCompletion_writes {s : State} {c : Completion} {rest : List Completion} {su : SetupBlock}
    (hc : s.proc.completions = c :: rest) (hsu : s.proc.setup = some su) (h : s.inFlight .completionWrite = false) :
    s.issueCompletion = s.issueRequest .completionWrite (slotAddress su.cplRing su.cplSize.toNat 16 s.proc.cplProduced)
      (.write (completionBytes (phase su.cplSize.toNat s.proc.cplProduced) c)) := by
  simp [issueCompletion, hc, hsu, h]

theorem issueCompletion_none {s : State} (h : s.proc.completions = [] ∨ s.proc.setup = none ∨ s.inFlight .completionWrite = true) :
    s.issueCompletion = s := by
  unfold issueCompletion
  split
  case h_1 c rest su hc hsu => simp_all
  case h_2 => rfl

/-- The issue of a completion adds completion writes at most. -/
theorem issueCompletion_requests (s : State) :
    ∃ new, s.issueCompletion.requests = s.requests ++ new ∧ ∀ q ∈ new, q.issuer = .completionWrite := by
  unfold issueCompletion
  split
  · split
    · exact ⟨[], by simp, by simp⟩
    · exact ⟨_, rfl, by simp⟩
  · exact ⟨[], by simp, by simp⟩

/-- The completion signal: issued where the command asks for one and the setup names an address (R142). -/
theorem issueCplSignal_requests {s : State} {su : SetupBlock} (c : Completion) (h : s.proc.setup = some su) :
    ∃ signals, (s.issueCplSignal c).requests = s.requests ++ signals ∧
      (signals ≠ [] ↔ c.cmd.signal = true ∧ su.cplSignal ≠ 0) ∧
      ∀ q ∈ signals, q.issuer = .completionSignal ∧ q.address = su.cplSignal ∧
        q.access = .write (leBytes 4 su.signalData.toNat) := by
  by_cases hasked : c.cmd.signal = true ∧ su.cplSignal ≠ 0
  case pos =>
    have hissued : s.issueCplSignal c = s.issueRequest .completionSignal su.cplSignal (.write (leBytes 4 su.signalData.toNat)) := by
      simp only [issueCplSignal, h]
      exact if_pos (by simpa using hasked)
    exact ⟨_, congrArg State.requests hissued, iff_of_true (List.cons_ne_nil _ _) hasked, by simp⟩
  case neg =>
    have hnone : s.issueCplSignal c = s := by
      simp only [issueCplSignal, h]
      exact if_neg (by simpa using hasked)
    exact ⟨[], by rw [hnone, List.append_nil], iff_of_false (by simp) hasked, by simp⟩

theorem completionAnswer_done {s : State} {c : Completion} {rest : List Completion} (h : s.proc.completions = c :: rest) :
    s.completionAnswer .done =
      ((s.updProc fun p => { p with completions := rest, cplProduced := p.cplProduced + 1 }).issueCplSignal c).issueCompletion := by
  simp only [completionAnswer, h]

theorem completionAnswer_refused {s : State} {c : Completion} {rest : List Completion} (h : s.proc.completions = c :: rest) :
    s.completionAnswer .refused = ((s.updProc fun p => { p with completions := rest }).halt .cplWrite).issueCompletion := by
  simp only [completionAnswer, h]

/-- What a completion write's DONE answer leaves of the processor: the completion's slot is produced (R141). -/
theorem completionAnswer_done_proc {s : State} {c : Completion} {rest : List Completion} (h : s.proc.completions = c :: rest) :
    (s.completionAnswer .done).proc = { s.proc with completions := rest, cplProduced := s.proc.cplProduced + 1 } := by
  simp [completionAnswer_done h]

/-- The requests after a DONE completion write: the signal of that completion, then the next completion's write (R141, R142). -/
theorem completionAnswer_done_requests {s : State} {c : Completion} {rest : List Completion} {su : SetupBlock}
    (h : s.proc.completions = c :: rest) (hsu : s.proc.setup = some su) :
    ∃ signals writes, (s.completionAnswer .done).requests = s.requests ++ signals ++ writes ∧
      (signals ≠ [] ↔ c.cmd.signal = true ∧ su.cplSignal ≠ 0) ∧
      (∀ q ∈ signals, q.issuer = .completionSignal ∧ q.address = su.cplSignal ∧
        q.access = .write (leBytes 4 su.signalData.toNat)) ∧
      (∀ q ∈ writes, q.issuer = .completionWrite) ∧
      (s.inFlight .completionWrite = false → ∀ d later, rest = d :: later → ∃ q ∈ writes,
        q.address = slotAddress su.cplRing su.cplSize.toNat 16 (s.proc.cplProduced + 1) ∧
          q.access = .write (completionBytes (phase su.cplSize.toNat (s.proc.cplProduced + 1)) d)) := by
  rw [completionAnswer_done h]
  generalize hv : (s.updProc fun p => { p with completions := rest, cplProduced := p.cplProduced + 1 }) = v
  have hvproc : v.proc = { s.proc with completions := rest, cplProduced := s.proc.cplProduced + 1 } := by rw [← hv]; rfl
  have hvreq : v.requests = s.requests := by rw [← hv]; rfl
  obtain ⟨signals, hsig, hasked, hsignals⟩ := issueCplSignal_requests c (s := v) (su := su) (by rw [hvproc]; exact hsu)
  obtain ⟨writes, hreq, hwrites⟩ := issueCompletion_requests (v.issueCplSignal c)
  refine ⟨signals, writes, by rw [hreq, hsig, hvreq], hasked, hsignals, hwrites, fun hfree d later hrest => ?_⟩
  have hfree' : (v.issueCplSignal c).inFlight .completionWrite = false := by
    rw [not_inFlight_iff] at hfree ⊢
    intro q hq
    rw [hsig, hvreq, List.mem_append] at hq
    rcases hq with hold | hnew
    · exact hfree q hold
    · rw [(hsignals q hnew).1]
      decide
  have hwrite := issueCompletion_writes (s := v.issueCplSignal c) (su := su) (c := d) (rest := later)
    (by simp [hvproc, hrest]) (by simp [hvproc, hsu]) hfree'
  rw [hwrite, issueRequest_requests, List.append_cancel_left_eq] at hreq
  exact ⟨_, hreq ▸ List.mem_singleton_self _, by simp [hvproc], by simp [hvproc]⟩

/-- The DONE answer of a completion write, in the words of the statement (R141, R142). -/
theorem completionWrite_done {s : State} {id : Nat} {c : Completion} {rest : List Completion} {su : SetupBlock}
    (hc : s.proc.completions = c :: rest) (hsu : s.proc.setup = some su) :
    let u := s.endRequest id
    let t := u.completionAnswer .done
    Issues s t id [.completionSignal, .completionWrite] ∧
      (u.inFlight .completionSignal = false →
        ((∃ q ∈ t.requests, q.issuer = .completionSignal) ↔ c.cmd.signal = true ∧ su.cplSignal ≠ 0) ∧
        ∀ q ∈ t.requests, q.issuer = .completionSignal →
          q.address = su.cplSignal ∧ q.access = .write (leBytes 4 su.signalData.toNat)) ∧
      (u.inFlight .completionWrite = false → ∀ d later, rest = d :: later →
        ∃ q ∈ t.requests, q.issuer = .completionWrite ∧
          q.address = slotAddress su.cplRing su.cplSize.toNat 16 (s.proc.cplProduced + 1) ∧
          q.access = .write (completionBytes (phase su.cplSize.toNat (s.proc.cplProduced + 1)) d)) := by
  intro u t
  obtain ⟨signals, writes, hreq, hasked, hsignals, hwrites, hnext⟩ := completionAnswer_done_requests (s := u) hc hsu
  have hmem : ∀ q, q ∈ t.requests ↔ (q ∈ u.requests ∨ q ∈ signals) ∨ q ∈ writes := by simp [t, hreq, or_assoc]
  refine ⟨⟨signals ++ writes, by rw [← List.append_assoc]; exact hreq, ?issuers⟩, fun hfree => ?signal, fun hfree d later hd => ?next⟩
  case issuers =>
    intro q hq
    rcases List.mem_append.1 hq with hsig | hwrite
    · simp [(hsignals q hsig).1]
    · simp [hwrites q hwrite]
  case signal =>
    have hnew : ∀ q ∈ t.requests, q.issuer = .completionSignal → q ∈ signals := by
      intro q hq hissuer
      rcases (hmem q).1 hq with (hold | hsig) | hwrite
      · exact absurd hissuer ((not_inFlight_iff u _).1 hfree q hold)
      · exact hsig
      · exact absurd (hissuer.symm.trans (hwrites q hwrite)) (by decide)
    refine ⟨?_, fun q hq hissuer => (hsignals q (hnew q hq hissuer)).2⟩
    rw [← hasked]
    refine ⟨fun ⟨q, hq, hissuer⟩ => List.ne_nil_of_mem (hnew q hq hissuer), fun hne => ?_⟩
    obtain ⟨q, hq⟩ := List.exists_mem_of_ne_nil _ hne
    exact ⟨q, (hmem q).2 (.inl (.inr hq)), (hsignals q hq).1⟩
  case next =>
    obtain ⟨q, hq, haddress, haccess⟩ := hnext hfree d later hd
    exact ⟨q, (hmem q).2 (.inr hq), hwrites q hq, haddress, haccess⟩

/-- Settles O48: `pushCompletion` by the state of the queue, the DONE answer by `completionWrite_done`. -/
theorem completions : Obligations.Completions := by
  refine ⟨fun s cmd status result => ⟨?rejection, ?joins, ?only, ?written, ?unwritten⟩,
    fun s id c rest su h hc hsu => ⟨?done, ?refused⟩,
    fun s id h => ⟨congrArg Host.Outcome.next (answer_awaited h rfl), congrArg Host.Outcome.next (answer_awaited h rfl)⟩⟩
  case rejection =>
    simp only [complete, rejected_iff]
    rfl
  case joins => exact pushCompletion_proc s _
  case only => simp [OnlyCommandPath, fieldSide, accounts, bundles, assembler, window, own]
  case written =>
    intro su hsu hempty hfree
    have hwrite := issueCompletion_writes (s := s.updProc fun p => { p with completions := p.completions ++ [⟨cmd, status, result⟩] })
      (c := ⟨cmd, status, result⟩) (rest := []) (by simp [hempty]) (su := su) hsu hfree
    exact congrArg State.requests hwrite
  case unwritten =>
    intro h
    have hnone := issueCompletion_none
      (s := s.updProc fun p => { p with completions := p.completions ++ [⟨cmd, status, result⟩] }) (.inr h.symm)
    exact (congrArg State.requests hnone).trans rfl
  case done =>
    refine ⟨(s.endRequest id).completionAnswer .done, congrArg Host.Outcome.next (answer_awaited h rfl), ?_,
      completionAnswer_done_proc (s := s.endRequest id) hc, completionWrite_done hc hsu⟩
    rw [completionAnswer_done (s := s.endRequest id) hc]
    simp [OnlyCommandPath, fieldSide, accounts, bundles, assembler, window, own]
  case refused =>
    exact congrArg Host.Outcome.next ((answer_awaited h rfl).trans (completionAnswer_refused (s := s.endRequest id) hc))

end Sys2Proof.Machine

/-! The statements on the completion consumer word, the setup, halts and CMD_PRODUCER (R133, R136, R138, R147). -/
namespace Sys2Proof.Machine

open State

/-! ### Halting -/

theorem halt_fresh {s : State} (reason : HaltReason) (h : ∀ why, s.proc.state ≠ .halted why) :
    s.halt reason =
      (s.updProc fun p => { p with state := .halted reason }).accept Config.commandPath (sourceDetail reason.code) := by
  unfold halt
  split
  case h_1 why hwhy => exact absurd hwhy (h why)
  all_goals rfl

/-- A HALTED processor stays as it is (R147). -/
theorem halt_halted {s : State} (reason : HaltReason) (h : ∃ why, s.proc.state = .halted why) : s.halt reason = s := by
  obtain ⟨why, hwhy⟩ := h
  simp only [halt, hwhy]

/-! ### The completion consumer word -/

/-- An answer that reaches a HALTED processor is discarded (R138). -/
theorem cplConsumerAnswer_halted {s : State} (answer : ReadAnswer) (h : ∃ why, s.proc.state = .halted why) :
    s.cplConsumerAnswer answer = s := by
  obtain ⟨why, hwhy⟩ := h
  simp only [cplConsumerAnswer, hwhy]

theorem cplConsumerAnswer_refused {s : State} (h : ∀ why, s.proc.state ≠ .halted why) :
    s.cplConsumerAnswer .refused = s.halt .badCplConsumer := by
  unfold cplConsumerAnswer
  split
  case h_1 why hwhy => exact absurd hwhy (h why)
  all_goals rfl

/-- The value read is within the produced index, at most the write outstanding beyond it, or bad (R138). -/
theorem cplConsumerAnswer_done {s : State} (v : Word) (h : ∀ why, s.proc.state ≠ .halted why) :
    s.cplConsumerAnswer (.done v) =
      if (v - s.proc.cplConsumed).toNat ≤ (s.proc.cplProduced - s.proc.cplConsumed).toNat then s.cplConsumedMoved v
      else if (v - s.proc.cplProduced).toNat ≤ s.outstanding .completionWrite then s.cplConsumedMoved s.proc.cplProduced
      else s.halt .badCplConsumer := by
  unfold cplConsumerAnswer
  split
  case h_1 why hwhy => exact absurd hwhy (h why)
  all_goals rfl

/-- Settles O49: the three ranges of `cplConsumerAnswer_done`, and the two branches of `cplConsumedMoved`. -/
theorem completionConsumerAnswer : Obligations.CompletionConsumerAnswer := by
  refine ⟨fun s id h => ?_, fun s v => ⟨fun hwait hroom => if_pos ⟨hwait, hroom⟩, fun h => if_neg ?judged⟩⟩
  case judged =>
    rintro ⟨hwait, hroom⟩
    rcases h with hnot | hfull
    · exact hnot hwait
    · exact Bool.false_ne_true (hfull.symm.trans hroom)
  have hexec (answer : ReadAnswer) :
      exec (.completionConsumerReadAnswer id answer) s = .next ((s.endRequest id).cplConsumerAnswer answer) :=
    congrArg Host.Outcome.next (answer_awaited h rfl)
  refine ⟨fun hhalted answer => ?discarded, fun hlive => ?judged⟩
  case discarded => rw [hexec, cplConsumerAnswer_halted (s := s.endRequest id) answer hhalted]
  case judged =>
    have hdone (v : Word) : exec (.completionConsumerReadAnswer id (.done v)) s = .next (
        if (v - s.proc.cplConsumed).toNat ≤ (s.proc.cplProduced - s.proc.cplConsumed).toNat then (s.endRequest id).cplConsumedMoved v
        else if (v - s.proc.cplProduced).toNat ≤ (s.endRequest id).outstanding .completionWrite then
          (s.endRequest id).cplConsumedMoved s.proc.cplProduced
        else (s.endRequest id).halt .badCplConsumer) :=
      (hexec _).trans (congrArg Host.Outcome.next (cplConsumerAnswer_done (s := s.endRequest id) v hlive))
    refine ⟨fun v hv => ?within, fun v hv hw => ?early, fun v hv hw => ?bad, ?refused⟩
    case within => rw [hdone, if_pos hv]
    case early => rw [hdone, if_neg (Nat.not_le.2 hv), if_pos hw]
    case bad => rw [hdone, if_neg (Nat.not_le.2 hv), if_neg (Nat.not_le.2 hw)]
    case refused => rw [hexec, cplConsumerAnswer_refused (s := s.endRequest id) hlive]

/-! ### The setup -/

/-- A power of two from 16 to 4096 is 16 times a power of two with exponent 0 to 8. -/
theorem ringSizeOk_iff (n : Nat) : ringSizeOk n = true ↔ ∃ k, k ≤ 8 ∧ n = 16 * 2 ^ k := by
  simp only [ringSizeOk, List.contains_iff_mem]
  constructor
  case mp =>
    intro h
    simp only [List.mem_cons, List.not_mem_nil, or_false] at h
    rcases h with h | h | h | h | h | h | h | h | h
    exacts [⟨0, by omega, h⟩, ⟨1, by omega, h⟩, ⟨2, by omega, h⟩, ⟨3, by omega, h⟩, ⟨4, by omega, h⟩, ⟨5, by omega, h⟩,
      ⟨6, by omega, h⟩, ⟨7, by omega, h⟩, ⟨8, by omega, h⟩]
  case mpr =>
    rintro ⟨k, hk, rfl⟩
    interval_cases k <;> decide

theorem aligned_iff (n : Nat) (x : Addr) : aligned n x = true ↔ x.toNat % n = 0 := beq_iff_eq

theorem setupValid_iff (b : SetupBlock) : setupValid b = true ↔
    (∃ k, k ≤ 8 ∧ b.cmdSize.toNat = 16 * 2 ^ k) ∧ (∃ k, k ≤ 8 ∧ b.cplSize.toNat = 16 * 2 ^ k) ∧
      b.cmdRing.toNat % (b.cmdSize.toNat * 32) = 0 ∧ b.cplRing.toNat % (b.cplSize.toNat * 16) = 0 ∧
      b.cplConsumer.toNat % 4 = 0 ∧ b.cplSignal.toNat % 4 = 0 := by
  simp only [setupValid, Bool.and_eq_true, ringSizeOk_iff, aligned_iff, and_assoc]

theorem setupAnswer_invalid {s : State} {b : SetupBlock} (h : setupValid b = false) : s.setupAnswer (.done b) = s.halt .badSetup := by
  simp [setupAnswer, h]

theorem setupAnswer_valid {s : State} {b : SetupBlock} (h : setupValid b = true) : s.setupAnswer (.done b) = s.loadSetup b :=
  if_pos h

/-- The stored CMD_PRODUCER fails the check against a setup just loaded (R136). -/
theorem loadSetup_badProducer {s : State} {b : SetupBlock} (h : b.cmdSize.toNat < (s.proc.producer - s.proc.taken).toNat) :
    s.loadSetup b = (s.updProc fun p => { p with setup := some b }).halt .badProducer := by
  have hbad : ¬ producerOk b s.proc.producer s.proc.taken = true := by simpa [producerOk] using h
  exact if_neg hbad

/-- A setup that passes the check starts the processor, ENABLE willing (R133, R148). -/
theorem loadSetup_starts {s : State} {b : SetupBlock} (h : (s.proc.producer - s.proc.taken).toNat ≤ b.cmdSize.toNat)
    (hlive : ∀ why, s.proc.state ≠ .halted why) :
    s.loadSetup b = s.updProc fun p => { p with setup := some b, state := if s.enable then .running else .stopped } := by
  have hok : producerOk b s.proc.producer s.proc.taken = true := by simpa [producerOk] using h
  simp only [loadSetup, updProc_proc, hok, if_true]
  split
  case h_1 why hwhy => exact absurd hwhy (hlive why)
  all_goals rfl

/-- A HALTED processor holds the setup and stays HALTED, whether the check passes or not (log 24). -/
theorem loadSetup_halted {s : State} {b : SetupBlock} (h : ∃ why, s.proc.state = .halted why) :
    s.loadSetup b = s.updProc fun p => { p with setup := some b } := by
  have hhalt (reason : HaltReason) := halt_halted (s := s.updProc fun p => { p with setup := some b }) reason h
  obtain ⟨why, hwhy⟩ := h
  simp only [loadSetup, updProc_proc, hwhy, hhalt, ite_self]

/-- Settles O50: the setup's answers by the checks, and `halt` by whether the processor is HALTED already. -/
theorem setupAndHalt : Obligations.SetupAndHalt := by
  refine ⟨⟨fun s id h => ?answers, setupValid_iff, fun s => ⟨fun h => if_pos (beq_iff_eq.2 h), fun h => if_neg (mt beq_iff_eq.1 h)⟩⟩,
    fun s reason => ⟨fun h => ⟨halt_fresh reason h, ?haltProc⟩, halt_halted reason⟩⟩
  case haltProc =>
    rw [halt_fresh reason h]
    simp
  case answers =>
    have hexec (answer : SetupAnswer) : exec (.setupReadAnswer id answer) s = .next ((s.endRequest id).setupAnswer answer) :=
      congrArg Host.Outcome.next (answer_awaited h rfl)
    have hload {b : SetupBlock} (hb : setupValid b = true) :
        exec (.setupReadAnswer id (.done b)) s = .next ((s.endRequest id).loadSetup b) := by
      rw [hexec, setupAnswer_valid hb]
    refine ⟨hexec .refused, fun b hb => ?_, fun b hb hok hlive => ?_, fun b hb hhalted => ?_, fun b hb hbad => ?_⟩
    · rw [hexec, setupAnswer_invalid hb]
    · rw [hload hb, loadSetup_starts (s := s.endRequest id) hok hlive]; rfl
    · rw [hload hb, loadSetup_halted (s := s.endRequest id) hhalted]
    · rw [hload hb, loadSetup_badProducer (s := s.endRequest id) hbad]

/-! ### CMD_PRODUCER and CPL_REFRESH -/

theorem refreshCompletions_halted {s : State} (h : ∃ why, s.proc.state = .halted why) : s.refreshCompletions = s := by
  obtain ⟨why, hwhy⟩ := h
  simp only [refreshCompletions, hwhy]

theorem refreshCompletions_live {s : State} (h : ∀ why, s.proc.state ≠ .halted why) : s.refreshCompletions = s.issueCplRead := by
  unfold refreshCompletions
  split
  case h_1 why hwhy => exact absurd hwhy (h why)
  all_goals rfl

theorem issueCplRead_unheld {s : State} (h : s.proc.setup = none) : s.issueCplRead = s := by
  simp only [issueCplRead, h]

/-- A write is only stored while HALTED, or with no setup held (R136). -/
theorem producerWrite_stored {s : State} (value : Word) (h : (∃ why, s.proc.state = .halted why) ∨ s.proc.setup = none) :
    s.producerWrite value = s.updProc fun p => { p with producer := value } := by
  rcases h with ⟨why, hwhy⟩ | hsu
  · simp only [producerWrite, updProc_proc, hwhy]
  · cases hstate : s.proc.state <;> simp only [producerWrite, updProc_proc, hstate, hsu]

/-- A write checked against the setup (R136). -/
theorem producerWrite_checked {s : State} {su : SetupBlock} (value : Word) (h : ∀ why, s.proc.state ≠ .halted why)
    (hsu : s.proc.setup = some su) :
    let u := s.updProc fun p => { p with producer := value }
    s.producerWrite value =
      if su.cmdSize.toNat < (value - s.proc.taken).toNat then u.halt .badProducer
      else if value = s.proc.producer then u
      else u.producerPassed := by
  cases hstate : s.proc.state with
  | halted why => exact absurd hstate (h why)
  | stopped | running | waiting => simp [producerWrite, hstate, hsu, producerOk]

theorem producerPassed_else {s : State} (h : s.proc.state ≠ .waiting .completionSpace) : s.producerPassed = s := if_neg h

/-- A processor that waits for completion space reads the word, and is RUNNING again with no command left to take (R135, log 14). -/
theorem producerPassed_waiting {s : State} (h : s.proc.state = .waiting .completionSpace) :
    s.producerPassed =
      if s.proc.producer = s.proc.taken then s.issueCplRead.updProc fun p => { p with state := .running } else s.issueCplRead := by
  unfold producerPassed
  rw [if_pos h]
  simp [setProcState]

/-- Settles O52: `producerWrite_checked` and `producerPassed` on the state with the value stored. -/
theorem producerAndRefresh : Obligations.ProducerAndRefresh := by
  intro s value hlive
  have hwrite : exec (.cmdProducer value) s = .next (s.producerWrite value) := congrArg Host.Outcome.next (live_eq hlive)
  have hrefresh : exec .cplRefresh s = .next s.refreshCompletions := congrArg Host.Outcome.next (live_eq hlive)
  refine ⟨fun h => by rw [hwrite, producerWrite_stored value h], fun hnot su hsu => ?checked, fun h => ?quiet,
    fun hnot su hsu => ?refreshed⟩
  case quiet =>
    rw [hrefresh]
    by_cases hhalted : ∃ why, s.proc.state = .halted why
    case pos => rw [refreshCompletions_halted hhalted]
    case neg => rw [refreshCompletions_live (not_exists.1 hhalted), issueCplRead_unheld (h.resolve_left hhalted)]
  case refreshed => rw [hrefresh, refreshCompletions_live hnot, issueCplRead_held hsu]
  case checked =>
    generalize hu : (s.updProc fun p => { p with producer := value }) = u
    have hstate : u.proc.state = s.proc.state := by rw [← hu]; rfl
    have hproducer : u.proc.producer = value := by rw [← hu]; rfl
    have htaken : u.proc.taken = s.proc.taken := by rw [← hu]; rfl
    have hsetup : u.proc.setup = some su := by rw [← hu]; exact hsu
    have hread : u.issueCplRead = if s.inFlight .completionConsumerRead then u
        else u.issueRequest .completionConsumerRead su.cplConsumer (.read 4) := by
      rw [issueCplRead_held hsetup, ← hu]
      rfl
    have hchecked := producerWrite_checked value hnot hsu
    rw [hu] at hchecked
    refine ⟨fun hbad => ?bad, fun hok h => ?same, fun hok hwait hne hleft => ?waits, fun hwait hne hnone => ?runs⟩
    case bad => rw [hwrite, hchecked, if_pos hbad]
    case same =>
      rw [hwrite, hchecked, if_neg (Nat.not_lt.2 hok)]
      rcases h with hstill | hsame
      · rw [producerPassed_else (hstate ▸ hstill), ite_self]
      · rw [if_pos hsame]
    case waits =>
      rw [hwrite, hchecked, if_neg (Nat.not_lt.2 hok), if_neg hne, producerPassed_waiting (hstate.trans hwait), hproducer, htaken,
        if_neg hleft, hread]
    case runs =>
      have hok : ¬ su.cmdSize.toNat < (value - s.proc.taken).toNat := by simp [hnone]
      rw [hwrite, hchecked, if_neg hok, if_neg hne, producerPassed_waiting (hstate.trans hwait), hproducer, htaken, if_pos hnone, hread]

end Sys2Proof.Machine

/-! The statements on signals, ATTENTION and space wanted (R115, R119, R120, R121, R122). -/
namespace Sys2Proof.Machine

open State

/-! ### Targets in service -/

theorem inService_iff (x : Target) : x.inService = true ↔ x.state = .active ∨ x.state = .quiesced := by
  simp [Target.inService]

theorem not_inService_iff (x : Target) : ¬ x.inService = true ↔ x.state = .detached ∨ x.state = .faulted := by
  rw [inService_iff]
  cases x.state <;> simp

theorem timer_start_half (x : Half) : Timer.start x.toNat = if x = 0 then .stopped else .running x.toNat := by
  simp only [Timer.start, ← BitVec.toNat_inj]
  rfl

/-- Two updates that give a target the same context are the same update. -/
theorem updTarget_congr {s : State} {k : TargetId} {f g : Target → Target} (h : f (s.target k) = g (s.target k)) :
    s.updTarget k f = s.updTarget k g := by
  simp only [updTarget, h]

@[simp] theorem updTarget_consumerReadInFlight (s : State) (k t : TargetId) (f : Target → Target) :
    (s.updTarget k f).consumerReadInFlight t = s.consumerReadInFlight t := rfl

/-! ### Space wanted -/

theorem shortOfSpace_iff (s : State) (k : TargetId) :
    s.shortOfSpace k = true ↔ ∃ b, (s.config b).target = some k ∧ s.waitingReason b = .ringFull := by
  simp [shortOfSpace, allBundles]

/-- Space wanted that is as it should be stays (R115). -/
theorem rejudgeSpace_same {s : State} {k : TargetId} (h : s.shortOfSpace k = (s.target k).spaceWanted) : s.rejudgeSpace k = s := by
  simp [rejudgeSpace, h]

theorem rejudgeSpace_becomes_yes {s : State} {k : TargetId} (h : s.shortOfSpace k = true) (hw : (s.target k).spaceWanted = false) :
    s.rejudgeSpace k =
      (s.updTarget k fun x => { x with spaceWanted := true, pollTimer := .start x.pollInterval.toNat }).issueConsumerRead k := by
  simp [rejudgeSpace, h, hw]

theorem rejudgeSpace_becomes_no {s : State} {k : TargetId} (h : s.shortOfSpace k = false) (hw : (s.target k).spaceWanted = true) :
    s.rejudgeSpace k = s.updTarget k fun x => { x with spaceWanted := false, pollTimer := .stopped } := by
  simp [rejudgeSpace, h, hw]

/-- What the re-judging of space wanted can do to a state (R115). -/
theorem rejudgeSpace_cases (s : State) (k : TargetId) {P : State → Prop} (same : P s)
    (yes : P ((s.updTarget k fun x => { x with spaceWanted := true, pollTimer := .start x.pollInterval.toNat }).issueConsumerRead k))
    (no : P (s.updTarget k fun x => { x with spaceWanted := false, pollTimer := .stopped })) : P (s.rejudgeSpace k) := by
  unfold rejudgeSpace
  split
  · exact yes
  · split
    · exact no
    · exact same

/-- A consumer-word read is issued, or one is in flight (R115). -/
theorem issueConsumerRead_eq (s : State) (k : TargetId) :
    s.issueConsumerRead k = if s.consumerReadInFlight k = true then s
      else s.issueRequest (.consumerRead k) (s.target k).consumerAddress (.read 4) := rfl

theorem issueConsumerRead_inFlight (s : State) (k : TargetId) : (s.issueConsumerRead k).consumerReadInFlight k = true := by
  rw [issueConsumerRead_eq]
  split
  case isTrue h => exact h
  case isFalse => simp [consumerReadInFlight, inFlight_issueRequest]

/-! ### Signals -/

theorem signalRules_unserved {s : State} {k : TargetId} (h : ¬ ((s.target k).inService = true ∧ (s.target k).armed = true)) :
    s.signalRules k = s := by
  unfold signalRules
  exact if_neg (by simpa using h)

theorem signalRules_issues {s : State} {k : TargetId} (h : (s.target k).inService = true ∧ (s.target k).armed = true)
    (ht : (s.target k).holdoffTimer = .stopped) : s.signalRules k = s.issueSignal k := by
  simp [signalRules, h, ht]

/-- While the holdoff timer runs the signal is owed (R119). -/
theorem signalRules_owes {s : State} {k : TargetId} (h : (s.target k).inService = true ∧ (s.target k).armed = true)
    (ht : (s.target k).holdoffTimer ≠ .stopped) : s.signalRules k = s.updTarget k fun y => { y with signalOwed := true } := by
  obtain ⟨left, hleft⟩ : ∃ left, (s.target k).holdoffTimer = .running left := by
    cases hx : (s.target k).holdoffTimer with
    | stopped => exact absurd hx ht
    | running left => exact ⟨left, rfl⟩
  simp [signalRules, h, hleft]

theorem mine_signal (k : TargetId) : (allTargets.any fun t => Issuer.signal k == Issuer.signal t) = true := by
  simp [allTargets]

theorem mine_consumerRead (k : TargetId) : (allTargets.any fun t => Issuer.consumerRead k == Issuer.consumerRead t) = true := by
  simp [allTargets]

/-- Settles O45: the branches of `signalRules`, the fields of `issueSignal`, and the two rows. -/
theorem signals : Obligations.Signals := by
  refine ⟨fun s k => ⟨fun h => ?unserved, fun h ht => ?issues, fun h ht => ?owes, ?target, fun m hm => ?others, ?outstanding, rfl,
    rfl, rfl, rfl, rfl, rfl⟩, fun s id k h => ⟨?done, ?refused⟩, fun s k hlive hdue => ⟨fun howed => ?owed, fun hnot => ?quiet⟩⟩
  case unserved => exact signalRules_unserved (by rwa [inService_iff])
  case issues => exact signalRules_issues (by rwa [inService_iff]) ht
  case owes => exact signalRules_owes (by rwa [inService_iff]) ht
  case target => simp [issueSignal, timer_start_half]
  case others => simp only [issueSignal, issueRequest_target, updTarget_target_ne _ _ hm]
  case outstanding => simp [issueSignal, signalWritesOutstanding, outstanding, List.countP_append]
  case done | refused => exact congrArg Host.Outcome.next (answer_awaited h (mine_signal k))
  case owed | quiet =>
    have hexpires : exec (.holdoffTimerExpiry k) s = .next (s.holdoffExpires k) := congrArg Host.Outcome.next (live_eq hlive)
    rw [hexpires, holdoffExpires, if_pos hdue]
    simp [*]

/-! ### ATTENTION -/

theorem refreshTarget_reads {s : State} {k : TargetId} (h : (s.target k).inService = true) (hp : (s.target k).detachPending = false) :
    s.refreshTarget k = s.issueConsumerRead k := by
  simp [refreshTarget, h, hp]

theorem refreshTarget_nothing {s : State} {k : TargetId}
    (h : ¬ (s.target k).inService = true ∨ (s.target k).detachPending = true ∨ s.consumerReadInFlight k = true) :
    s.refreshTarget k = s := by
  unfold refreshTarget issueConsumerRead
  rcases h with h | h | h <;> simp [h]

theorem rearmTarget_unserved {s : State} {k : TargetId} (refresh : Bool) (h : ¬ (s.target k).inService = true) :
    s.rearmTarget refresh k = s := if_neg h

theorem rearmTarget_alone {s : State} {k : TargetId} (h : (s.target k).inService = true) :
    s.rearmTarget false k = (s.updTarget k fun x => { x with armed := true }).rearmCheck k := if_pos h

/-- REARM with REFRESH waits for the read, if one is in flight then (R122). -/
theorem rearmTarget_refreshes {s : State} {k : TargetId} (h : (s.target k).inService = true) :
    let v := (s.updTarget k fun x => { x with armed := true }).refreshTarget k
    s.rearmTarget true k =
      if v.consumerReadInFlight k then v.updTarget k fun x => { x with rearmCheckPending := true } else v.rearmCheck k := if_pos h

theorem rearmCheck_eq (s : State) (k : TargetId) :
    s.rearmCheck k = if (s.target k).produced ≠ (s.target k).consumed then s.signalRules k else s := by
  simp [rearmCheck]

theorem attentionTargets_one {code : BitVec 4} {k : TargetId} (h : code.toNat = k.val) : attentionTargets code = [k] := by
  have hk := k.isLt
  simp [attentionTargets, h]

theorem attentionTargets_all : attentionTargets 15 = [0, 1, 2, 3, 4, 5] := by decide

theorem attentionTargets_none {code : BitVec 4} (h : 6 ≤ code.toNat) (h' : code.toNat ≤ 14) : attentionTargets code = [] := by
  have hall : code ≠ 0xF#4 := by
    rintro rfl
    exact absurd h' (by decide)
  simp [attentionTargets, Nat.not_lt.2 h, hall]

/-- Settles O46: REFRESH and REARM on one target, the targets of a code, and the branches of `rejudgeSpace` and `pollExpires`. -/
theorem attentionAndSpace : Obligations.AttentionAndSpace := by
  refine ⟨⟨fun s k => ⟨fun ⟨hs, hp, hr⟩ => ?refreshReads, fun h => ?refreshNothing, fun h refresh => ?rearmUnserved, fun h => ?rearm⟩,
    fun s code refresh hlive => ?named⟩, fun s k => ⟨shortOfSpace_iff s k, rejudgeSpace_same, fun h hw => ?yes, rejudgeSpace_becomes_no⟩,
    fun s k hlive hdue => ?poll⟩
  case refreshReads =>
    rw [refreshTarget_reads ((inService_iff _).2 hs) hp, issueConsumerRead_eq, if_neg (by simp [hr])]
  case refreshNothing => exact refreshTarget_nothing (by rwa [not_inService_iff])
  case rearmUnserved => exact rearmTarget_unserved refresh ((not_inService_iff _).2 h)
  case rearm =>
    have hs := (inService_iff _).2 h
    have hs' : ((s.updTarget k fun x => { x with armed := true }).target k).inService = true := by simpa [Target.inService] using hs
    refine ⟨fun hunread => ?_, fun hread => ?_, fun hr => ?_, fun hp hr => ?_⟩
    · rw [rearmTarget_alone hs, rearmCheck_eq, if_pos (by simpa using hunread)]
    · rw [rearmTarget_alone hs, rearmCheck_eq, if_neg (by simpa using hread)]
    · rw [rearmTarget_refreshes hs, if_pos]
      rcases hr with hp | hr
      · rw [refreshTarget_reads hs' (by simpa using hp)]
        exact issueConsumerRead_inFlight _ k
      · rw [refreshTarget_nothing (s := s.updTarget k _) (.inr (.inr hr))]
        exact hr
    · have hnothing : (s.updTarget k fun x => { x with armed := true }).refreshTarget k = s.updTarget k fun x => { x with armed := true } :=
        refreshTarget_nothing (.inr (.inl (by simpa using hp)))
      rw [rearmTarget_refreshes hs, rearmTarget_alone hs, hnothing, if_neg]
      simpa using hr
  case named =>
    have hrefresh : exec (.attentionRefresh code) s = .next ((attentionTargets code).foldl refreshTarget s) :=
      congrArg Host.Outcome.next (live_eq hlive)
    have hrearm : exec (.attentionRearm code refresh) s = .next ((attentionTargets code).foldl (rearmTarget refresh) s) :=
      congrArg Host.Outcome.next (live_eq hlive)
    rw [hrefresh, hrearm]
    refine ⟨fun k hk => ?_, fun hall => ?_, fun h h' => ?_⟩
    · rw [attentionTargets_one hk]; exact ⟨rfl, rfl⟩
    · rw [hall, attentionTargets_all]; exact ⟨rfl, rfl⟩
    · rw [attentionTargets_none h h']; exact ⟨rfl, rfl⟩
  case yes =>
    rw [rejudgeSpace_becomes_yes h hw]
    congr 1
    exact updTarget_congr (by simp only [timer_start_half])
  case poll =>
    have hexpires : exec (.pollTimerExpiry k) s = .next (s.pollExpires k) := congrArg Host.Outcome.next (live_eq hlive)
    have htimer : ∀ y : Target, (if y.spaceWanted = true then Timer.start y.pollInterval.toNat else .stopped) =
        if y.spaceWanted = true ∧ y.pollInterval ≠ 0 then .running y.pollInterval.toNat else .stopped := by
      intro y
      rw [timer_start_half]
      by_cases hw : y.spaceWanted = true <;> by_cases hz : y.pollInterval = 0 <;> simp [hw, hz]
    rw [hexpires, pollExpires, if_pos hdue]
    simp only [htimer, issueConsumerRead_eq, updTarget_consumerReadInFlight, updTarget_target_self, Bool.and_eq_true,
      Bool.not_eq_true', inService_iff]
    by_cases hs : ((s.target k).state = .active ∨ (s.target k).state = .quiesced) ∧ (s.target k).detachPending = false
    case pos => cases hr : s.consumerReadInFlight k <;> simp [hs]
    case neg => rw [if_neg hs, if_neg fun h => hs ⟨h.1, h.2.1⟩]

end Sys2Proof.Machine

/-! The facts of the layer that the statements on commands and targets share: arguments, the command in hand, space wanted. -/
namespace Sys2Proof.Machine

open State

/-! ### Arguments -/

theorem targetArg_of {x : Byte} {k : TargetId} (h : x.toNat = k.val) : targetArg x = some k := by
  have hlt : x.toNat < 6 := h ▸ k.isLt
  rw [targetArg, dif_pos hlt]
  exact congrArg some (Fin.ext h)

theorem targetArg_none {x : Byte} (h : 5 < x.toNat) : targetArg x = none := dif_neg (by omega)

theorem bundleArg_of {x : Byte} {b : BundleId} (h : x.toNat = b.val) : bundleArg x = some b := by
  have hlt : x.toNat < 48 := h ▸ b.isLt
  rw [bundleArg, dif_pos hlt]
  exact congrArg some (Fin.ext h)

theorem bundleArg_none {x : Byte} (h : 47 < x.toNat) : bundleArg x = none := dif_neg (by omega)

theorem replyArgOk_iff (x : Addr) : replyArgOk x = true ↔ x ≠ 0 ∧ x.toNat % 8 = 0 := by
  simp [replyArgOk]

/-! ### The command in hand -/

/-- A command that waits for an answer keeps the processor's state (R135). -/
theorem holdInHand_asking (s : State) (h : Hand) : s.holdInHand h none = s.updProc fun p => { p with hand := some h } := by
  cases hs : s.proc.state <;> simp [holdInHand, updProc, hs]

theorem holdInHand_waiting {s : State} (h : Hand) (c : WaitCause) (hrun : s.proc.state = .running) :
    s.holdInHand h (some c) = s.updProc fun p => { p with hand := some h, state := .waiting c } := by
  simp [holdInHand, updProc, hrun]

theorem handDone_proc (s : State) : s.handDone.proc = { s.proc with hand := none, state := s.handDone.proc.state } := rfl

theorem handDone_halted {s : State} (h : ∃ why, s.proc.state = .halted why) : s.handDone.proc.state = s.proc.state := by
  obtain ⟨why, hwhy⟩ := h
  simp [handDone, hwhy]

/-- Outside HALTED, ENABLE decides (R135, R148). -/
theorem handDone_live {s : State} (h : ∀ why, s.proc.state ≠ .halted why) :
    s.handDone.proc.state = if s.enable then .running else .stopped := by
  cases hs : s.proc.state with
  | halted why => exact absurd hs (h why)
  | stopped | running | waiting => simp [handDone, hs]

/-- The command in hand completes: its completion joins the queue and the hand is empty. -/
theorem completeHand_proc (s : State) (c : CmdId) (st : Status) (v : BitVec 64) :
    (s.complete c st v).handDone.proc.hand = none ∧
      (s.complete c st v).handDone.proc.completions = s.proc.completions ++ [⟨c, st, v⟩] ∧
      (s.complete c st v).handDone.proc.deferred = s.proc.deferred := by
  rw [handDone_proc, complete_proc]
  exact ⟨rfl, rfl, rfl⟩

/-! ### Space wanted -/

/-- A waiting reason is worked out from the bundle and what counts of its target (R63, R113, R114). -/
theorem waitingReason_congr {s t : State} {b : BundleId} (hc : t.config b = s.config b) (hs : (t.run b).state = (s.run b).state)
    (hd : (t.run b).reminderDue = (s.run b).reminderDue) (ht : ∀ k, (t.target k).countedState = (s.target k).countedState)
    (hf : ∀ k, (t.target k).freeSlots = (s.target k).freeSlots) : t.waitingReason b = s.waitingReason b := by
  simp only [waitingReason, slotThreshold, hc, hs, hd, ht, hf]

theorem shortOfSpace_congr {s t : State} (hc : ∀ b, t.config b = s.config b) (hs : ∀ b, (t.run b).state = (s.run b).state)
    (hd : ∀ b, (t.run b).reminderDue = (s.run b).reminderDue) (ht : ∀ k, (t.target k).countedState = (s.target k).countedState)
    (hf : ∀ k, (t.target k).freeSlots = (s.target k).freeSlots) (k : TargetId) : t.shortOfSpace k = s.shortOfSpace k := by
  have hreason b := waitingReason_congr (hc b) (hs b) (hd b) ht hf
  simp only [shortOfSpace, hc, hreason]

theorem shortOfSpace_of_eq {s t : State} (hc : t.bundleConfig = s.bundleConfig) (hr : t.bundleRun = s.bundleRun)
    (ht : t.targets = s.targets) (k : TargetId) : t.shortOfSpace k = s.shortOfSpace k := by
  refine shortOfSpace_congr ?_ ?_ ?_ ?_ ?_ k <;> simp [config, run, target, hc, hr, ht]

theorem rejudgeSpace_target_ne (s : State) {k m : TargetId} (h : m ≠ k) : (s.rejudgeSpace k).target m = s.target m :=
  rejudgeSpace_cases s k (P := fun t => t.target m = s.target m) rfl (by simp [updTarget_target_ne _ _ h])
    (updTarget_target_ne _ _ h)

/-- The re-judging touches space wanted and the poll timer of a context, and nothing else of it (R115). -/
theorem rejudgeSpace_context (s : State) (k m : TargetId) :
    { (s.rejudgeSpace k).target m with spaceWanted := (s.target m).spaceWanted, pollTimer := (s.target m).pollTimer } = s.target m := by
  by_cases h : m = k
  case neg => rw [rejudgeSpace_target_ne s h]
  case pos =>
    subst h
    exact rejudgeSpace_cases s m
      (P := fun t => { t.target m with spaceWanted := (s.target m).spaceWanted, pollTimer := (s.target m).pollTimer } = s.target m)
      rfl (by simp) (by simp)

theorem rejudgeSpace_short (s : State) (k m : TargetId) : (s.rejudgeSpace k).shortOfSpace m = s.shortOfSpace m :=
  shortOfSpace_congr (by simp) (by simp) (by simp) (fun j => (congrArg Target.countedState (rejudgeSpace_context s k j) :))
    (fun j => (congrArg Target.freeSlots (rejudgeSpace_context s k j) :)) m

/-- After it, space is wanted exactly where the target is short of it (R115). -/
theorem rejudgeSpace_wanted (s : State) (k : TargetId) :
    ((s.rejudgeSpace k).target k).spaceWanted = (s.rejudgeSpace k).shortOfSpace k := by
  rw [rejudgeSpace_short]
  cases h : s.shortOfSpace k <;> cases hw : (s.target k).spaceWanted
  · rw [rejudgeSpace_same (by rw [h, hw]), hw]
  · simp [rejudgeSpace_becomes_no h hw]
  · simp [rejudgeSpace_becomes_yes h hw]
  · rw [rejudgeSpace_same (by rw [h, hw]), hw]

/-- It issues a read of that target's consumer word at most (R115). -/
theorem rejudgeSpace_requests (s : State) (k : TargetId) :
    ∃ new, (s.rejudgeSpace k).requests = s.requests ++ new ∧ ∀ q ∈ new, q.issuer = .consumerRead k := by
  refine rejudgeSpace_cases s k (P := fun t => ∃ new, t.requests = s.requests ++ new ∧ ∀ q ∈ new, q.issuer = .consumerRead k)
    ⟨[], by simp⟩ ?_ ⟨[], by simp⟩
  rw [issueConsumerRead_eq]
  split
  · exact ⟨[], by simp⟩
  · exact ⟨_, rfl, by simp⟩

/-! ### Hold timers -/

theorem rejudgeHolds_run (s : State) (b : BundleId) :
    s.rejudgeHolds.run b = { s.run b with holdTimer := (s.run b).holdTimer.judged (s.pausesHold b) } := by
  rw [rejudgeHolds, rejudged_run, if_pos (show b ∈ allBundles from List.mem_finRange b)]

end Sys2Proof.Machine

/-! The statements on the read commands, TARGET_ATTACH, TARGET_QUIESCE, TARGET_RESUME, DRAIN and FENCE (R103, R123 to R125, R128, R140,
R144, R145, R165). -/
namespace Sys2Proof.Machine

open State

/-! ### Read commands -/

/-- A read command that is taken holds its result and writes its record (R140). -/
theorem issueReply_taken (s : State) (r : SlotRead) (cmd : CmdId) (v : BitVec 64) (a : Addr) (record : List Byte) :
    let t := (s.taken r).issueReply cmd v a record
    t.proc = { (s.taken r).proc with hand := some (.reply cmd v) } ∧ OnlyCommandPath s t ∧
      t.requests = (s.taken r).requests ++ [⟨s.nextRequest, .replyWrite, a, .write record, 2000⟩] := by
  simp only [issueReply, holdInHand_asking]
  exact ⟨rfl, by simp [OnlyCommandPath, fieldSide, accounts, bundles, assembler, window, own], by simp; rfl⟩

theorem not_replyArgOk {a : Addr} (h : a = 0 ∨ a.toNat % 8 ≠ 0) : ¬ replyArgOk a = true := by
  rw [replyArgOk_iff]
  rintro ⟨hne, hal⟩
  exact h.elim hne (absurd hal)

theorem routeReadCommand_ok {s : State} {cmd : CmdId} {source : Half} {n : SourceId} {a : Addr} (hn : source.toNat = n.val)
    (ha : replyArgOk a = true) : s.routeReadCommand cmd source a = s.issueReply cmd 0 a (routeReply s n) := by
  simp [routeReadCommand, sourceArg_eq_some hn, ha]

theorem routeReadCommand_bad {s : State} {cmd : CmdId} {source : Half} {a : Addr}
    (h : 215 < source.toNat ∨ ¬ replyArgOk a = true) : s.routeReadCommand cmd source a = s.complete cmd .badArgument 0 := by
  unfold routeReadCommand
  rcases h with h | h
  · simp only [sourceArg_eq_none h]
  · cases sourceArg source <;> simp only [if_neg h]

theorem bundleReadCommand_ok {s : State} {cmd : CmdId} {bundle : Byte} {capacity : Half} {b : BundleId} {a : Addr}
    (hb : bundle.toNat = b.val) (hc : capacity.toNat ≤ 216) (ha : replyArgOk a = true) :
    s.bundleReadCommand cmd bundle capacity a =
      s.issueReply cmd (result1 (s.pendingList b).length) a (bundleReply s b capacity.toNat) := by
  simp [bundleReadCommand, bundleArg_of hb, hc, ha]

theorem bundleReadCommand_bad {s : State} {cmd : CmdId} {bundle : Byte} {capacity : Half} {a : Addr}
    (h : 47 < bundle.toNat ∨ 216 < capacity.toNat ∨ ¬ replyArgOk a = true) :
    s.bundleReadCommand cmd bundle capacity a = s.complete cmd .badArgument 0 := by
  unfold bundleReadCommand
  rcases h with h | h
  · simp only [bundleArg_none h]
  · have hbad : ¬ (capacity.toNat ≤ 216 ∧ replyArgOk a = true) := fun hok => h.elim (Nat.not_lt.2 hok.1) (absurd hok.2)
    cases bundleArg bundle <;> simp only [if_neg hbad]

theorem targetReadCommand_ok {s : State} {cmd : CmdId} {target : Byte} {k : TargetId} {a : Addr} (hk : target.toNat = k.val)
    (ha : replyArgOk a = true) :
    s.targetReadCommand cmd target a = s.issueReply cmd (result1 (s.target k).produced.toNat) a (targetReply s k) := by
  simp [targetReadCommand, targetArg_of hk, ha]

theorem targetReadCommand_bad {s : State} {cmd : CmdId} {target : Byte} {a : Addr}
    (h : 5 < target.toNat ∨ ¬ replyArgOk a = true) : s.targetReadCommand cmd target a = s.complete cmd .badArgument 0 := by
  unfold targetReadCommand
  rcases h with h | h
  · simp only [targetArg_none h]
  · cases targetArg target <;> simp only [if_neg h]

/-- A command in hand that completes without a rejection touches the command path only. -/
theorem only_completeHand (s : State) (id : Nat) (cmd : CmdId) {st : Status} (v : BitVec 64) (h : st.rejected = false) :
    OnlyCommandPath s ((s.endRequest id).complete cmd st v).handDone := by
  rw [complete_push _ _ _ h]
  simp [OnlyCommandPath, fieldSide, accounts, bundles, assembler, window, own]

theorem pushCompletion_requests (s : State) (c : Completion) :
    ∃ new, (s.pushCompletion c).requests = s.requests ++ new ∧ ∀ q ∈ new, q.issuer = .completionWrite :=
  issueCompletion_requests _

/-- It issues the write of a completion at most. -/
theorem issues_completeHand (s : State) (id : Nat) (cmd : CmdId) {st : Status} (v : BitVec 64) (h : st.rejected = false) :
    Issues s ((s.endRequest id).complete cmd st v).handDone id [.completionWrite] := by
  rw [complete_push _ _ _ h]
  obtain ⟨new, hreq, hnew⟩ := pushCompletion_requests (s.endRequest id) ⟨cmd, st, v⟩
  exact ⟨new, hreq, fun q hq => by simp [hnew q hq]⟩

theorem replyAnswer_hand {s : State} {cmd : CmdId} {v : BitVec 64} (answer : WriteAnswer) (h : s.proc.hand = some (.reply cmd v)) :
    s.replyAnswer answer = if answer = .done then (s.complete cmd .ok v).handDone else (s.complete cmd .replyFailed 0).handDone := by
  cases answer <;> simp [replyAnswer, h]

/-- Settles O23: each command's two outcomes, and the answer of the reply's write. -/
theorem readCommands : Obligations.ReadCommands := by
  refine ⟨fun s r a h => ⟨fun source hbad => ?_, fun bundle capacity hbad => ?_, fun target hbad => ?_, fun hne hal => ?ok⟩,
    fun s id answer cmd result h hhand => ?answer⟩
  · exact congrArg Host.Outcome.next ((command_taken h).trans (routeReadCommand_bad (hbad.imp_right not_replyArgOk)))
  · exact congrArg Host.Outcome.next
      ((command_taken h).trans (bundleReadCommand_bad (hbad.imp_right (·.imp_right not_replyArgOk))))
  · exact congrArg Host.Outcome.next ((command_taken h).trans (targetReadCommand_bad (hbad.imp_right not_replyArgOk)))
  case ok =>
    have ha := (replyArgOk_iff a).2 ⟨hne, hal⟩
    exact ⟨fun source n hn => ⟨_, congrArg Host.Outcome.next ((command_taken h).trans (routeReadCommand_ok hn ha)),
        issueReply_taken s r _ _ _ _⟩,
      fun bundle capacity b hb hc => ⟨_, congrArg Host.Outcome.next ((command_taken h).trans (bundleReadCommand_ok hb hc ha)),
        issueReply_taken s r _ _ _ _⟩,
      fun target k hk => ⟨_, congrArg Host.Outcome.next ((command_taken h).trans (targetReadCommand_ok hk ha)),
        issueReply_taken s r _ _ _ _⟩⟩
  case answer =>
    intro c
    have hcompletes : ∃ st v, c = ⟨cmd, st, v⟩ ∧ st.rejected = false ∧
        exec (.replyWriteAnswer id answer) s = .next ((s.endRequest id).complete cmd st v).handDone := by
      have hexec : exec (.replyWriteAnswer id answer) s = .next ((s.endRequest id).replyAnswer answer) :=
        congrArg Host.Outcome.next (answer_awaited h rfl)
      rw [hexec, replyAnswer_hand (s := s.endRequest id) answer hhand]
      by_cases hdone : answer = .done
      · exact ⟨.ok, result, if_pos hdone, rfl, by rw [if_pos hdone]⟩
      · exact ⟨.replyFailed, 0, if_neg hdone, rfl, by rw [if_neg hdone]⟩
    obtain ⟨st, v, hc, hst, hexec⟩ := hcompletes
    have hstate : ((s.endRequest id).complete cmd st v).proc.state = s.proc.state := by rw [complete_proc]; rfl
    obtain ⟨hhand, hcompletions, hdeferred⟩ := completeHand_proc (s.endRequest id) cmd st v
    refine ⟨_, hexec, only_completeHand s id cmd v hst, issues_completeHand s id cmd v hst, hhand, hc ▸ hcompletions, hdeferred,
      fun hhalted => ?_, fun hlive => ?_⟩
    · rw [handDone_halted (by rwa [hstate]), hstate]
    · rw [handDone_live (by rwa [hstate])]
      simp

/-! ### TARGET_ATTACH -/

theorem attachTarget_of {d : BitVec 64} {k : TargetId} (h : d.toNat % 8 = k.val) : attachTarget d = some k := by
  have hlt : d.toNat % 8 < 6 := h ▸ k.isLt
  rw [attachTarget, dif_pos hlt]
  exact congrArg some (Fin.ext h)

theorem attachTarget_none {d : BitVec 64} (h : 5 < d.toNat % 8) : attachTarget d = none := dif_neg (by omega)

/-- The checks of TARGET_ATTACH's packed arguments (R123 step 3, R165). -/
theorem attachArgs_checks (k : TargetId) (poll holdoff : Half) (d : BitVec 64) (offset data : Word) (signal : Addr) :
    let code := d.toNat / 8 % 16
    let ring : Addr := BitVec.ofNat 64 (d.toNat / 512 * 512)
    let size := 16 * 2 ^ code
    let consumer := ring + offset.signExtend 64
    let bad := 8 < code ∨ ring.toNat % (size * 32) ≠ 0 ∨ consumer.toNat % 4 ≠ 0 ∨ signal.toNat % 4 ≠ 0
    (bad → attachArgs k poll holdoff d offset data signal = none) ∧
      (¬ bad → attachArgs k poll holdoff d offset data signal = some ⟨k, ring, size, consumer, poll, signal, data, holdoff⟩) := by
  intro code ring size consumer bad
  have hsize : ringSizeOk size = true ↔ code ≤ 8 := by
    rw [ringSizeOk_iff]
    refine ⟨fun ⟨e, he, hpow⟩ => ?_, fun h => ⟨code, h, rfl⟩⟩
    have : code = e := Nat.pow_right_injective (le_refl 2) (Nat.eq_of_mul_eq_mul_left (by omega) hpow)
    exact this ▸ he
  have hok : (ringSizeOk size && aligned (size * 32) ring && aligned 4 consumer && aligned 4 signal) = true ↔ ¬ bad := by
    simp only [Bool.and_eq_true, hsize, aligned_iff, bad, not_or, not_lt, not_not, and_assoc]
  exact ⟨fun hbad => if_neg fun h => hok.1 h hbad, fun hgood => if_pos (hok.2 hgood)⟩

theorem attachAnswer_hand {s : State} {cmd : CmdId} {a : AttachArgs} (h : s.proc.hand = some (.attach cmd a)) :
    s.attachAnswer (.done 0) = ((s.updTarget a.target fun _ => attached a).complete cmd .ok 0).handDone ∧
    (∀ v, v ≠ 0 → s.attachAnswer (.done v) = (s.complete cmd .badArgument (result1 v.toNat)).handDone) ∧
    s.attachAnswer .refused = (s.complete cmd .busError 0).handDone := by
  refine ⟨?_, fun v hv => ?_, ?_⟩
  · simp only [attachAnswer, h, if_true]
  · simp only [attachAnswer, h, if_neg hv]
  · simp only [attachAnswer, h]

theorem complete_target_state (s : State) (cmd : CmdId) (st : Status) (v : BitVec 64) (k : TargetId) :
    ((s.complete cmd st v).target k).state = (s.target k).state := by
  unfold complete
  dsimp only
  split
  · rw [accept_state]; simp
  · simp

/-- Settles O38: the checks in their order, and the three answers of the read. -/
theorem targetAttach : Obligations.TargetAttach := by
  refine ⟨fun s r poll holdoff d offset data signal h => ?taken, fun s id cmd a h hhand => ?answered⟩
  case taken =>
    intro i cmd u code ring size consumer bad
    have hexec : exec i s = .next (u.attachCommand cmd poll holdoff d offset data signal) :=
      congrArg Host.Outcome.next (command_taken h)
    refine ⟨fun hnone => ?_, fun k hk => ⟨fun hstate => ?_, fun hstate hbad => ?_, fun hstate hgood => ?attaches⟩⟩
    · simp only [hexec, attachCommand, attachTarget_none hnone]
    · have hstate' : (u.target k).state ≠ .detached := by simpa [u] using hstate
      simp only [hexec, attachCommand, attachTarget_of hk, if_pos hstate']
    · have hstate' : ¬ (u.target k).state ≠ .detached := by simpa [u] using hstate
      have hargs := (attachArgs_checks k poll holdoff d offset data signal).1 hbad
      simp only [hexec, attachCommand, attachTarget_of hk, if_neg hstate', hargs]
    case attaches =>
      have hstate' : ¬ (u.target k).state ≠ .detached := by simpa [u] using hstate
      have hargs := (attachArgs_checks k poll holdoff d offset data signal).2 hgood
      have hattach : exec i s = .next ((u.updProc fun p =>
          { p with hand := some (.attach cmd ⟨k, ring, size, consumer, poll, signal, data, holdoff⟩) }).issueRequest
            .attachRead consumer (.read 4)) := by
        simp only [hexec, attachCommand, attachTarget_of hk, if_neg hstate', hargs, holdInHand_asking]
        rfl
      exact ⟨_, hattach, by simp [u, OnlyCommandPath, fieldSide, accounts, bundles, assembler, window, own], rfl, rfl⟩
  case answered =>
    have hexec (answer : ReadAnswer) :
        exec (.targetAttachReadAnswer id answer) s = .next ((s.endRequest id).attachAnswer answer) :=
      congrArg Host.Outcome.next (answer_awaited h rfl)
    obtain ⟨hzero, hbad, hrefused⟩ := attachAnswer_hand (s := s.endRequest id) hhand
    refine ⟨?attached, fun v hv => ?nonzero, ?refused⟩
    case attached =>
      obtain ⟨hnone, hcompletions, -⟩ := completeHand_proc ((s.endRequest id).updTarget a.target fun _ => attached a) cmd .ok 0
      refine ⟨_, (hexec _).trans (congrArg Host.Outcome.next hzero), ?_, fun k hk => ?_, ?_, ?_, ?_, ?_, hnone, hcompletions⟩
      · simp [complete_ok, attached]
      · simp [complete_ok, updTarget_target_ne _ _ hk]
      all_goals simp [complete_ok, fieldSide, accounts, bundles, assembler]
    case nonzero =>
      obtain ⟨hnone, hcompletions, -⟩ := completeHand_proc (s.endRequest id) cmd .badArgument (result1 v.toNat)
      refine ⟨_, (hexec _).trans (congrArg Host.Outcome.next (hbad v hv)), rfl, fun k => ?_, hnone, hcompletions⟩
      exact complete_target_state (s.endRequest id) cmd .badArgument (result1 v.toNat) k
    case refused =>
      obtain ⟨hnone, hcompletions, -⟩ := completeHand_proc (s.endRequest id) cmd .busError 0
      exact ⟨_, (hexec _).trans (congrArg Host.Outcome.next hrefused), only_completeHand s id cmd 0 rfl, hnone, hcompletions⟩

/-! ### TARGET_QUIESCE and TARGET_RESUME -/

/-- A target that moves between ACTIVE and QUIESCED: its context, space wanted, and the hold timers (R103, R115, R125). -/
theorem moveTarget_spec (s : State) (k : TargetId) (dest : TargetState) :
    let t := s.moveTarget k dest
    (t.target k).state = dest ∧ (t.target k).spaceWanted = t.shortOfSpace k ∧
      { t.target k with
        state := (s.target k).state, spaceWanted := (s.target k).spaceWanted, pollTimer := (s.target k).pollTimer } = s.target k ∧
      (∀ m, m ≠ k → t.target m = s.target m) ∧
      ∀ b, t.run b = { s.run b with holdTimer := (s.run b).holdTimer.judged (t.pausesHold b) } := by
  intro t
  generalize hu : (s.updTarget k fun x => { x with state := dest }) = u
  have ht : t = u.rejudgeHolds.rejudgeSpace k := by rw [← hu]; rfl
  have hself : u.target k = { s.target k with state := dest } := by rw [← hu]; simp
  have hcontext := rejudgeSpace_context u.rejudgeHolds k k
  have hpauses (b : BundleId) : t.pausesHold b = u.pausesHold b :=
    pausesHold_congr (by simp [ht]) fun m => by rw [ht, rejudgeSpace_state]; simp
  simp only [rejudgeHolds_frame, hself, ← ht] at hcontext
  refine ⟨?_, ht ▸ rejudgeSpace_wanted u.rejudgeHolds k, ?_, fun m hm => ?_, fun b => ?_⟩
  · rw [ht, rejudgeSpace_state]
    simp [hself]
  · simpa using congrArg (fun x : Target => { x with state := (s.target k).state }) hcontext
  · rw [ht, rejudgeSpace_target_ne _ hm, ← hu]
    simp [updTarget_target_ne _ _ hm]
  · have hrun : t.run b = u.rejudgeHolds.run b := by simp [ht]
    rw [hpauses, hrun, rejudgeHolds_run, ← hu]
    rfl

theorem moveCommand_bad {s : State} {cmd : CmdId} {target : Byte} {source dest : TargetState} (h : 5 < target.toNat) :
    s.moveCommand cmd target source dest = s.complete cmd .badArgument 0 := by
  simp only [moveCommand, targetArg_none h]

theorem moveCommand_named {s : State} {cmd : CmdId} {target : Byte} {source dest : TargetState} {k : TargetId}
    (h : target.toNat = k.val) :
    s.moveCommand cmd target source dest =
      if (s.target k).state = source then (s.moveTarget k dest).complete cmd .ok 0 else s.complete cmd .badState 0 := by
  simp only [moveCommand, targetArg_of h]

theorem judged_pauses {left : Nat} {x : HoldTimer} (h : x = .running left ∨ x = .paused left) :
    x.judged true = .paused left ∧ x.judged false = .running left := by
  rcases h with rfl | rfl <;> exact ⟨rfl, rfl⟩

/-- One of the two moves, in the words of the statement (R103, R115, R125). -/
theorem moveCommand_taken (s : State) (r : SlotRead) (cmd : CmdId) (k : TargetId) {source : TargetState} (dest : TargetState)
    (h : (s.target k).state = source) :
    let t := ((s.taken r).moveTarget k dest).complete cmd .ok 0
    (t.target k).state = dest ∧ (t.target k).spaceWanted = t.shortOfSpace k ∧
      { t.target k with
        state := source, spaceWanted := (s.target k).spaceWanted, pollTimer := (s.target k).pollTimer } = s.target k ∧
      (∀ m, m ≠ k → t.target m = s.target m) ∧
      (∀ b, t.run b = { s.run b with holdTimer := (s.run b).holdTimer.judged (t.pausesHold b) }) ∧
      t.bundleConfig = s.bundleConfig ∧ t.fieldSide = s.fieldSide ∧ t.accounts = s.accounts ∧
      t.assembler = s.assembler ∧ Completes s t ⟨cmd, .ok, 0⟩ := by
  intro t
  obtain ⟨hstate, hwanted, hcontext, hothers, hruns⟩ := moveTarget_spec (s.taken r) k dest
  have ht : t = ((s.taken r).moveTarget k dest).pushCompletion ⟨cmd, .ok, 0⟩ := complete_ok _ _ _
  have hshort : t.shortOfSpace k = ((s.taken r).moveTarget k dest).shortOfSpace k :=
    shortOfSpace_of_eq (by simp [ht]) (by simp [ht]) (by simp [ht]) k
  have hpauses (b : BundleId) : t.pausesHold b = ((s.taken r).moveTarget k dest).pausesHold b :=
    pausesHold_congr (by simp [ht]) (by simp [ht])
  have htarget (m : TargetId) : t.target m = ((s.taken r).moveTarget k dest).target m := by simp [ht]
  have hrun (b : BundleId) : t.run b = ((s.taken r).moveTarget k dest).run b := by simp [ht]
  simp only [taken_kept, h] at hcontext hothers hruns
  refine ⟨by rw [htarget, hstate], by rw [htarget, hwanted, hshort], by rw [htarget, hcontext], fun m hm => ?_, fun b => ?_, ?_, ?_, ?_,
    ?_, ?completes⟩
  · rw [htarget, hothers m hm]
  · rw [hrun, hpauses, hruns]
  case completes => simp [Completes, t, complete_proc, taken_proc]
  all_goals simp [ht, fieldSide, accounts, assembler]

/-- Settles O39: the judging of hold timers, and `moveCommand_taken` for each of the two commands. -/
theorem quiesceAndResume : Obligations.QuiesceAndResume := by
  refine ⟨⟨fun pause => rfl, fun left x => judged_pauses, pausesHold_iff⟩, fun s r target h => ?_⟩
  intro moves
  have hmoves {i : Instr} {cmd : CmdId} {source dest : TargetState}
      (hexec : exec i s = .next ((s.taken r).moveCommand cmd target source dest)) : moves i cmd source dest := by
    refine ⟨fun hbad => by rw [hexec, moveCommand_bad hbad], fun k hk => ⟨fun hnot => ?_, fun hstate => ?_⟩⟩
    · rw [hexec, moveCommand_named hk, if_neg (by simpa using hnot)]
    · refine ⟨_, ?_, moveCommand_taken s r cmd k dest hstate⟩
      rw [hexec, moveCommand_named hk, if_pos (by simpa using hstate)]
  exact ⟨hmoves (congrArg Host.Outcome.next (command_taken h)), hmoves (congrArg Host.Outcome.next (command_taken h))⟩

/-! ### DRAIN and FENCE -/

theorem drained_iff (s : State) (k : TargetId) :
    s.drained k = true ↔ ∀ b, (s.config b).target = some k → (s.config b).enabled = true → (s.run b).state = .idle := by
  simp only [drained, List.all_eq_true, allBundles, List.mem_finRange, true_imp_iff, Bool.or_eq_true, Bool.not_eq_true',
    Bool.and_eq_false_iff, beq_iff_eq, beq_eq_false_iff_ne]
  refine forall_congr' fun b => ?_
  cases (s.config b).enabled <;> simp [imp_iff_not_or]

/-- The drain timer is given in ms (R128). -/
theorem drain_timer (k : TargetId) (timeout : Half) :
    (DeferKind.drain k timeout).timer = if timeout = 0 then .stopped else .running (timeout.toNat * 1000) := by
  have hzero : timeout.toNat * Config.microsecondsPerMs = 0 ↔ timeout = 0 := by
    rw [Nat.mul_eq_zero, ← BitVec.toNat_inj]
    simp [Config.microsecondsPerMs]
  simp only [DeferKind.timer, Timer.start, hzero]
  rfl

/-- A command that must wait enters the deferred table while it has room (R144). -/
theorem enterTable_room {s : State} (cmd : CmdId) (what : DeferKind) (h : s.proc.deferred.length < 4)
    (hwhat : ∀ k, what ≠ .detach k) :
    s.enterTable cmd what = s.updProc fun p => { p with deferred := p.deferred ++ [⟨cmd, what, what.timer⟩] } := by
  have hroom : s.proc.deferred.length < Config.deferredLimit := h
  unfold enterTable
  rw [if_pos hroom]
  cases what with
  | detach k => exact absurd rfl (hwhat k)
  | drain | fence => rfl

theorem enterTable_detach {s : State} (cmd : CmdId) (k : TargetId) (h : s.proc.deferred.length < 4) :
    s.enterTable cmd (.detach k) =
      ((s.updProc fun p => { p with deferred := p.deferred ++ [⟨cmd, .detach k, .stopped⟩] }).updTarget k fun x =>
        { x with detachPending := true }).rejudgeSpace k := if_pos h

/-- With the table full it waits for an entry (R144). -/
theorem enterTable_full {s : State} (cmd : CmdId) (what : DeferKind) (h : 4 ≤ s.proc.deferred.length) (hrun : s.proc.state = .running) :
    s.enterTable cmd what =
      s.updProc fun p => { p with hand := some (.tableEntry cmd what), state := .waiting .tableEntry } := by
  have hfull : ¬ s.proc.deferred.length < Config.deferredLimit := Nat.not_lt.2 h
  rw [enterTable, if_neg hfull, holdInHand_waiting _ _ hrun]

/-- Settles O42: the condition at hand completes the command, and otherwise it enters the table or waits for an entry. -/
theorem drainAndFence : Obligations.DrainAndFence := by
  intro s r h u waits
  have hwaits {i : Instr} {cmd : CmdId} {what : DeferKind} (hexec : exec i s = .next (u.enterTable cmd what))
      (hwhat : ∀ k, what ≠ .detach k) : waits i cmd what what.timer := by
    refine ⟨fun hroom => ⟨_, hexec.trans (congrArg Host.Outcome.next (enterTable_room cmd what hroom hwhat)), ?_, rfl, rfl⟩,
      fun hfull => ⟨_, hexec.trans (congrArg Host.Outcome.next (enterTable_full cmd what hfull h.2)), ?_, rfl, rfl⟩⟩
    all_goals simp [u, OnlyCommandPath, fieldSide, accounts, bundles, assembler, window, own]
  have hdrain (target : Byte) (timeout : Half) :
      exec (.drain r target timeout) s = .next (u.drainCommand (cmdOf r 0x35) target timeout) :=
    congrArg Host.Outcome.next (command_taken h)
  have hfence : exec (.fence r) s = .next (u.judgeDeferrable (cmdOf r 0x40) .fence) := congrArg Host.Outcome.next (command_taken h)
  refine ⟨fun target timeout hbad => ?bad, fun target timeout k hk => ?drain, fun hempty => ?alone, fun hne => ?behind⟩
  case bad => simp only [hdrain, drainCommand, targetArg_none hbad]
  case alone =>
    have hempty' : u.proc.deferred.isEmpty = true := List.isEmpty_iff.2 hempty
    simp only [hfence, judgeDeferrable, if_pos hempty']
  case behind =>
    have hne' : ¬ u.proc.deferred.isEmpty = true := mt List.isEmpty_iff.1 hne
    exact hwaits (what := .fence) (by simp only [hfence, judgeDeferrable, if_neg hne']) (by simp)
  case drain =>
    intro met
    have hmet : u.drained k = true ↔ met := drained_iff s k
    have hjudged : exec (.drain r target timeout) s = .next (u.judgeDeferrable (cmdOf r 0x35) (.drain k timeout)) := by
      simp only [hdrain, drainCommand, targetArg_of hk]
    refine ⟨fun hm => ?_, fun hm => ?_⟩
    · simp only [hjudged, judgeDeferrable, if_pos (hmet.2 hm)]
    · rw [← drain_timer k timeout]
      exact hwaits (by simp only [hjudged, judgeDeferrable, if_neg (mt hmet.1 hm)]) (by simp)

end Sys2Proof.Machine

/-! The statements on answers without a request, timeouts, resets, ENABLE and CMD_RESTART (R148, R149, R151, R152, R158 to R163). -/
namespace Sys2Proof.Machine

open State

/-! ### Two readings of one answer -/

/-- Two rows that take an answer of the same issuer alike do the same. -/
theorem answer_congr {s : State} {id : Nat} {q : Request} {mine mine' : Issuer → Bool} {f g : Issuer → State → State}
    (h : s.requestOf id = some q) (hm : mine q.issuer = true) (hm' : mine' q.issuer = true)
    (hfg : ∀ u, f q.issuer u = g q.issuer u) : s.answer id mine f = s.answer id mine' g := by
  simp only [State.answer, h, hm, hm', if_true, hfg]

/-- Every answer that is discarded only ends its request (R149, R159). -/
theorem onlyEnds_of_discarded {s : State} {id : Nat} {q : Request} (h : s.requestOf id = some q)
    (hd : s.resetting = true ∨ (s.proc.restarting = true ∧ q.issuer.commandPath = true)) : OnlyEnds s id q.issuer := by
  have hends {mine : Issuer → Bool} {handler : Issuer → State → State} (hm : mine q.issuer = true) :
      (Host.Outcome.next (s.answer id mine handler) : Host.Outcome State Fault Refusal) = .next (s.endRequest id) :=
    congrArg Host.Outcome.next (answer_discarded h hm hd)
  cases hissuer : q.issuer with
  | assembly =>
    refine ⟨hends (by rw [hissuer]; rfl), fun hat => ?_, fun hat => ?_⟩
    · exact (congrArg Host.Outcome.next (if_pos hat)).trans (hends (by rw [hissuer]; rfl))
    · exact (congrArg Host.Outcome.next (if_neg (by simp [hat]))).trans (hends (by rw [hissuer]; rfl))
  | consumerRead k => exact fun v => hends (by rw [hissuer]; exact mine_consumerRead k)
  | signal k => exact fun v => hends (by rw [hissuer]; exact mine_signal k)
  | commandRead =>
    refine ⟨hends (by rw [hissuer]; rfl), fun i r hi hr => ?_⟩
    obtain ⟨execute, hexec⟩ := exec_slot hi
    rw [hexec s]
    subst hr
    exact hends (by rw [hissuer]; rfl)
  | replyWrite | attachRead | completionWrite | completionSignal | completionConsumerRead | setupRead =>
    exact fun v => hends (by rw [hissuer]; rfl)

/-! ### Timeouts -/

theorem requestDue_iff {s : State} {id : Nat} {q : Request} (h : s.requestOf id = some q) : s.requestDue id = true ↔ q.timeout = 0 := by
  simp [requestDue, h]

/-- A request whose 2 ms have run hands its issuer what the row of a refusal would (R151, R152). -/
theorem timeout_refuses {s : State} {id : Nat} {q : Request} {mine : Issuer → Bool} {handler : Issuer → State → State}
    (h : s.requestOf id = some q) (hdue : q.timeout = 0) (hm : mine q.issuer = true)
    (hhandler : ∀ u, timedOut q.issuer u = handler q.issuer u) :
    exec (.hostRequestTimeout id) s = .next (s.answer id mine handler) := by
  have hexec : exec (.hostRequestTimeout id) s = .next (s.answer id (fun _ => true) timedOut) :=
    congrArg Host.Outcome.next (if_pos ((requestDue_iff h).2 hdue))
  rw [hexec, answer_congr h rfl hm hhandler]

/-- A row that takes an answer takes nothing where no record has the number (R152). -/
theorem exec_late {s : State} {id : Nat} {i : Instr} {mine : Issuer → Bool} {handler : Issuer → State → State}
    (h : s.requestOf id = none) (hexec : exec i s = .next (s.answer id mine handler)) : exec i s = .next s :=
  hexec.trans (congrArg Host.Outcome.next (answer_late h))

/-- Settles O57: each issuer's refusal is what its timeout hands it; without a record every row changes nothing. -/
theorem requestTimeouts : Obligations.RequestTimeouts := by
  refine ⟨fun s id q h hdue hlive => ?due, fun s id q h hnot => ?early, fun s id => rfl, fun s id h => ?late,
    fun s id hlive => congrArg Host.Outcome.next (if_neg (by simp [hlive]))⟩
  case due =>
    cases hissuer : q.issuer with
    | consumerRead k =>
      refine ⟨_, ?_, rfl⟩
      exact timeout_refuses h hdue (by rw [hissuer]; exact mine_consumerRead k) (by rw [hissuer]; exact fun _ => rfl)
    | signal k =>
      refine ⟨_, ?_, rfl⟩
      exact timeout_refuses h hdue (by rw [hissuer]; exact mine_signal k) (by rw [hissuer]; exact fun _ => rfl)
    | assembly | commandRead | replyWrite | attachRead | completionWrite | completionSignal | completionConsumerRead | setupRead =>
      refine ⟨_, ?_, rfl⟩
      exact timeout_refuses h hdue (by rw [hissuer]; rfl) (by rw [hissuer]; exact fun _ => rfl)
  case early => exact congrArg Host.Outcome.next (if_neg (mt (requestDue_iff h).1 hnot))
  case late =>
    refine ⟨fun a => exec_late h rfl, fun a => exec_late h rfl, fun a => exec_late h rfl, fun a => exec_late h rfl,
      fun a => exec_late h rfl, fun a => exec_late h rfl, fun a => exec_late h rfl, fun a => exec_late h rfl, ?_, ?_, exec_late h rfl,
      fun i r hi hr => ?_, exec_late h rfl, ?_⟩
    · exact congrArg Host.Outcome.next ((congrArg (ite _ s) (answer_late h)).trans (ite_self s))
    · exact congrArg Host.Outcome.next ((congrArg (ite _ · s) (answer_late h)).trans (ite_self s))
    · obtain ⟨execute, hexec⟩ := exec_slot hi
      exact exec_late (hr ▸ h) (hexec s)
    · exact congrArg Host.Outcome.next ((congrArg (ite _ · s) (answer_late h)).trans (ite_self s))

end Sys2Proof.Machine

/-! The statements on resets, ENABLE and CMD_RESTART (R148, R149, R158 to R163). -/
namespace Sys2Proof.Machine

open State

/-! ### Resets -/

theorem resetBlocks_line (s : State) (l : LineId) :
    s.resetBlocks.line l = ⟨(s.line l).sampled, (s.line l).sampled, .stable⟩ := by
  simp [line, resetBlocks]

/-- A state that only sets RESETTING, already set (R158). -/
theorem resetting_again {s : State} (h : s.resetting = true) : { s with resetting := true } = s := by
  rw [← h]

/-- With nothing outstanding, RESET_END is the only work of a reset (R159). -/
theorem ownWork_reset {s : State} (h : s.resetting = true) (hr : s.requests = []) : s.ownWork = [.resetEnd] := by
  simp [ownWork, dueTimeouts, h, hr]

theorem step_reset {s : State} (hp : s.pending = []) (h : s.resetting = true) (hr : s.requests = []) :
    step s = .next { s with pending := [.resetEnd], choices := s.choices + 1 } := by
  have hwork := ownWork_reset h hr
  simp only [step, hp, idle, hwork]
  rfl

theorem exec_live_resetting {i : Instr} {f : State → State} {s : State} (hexec : exec i s = .next (live f s))
    (h : s.resetting = true) : exec i s = .next s := hexec.trans (congrArg Host.Outcome.next (live_resetting h))

/-- Settles O56: the fields of `resetBlocks`, and that every row outside the link lets a device reset stand. -/
theorem resets : Obligations.Resets := by
  refine ⟨fun s => ⟨rfl, rfl, fun h => ?notYet, ?ends⟩, fun s h => ?during⟩
  case notYet =>
    refine congrArg Host.Outcome.next (if_neg ?_)
    rcases h with h | h <;> simp [h]
  case ends =>
    intro fresh
    refine ⟨fun h hr => ⟨s.resetBlocks, congrArg Host.Outcome.next (if_pos (by simp [h, hr])), rfl, resetBlocks_line s, rfl, rfl⟩,
      s.powerUp, rfl, rfl, rfl, rfl, ⟨rfl, resetBlocks_line s, rfl, rfl⟩, ⟨s.powerUp.resetBlocks, rfl, rfl, fun l => ?_, rfl, rfl⟩,
      fun hp => step_reset hp rfl rfl⟩
    rw [resetBlocks_line]
    have hline : s.powerUp.line l = s.resetBlocks.line l := rfl
    rw [hline, resetBlocks_line]
  case during =>
    refine ⟨fun l => congrArg Host.Outcome.next (live_resetting h), fun id => congrArg Host.Outcome.next (if_pos h),
      fun id q hq hdue => ?timeout, fun i hi => ?rows, fun l => exec_live_resetting rfl h, fun b => exec_live_resetting rfl h,
      fun k => ⟨exec_live_resetting rfl h, exec_live_resetting rfl h⟩, fun e => exec_live_resetting rfl h,
      fun v => exec_live_resetting rfl h, fun b token => exec_live_resetting rfl h,
      fun code refresh => ⟨exec_live_resetting rfl h, exec_live_resetting rfl h⟩, fun id q hq => onlyEnds_of_discarded hq (.inl h)⟩
    case timeout =>
      exact congrArg Host.Outcome.next ((if_pos ((requestDue_iff hq).2 hdue)).trans (answer_discarded hq rfl (.inl h)))
    case rows =>
      have hreset : exec .deviceReset s = .next s := congrArg Host.Outcome.next (resetting_again h)
      have hloss : exec .linkLoss s = .next s := congrArg Host.Outcome.next (resetting_again h)
      simp only [List.mem_cons, List.not_mem_nil, or_false] at hi
      rcases hi with rfl | rfl | rfl | rfl | rfl | rfl | rfl | rfl | rfl | rfl | rfl | rfl
      · exact hreset
      · exact hloss
      all_goals exact exec_live_resetting rfl h

/-! ### ENABLE -/

theorem setEnable_same {s : State} {value : Bool} (h : value = s.enable) : s.setEnable value = s := if_pos h

/-- What a changed ENABLE does to the processor, by its state (R148). -/
theorem setEnable_on {s : State} (h : s.enable = false) :
    let u := s.storeEnable true
    s.setEnable true =
      match s.proc.state with
      | .stopped =>
        if s.proc.setup.isSome then u.setProcState .running
        else if s.inFlight .setupRead || s.proc.restarting then u
        else u.issueSetupRead
      | _ => u := by
  cases hs : s.proc.state <;> simp [setEnable, h, hs]

theorem setEnable_off {s : State} (h : s.enable = true) :
    let u := s.storeEnable false
    s.setEnable false =
      match s.proc.state with
      | .running => if s.proc.hand.isNone then u.setProcState .stopped else u
      | .waiting .completionSpace => u.setProcState .stopped
      | _ => u := by
  rcases hs : s.proc.state with _ | _ | cause | _
  case waiting => cases cause <;> simp [setEnable, h, hs]
  all_goals simp [setEnable, h, hs]

/-! ### CMD_RESTART -/

/-- Detach pending follows a table without detaches (R127): the target's own becomes no, the states stay. -/
theorem rejudgeDetachPending_empty {s : State} (k : TargetId) (h : s.proc.deferred = []) :
    ((s.rejudgeDetachPending k).target k).detachPending = false ∧
    (∀ m, ((s.rejudgeDetachPending k).target m).state = (s.target m).state) ∧
    (∀ m, m ≠ k → (s.rejudgeDetachPending k).target m = s.target m) ∧
    ∀ q ∈ s.requests, q ∈ (s.rejudgeDetachPending k).requests := by
  have hnone : s.detachDeferred k = false := by simp [detachDeferred, h]
  cases hp : (s.target k).detachPending
  case false =>
    have hsame : s.rejudgeDetachPending k = s := by simp [rejudgeDetachPending, hp]
    rw [hsame]
    exact ⟨hp, fun m => rfl, fun m _ => rfl, fun q hq => hq⟩
  case true =>
    generalize hu : (s.updTarget k fun x => { x with detachPending := false }) = u
    have hjudged : s.rejudgeDetachPending k = u.rejudgeSpace k := by simp [rejudgeDetachPending, hp, hnone, ← hu]
    obtain ⟨new, hreq, -⟩ := rejudgeSpace_requests u k
    have hpending := congrArg Target.detachPending (rejudgeSpace_context u k k)
    rw [hjudged]
    refine ⟨hpending.trans (by simp [← hu]), fun m => ?_, fun m hm => ?_, fun q hq => ?_⟩
    · rw [rejudgeSpace_state, ← hu, updTarget_target]
      split
      case isTrue h => rw [h]
      case isFalse => rfl
    · rw [rejudgeSpace_target_ne u hm, ← hu, updTarget_target_ne _ _ hm]
    · rw [hreq, ← hu]
      exact List.mem_append_left _ hq

theorem foldl_rejudgeDetachPending_empty (l : List TargetId) {s : State} (h : s.proc.deferred = []) :
    let t := l.foldl (fun u k => u.rejudgeDetachPending k) s
    (∀ k, (k ∈ l ∨ (s.target k).detachPending = false → (t.target k).detachPending = false) ∧
      (t.target k).state = (s.target k).state) ∧ ∀ q ∈ s.requests, q ∈ t.requests := by
  induction l generalizing s with
  | nil => exact ⟨fun k => ⟨fun hk => hk.resolve_left (by simp), rfl⟩, fun q hq => hq⟩
  | cons m l ih =>
    obtain ⟨hself, hstate, hothers, hreq⟩ := rejudgeDetachPending_empty m h
    obtain ⟨htargets, hrequests⟩ := ih (s := s.rejudgeDetachPending m) (by simpa using h)
    refine ⟨fun k => ⟨fun hk => (htargets k).1 ?_, (htargets k).2.trans (hstate k)⟩, fun q hq => hrequests q (hreq q hq)⟩
    by_cases hkm : k = m
    case pos => exact .inr (hkm ▸ hself)
    case neg =>
      rw [hothers k hkm]
      exact hk.imp_left fun hk => (List.mem_cons.1 hk).resolve_left hkm

theorem restartDrained_done {s : State} (h : s.proc.restarting = true) (hq : ∀ q ∈ s.requests, q.issuer.commandPath = false) :
    s.restartDrained = (s.updProc fun p => { p with restarting := false }).issueSetupRead := by
  have hidle : s.commandPathBusy = false := by simpa [commandPathBusy] using hq
  simp [restartDrained, h, hidle]

theorem restartDrained_not {s : State} (h : s.proc.restarting = false ∨ ∃ q ∈ s.requests, q.issuer.commandPath = true) :
    s.restartDrained = s := by
  refine if_neg fun hdone => ?_
  simp only [Bool.and_eq_true, Bool.not_eq_true', commandPathBusy, List.any_eq_false] at hdone
  obtain ⟨hrestarting, hidle⟩ := hdone
  rcases h with h | ⟨q, hq, hpath⟩
  · rw [h] at hrestarting
    cases hrestarting
  · exact hidle q hq hpath

/-- Settles O51: ENABLE by the processor's state (`setEnable_on`, `setEnable_off`), the restart by its fold over the targets. -/
theorem enableAndRestart : Obligations.EnableAndRestart := by
  refine ⟨fun s value hlive => ?enable, fun s id q _ hrestart hq hpath => onlyEnds_of_discarded hq (.inr ⟨hrestart, hpath⟩),
    fun s hlive => ⟨?restart, fun h hq => ?drained, fun h => ?notDrained⟩⟩
  case enable =>
    have hexec : exec (.enable value) s = .next (s.setEnable value) := congrArg Host.Outcome.next (live_eq hlive)
    simp only [hexec]
    refine ⟨fun hsame => by rw [setEnable_same hsame], ?runs, ?reads, ?waitsRead, ?stops, ?stopsWaiting, ?stays, ?cancels, ?halted⟩
    case runs =>
      rintro rfl hoff hstate hsetup
      simp only [setEnable_on hoff, hstate, hsetup, if_true]
      rfl
    case reads =>
      rintro rfl hoff hstate hsetup hread hrestart
      simp [setEnable_on hoff, hstate, hsetup, hread, hrestart, storeEnable]
    case waitsRead =>
      rintro rfl hoff hstate hsetup hbusy
      have hbusy' : (s.inFlight .setupRead || s.proc.restarting) = true := by simpa using hbusy
      simp [setEnable_on hoff, hstate, hsetup, hbusy', storeEnable]
    case stops =>
      rintro rfl hon hstate hhand
      simp only [setEnable_off hon, hstate, hhand, Option.isNone_none, if_true]
      rfl
    case stopsWaiting =>
      rintro rfl hon hstate
      simp only [setEnable_off hon, hstate]
      rfl
    case stays =>
      rintro rfl hon (⟨hstate, hhand⟩ | hstate | hstate)
      · have hhand' : s.proc.hand.isNone = false := by simpa [Option.isSome_iff_ne_none] using hhand
        simp [setEnable_off hon, hstate, hhand', storeEnable]
      · simp [setEnable_off hon, hstate, storeEnable]
      · simp [setEnable_off hon, hstate, storeEnable]
    case cancels =>
      rintro rfl hoff (hstate | ⟨cause, hstate⟩) <;> simp [setEnable_on hoff, hstate, storeEnable]
    case halted =>
      rintro hne ⟨why, hstate⟩
      cases value
      · simp [setEnable_off (by simpa using hne.symm), hstate, storeEnable]
      · simp [setEnable_on (by simpa using hne.symm), hstate, storeEnable]
  case restart =>
    obtain ⟨htargets, hrequests⟩ := foldl_rejudgeDetachPending_empty allTargets
      (s := s.updProc fun p =>
        { p with
          state := .stopped, setup := none, producer := 0, taken := 0, hand := none, deferred := [], completions := []
          cplProduced := 0, cplConsumed := 0, restarting := true }) rfl
    refine ⟨s.restart, congrArg Host.Outcome.next (live_eq hlive), by simp [restart],
      fun k => ⟨(htargets k).1 (.inl (List.mem_finRange k)), (htargets k).2⟩, ?_, ?_, ?_, ?_, ?_, hrequests⟩
    all_goals simp [fieldSide, accounts, bundles, assembler]
  case drained => exact congrArg Host.Outcome.next ((live_eq hlive).trans (restartDrained_done h hq))
  case notDrained => exact congrArg Host.Outcome.next ((live_eq hlive).trans (restartDrained_not h))

end Sys2Proof.Machine

/-! The statement on the register window (R153 to R157, R161). -/
namespace Sys2Proof.Machine

open State

/-! ### Writes of the window -/

/-- Each register's write is its own unit's (R153, R154, R157). -/
theorem windowWrite_registers (s : State) (v : Word) :
    s.windowWrite 0x04 32 v = s.controlWrite v ∧ s.windowWrite 0x0C 32 v = { s with setupAddrLo := v } ∧
    s.windowWrite 0x10 32 v = { s with setupAddrHi := v } ∧ s.windowWrite 0x14 32 v = s.producerWrite v ∧
    s.windowWrite 0x18 32 v = s.attentionWrite v ∧
    s.windowWrite 0x1C 32 v = s.ackPortWrite (v.extractLsb' 16 8) (v.setWidth 16) :=
  ⟨rfl, rfl, rfl, rfl, rfl, rfl⟩

theorem windowWrite_width {s : State} {offset bits : Nat} {v : Word} (h : bits ≠ 32) : s.windowWrite offset bits v = s := if_pos h

theorem windowWrite_unwritable {s : State} {offset bits : Nat} {v : Word}
    (h : offset ∉ [0x04, 0x0C, 0x10, 0x14, 0x18, 0x1C]) : s.windowWrite offset bits v = s := by
  simp only [List.mem_cons, List.not_mem_nil, or_false, not_or] at h
  obtain ⟨h1, h2, h3, h4, h5, h6⟩ := h
  simp [windowWrite, h1, h2, h3, h4, h5, h6]

theorem exec_registerWrite_live {s : State} (offset bits : Nat) (v : Word) (h : s.resetting = false) :
    exec (.registerWrite offset bits v) s = .next (s.windowWrite offset bits v) := congrArg Host.Outcome.next (live_eq h)

theorem exec_enable_live {s : State} (v : Bool) (h : s.resetting = false) : exec (.enable v) s = .next (s.setEnable v) :=
  congrArg Host.Outcome.next (live_eq h)

theorem exec_cmdRestart_live {s : State} (h : s.resetting = false) : exec .cmdRestart s = .next s.restart :=
  congrArg Host.Outcome.next (live_eq h)

theorem exec_cplRefresh_live {s : State} (h : s.resetting = false) : exec .cplRefresh s = .next s.refreshCompletions :=
  congrArg Host.Outcome.next (live_eq h)

/-! ### STATUS -/

/-- Target `k` in FAULTED, as one bit. -/
def State.faultBit (s : State) (k : TargetId) : Nat := boolCode (decide ((s.target k).state = .faulted))

theorem faultBit_le (s : State) (k : TargetId) : s.faultBit k ≤ 1 := by
  unfold faultBit boolCode
  split <;> decide

theorem faultBit_eq_one (s : State) (k : TargetId) : s.faultBit k = 1 ↔ (s.target k).state = .faulted := by
  simp [faultBit, boolCode]

/-- The faulted set, bit by bit (register window table). -/
theorem faultedBits_eq (s : State) :
    s.faultedBits = 256 * (s.faultBit 0 + 2 * s.faultBit 1 + 4 * s.faultBit 2 + 8 * s.faultBit 3 + 16 * s.faultBit 4 +
      32 * s.faultBit 5) := by
  have hbit (k : TargetId) :
      (if (s.target k).state = .faulted then 2 ^ (8 + k.val) else 0) = 256 * (2 ^ k.val * s.faultBit k) := by
    rw [Nat.pow_add]
    by_cases h : (s.target k).state = .faulted <;> simp [faultBit, boolCode, h]
  have hall : allTargets = [0, 1, 2, 3, 4, 5] := by decide
  rw [faultedBits, List.map_congr_left fun k _ => hbit k, hall]
  simp
  omega

theorem procState_code_le (st : ProcState) : st.code ≤ 3 := by cases st <;> simp [ProcState.code]

theorem procState_haltCode_le (st : ProcState) : st.haltCode ≤ 6 := by
  cases st with
  | halted why => cases why <;> simp [ProcState.haltCode, HaltReason.code]
  | stopped | running | waiting => simp [ProcState.haltCode]

/-- STATUS as a number: its items do not overlap (register window table). -/
theorem statusWord_toNat {s : State} (h : s.staleCount ≤ 255) :
    s.statusWord.toNat = s.proc.state.code + s.proc.state.haltCode * 2 ^ 4 + s.faultedBits + s.staleCount * 2 ^ 16 +
      boolCode s.resetting * 2 ^ 31 := by
  have hcode := procState_code_le s.proc.state
  have hhalt := procState_haltCode_le s.proc.state
  have hfaults := faultedBits_eq s
  have hbits := faultBit_le s
  have h0 := hbits 0; have h1 := hbits 1; have h2 := hbits 2; have h3 := hbits 3; have h4 := hbits 4; have h5 := hbits 5
  have hreset : (if s.resetting = true then 2 ^ 31 else 0) = boolCode s.resetting * 2 ^ 31 := by cases s.resetting <;> rfl
  have hreset' : boolCode s.resetting ≤ 1 := by cases s.resetting <;> decide
  rw [statusWord, BitVec.toNat_ofNat, hreset]
  omega

/-- STATUS's items at their places (R155, register window table). -/
theorem statusWord_items {s : State} (h : s.staleCount ≤ 255) :
    (s.statusWord.extractLsb' 0 2).toNat = s.proc.state.code ∧ (s.statusWord.extractLsb' 4 3).toNat = s.proc.state.haltCode ∧
    (∀ k : TargetId, s.statusWord.getLsbD (8 + k.val) = true ↔ (s.target k).state = .faulted) ∧
    (s.statusWord.extractLsb' 16 8).toNat = s.staleCount ∧ s.statusWord.getLsbD 31 = s.resetting := by
  have hword := statusWord_toNat h
  have hcode := procState_code_le s.proc.state
  have hhalt := procState_haltCode_le s.proc.state
  have hbits := faultBit_le s
  have h0 := hbits 0; have h1 := hbits 1; have h2 := hbits 2; have h3 := hbits 3; have h4 := hbits 4; have h5 := hbits 5
  have hreset : boolCode s.resetting = 1 ↔ s.resetting = true := by cases s.resetting <;> decide
  have hreset' : boolCode s.resetting ≤ 1 := by cases s.resetting <;> decide
  rw [faultedBits_eq] at hword
  simp only [BitVec.extractLsb'_toNat, Nat.shiftRight_eq_div_pow, BitVec.getLsbD, Nat.testBit_eq_decide_div_mod_eq, decide_eq_true_eq,
    ← faultBit_eq_one]
  refine ⟨by omega, by omega, fun k => ?_, by omega, ?_⟩
  · fin_cases k <;> simp <;> omega
  · rw [Bool.eq_iff_iff, decide_eq_true_eq, ← hreset]
    omega

/-! ### The window -/

/-- What a host read of a live part answers, register by register (R153, R155). -/
theorem windowRead_live {s : State} (h : s.resetting = false) :
    s.windowRead 0x04 32 = (if s.enable then 1 else 0) ∧ s.windowRead 0x0C 32 = s.setupAddrLo ∧
      s.windowRead 0x10 32 = s.setupAddrHi ∧ s.windowRead 0x14 32 = s.proc.producer := by
  simp [windowRead, h]

theorem windowRead_unreadable {s : State} {offset : Nat} (h : offset ∉ [0x00, 0x04, 0x08, 0x0C, 0x10, 0x14]) :
    s.windowRead offset 32 = 0 := by
  simp only [List.mem_cons, List.not_mem_nil, or_false, not_or] at h
  obtain ⟨h1, h2, h3, h4, h5, h6⟩ := h
  simp [windowRead, h1, h2, h3, h4, h5, h6]

/-- During a device reset only IDENT and STATUS read back (R161). -/
theorem windowRead_resetting {s : State} {offset : Nat} (h : s.resetting = true) (h0 : offset ≠ 0x00) (h8 : offset ≠ 0x08) :
    s.windowRead offset 32 = 0 := by
  simp [windowRead, h, h0, h8]

theorem setEnable_resetting (s : State) (v : Bool) : (s.setEnable v).resetting = s.resetting := by simp

/-- Settles O55: writes by `windowWrite_registers` and the bits of CONTROL and ATTENTION, STATUS by `statusWord_items`. -/
theorem registerWindow : Obligations.RegisterWindow := by
  refine ⟨fun s value => ⟨fun offset bits h => ?width, fun offset h => ?unwritable, fun h offset => exec_registerWrite_resetting _ _ _ h,
      fun hlive => ?writes⟩,
    ⟨rfl, rfl, fun _ => rfl, fun _ => ⟨rfl, rfl⟩, rfl, rfl, fun _ => rfl, rfl⟩,
    fun s => ⟨rfl, rfl, fun offset bits h => if_pos h, fun offset => windowRead_unreadable, fun h offset => windowRead_resetting h,
      windowRead_live, statusWord_items⟩⟩
  case width => exact congrArg Host.Outcome.next (live_kept id (windowWrite_width h))
  case unwritable => exact congrArg Host.Outcome.next (live_kept id (windowWrite_unwritable h))
  case writes =>
    have hwrite (offset : Nat) : exec (.registerWrite offset 32 value) s = .next (s.windowWrite offset 32 value) :=
      exec_registerWrite_live offset 32 value hlive
    obtain ⟨hcontrol, hlo, hhi, hproducer, hattention, hack⟩ := windowWrite_registers s value
    have hrearm (refresh : Bool) : exec (.attentionRearm (value.setWidth 4) refresh) s = .next (s.attentionRearm (value.setWidth 4) refresh) :=
      congrArg Host.Outcome.next (live_eq hlive)
    have hrefresh : exec (.attentionRefresh (value.setWidth 4)) s = .next (s.attentionRefresh (value.setWidth 4)) :=
      congrArg Host.Outcome.next (live_eq hlive)
    simp only [hwrite, hcontrol, hlo, hhi, hproducer, hattention, hack]
    refine ⟨fun h1 => ?_, fun h1 h2 h3 => ?_, fun h1 h2 h3 => ?_, fun h1 h2 h3 => ?_, fun h1 h2 h3 => ?_, trivial, trivial, ?_,
      fun h10 h9 => ?_, fun h10 h9 h8 => ?_, fun h10 h9 h8 => ?_, fun h10 h9 => ?_, fun h10 h9 h8 => ?_, fun h10 h9 h8 => ?_,
      (exec_ackPort_live _ _ hlive).symm⟩
    · simp only [controlWrite, h1, if_true]
      rfl
    · simp only [controlWrite, h1, h2, h3, Bool.false_eq_true, if_false, exec_enable_live _ hlive]
    · refine ⟨_, exec_enable_live _ hlive, ?_⟩
      rw [exec_cmdRestart_live (by simp [hlive])]
      simp only [controlWrite, h1, h2, h3, if_true, Bool.false_eq_true, if_false]
    · refine ⟨_, exec_enable_live _ (by exact hlive), ?_⟩
      rw [exec_cmdRestart_live (by simp [hlive])]
      simp only [controlWrite, h1, h2, h3, if_true, Bool.false_eq_true, if_false]
      rfl
    · rw [exec_enable_live _ (by exact hlive)]
      simp only [controlWrite, h1, h2, h3, if_true, Bool.false_eq_true, if_false]
      rfl
    · exact (congrArg Host.Outcome.next (live_eq hlive)).symm
    · simp only [attentionWrite, h10, h9, if_true, Bool.false_eq_true, if_false, hrearm]
    · simp only [attentionWrite, h10, h9, h8, if_true, Bool.false_eq_true, if_false, hrefresh]
    · simp only [attentionWrite, h10, h9, h8, if_true, Bool.false_eq_true, if_false, exec_cplRefresh_live hlive]
    · refine ⟨_, hrearm _, ?_⟩
      rw [exec_cplRefresh_live (by simp [hlive])]
      simp only [attentionWrite, h10, h9, if_true]
    · refine ⟨_, hrefresh, ?_⟩
      rw [exec_cplRefresh_live (by simp [hlive])]
      simp only [attentionWrite, h10, h9, h8, if_true, Bool.false_eq_true, if_false]
    · simp only [attentionWrite, h10, h9, h8, Bool.false_eq_true, if_false]

end Sys2Proof.Machine

/-! The statements on the assembler's choice, its start and its writes (R43, R62, R63, R73 to R82, R86). -/
namespace Sys2Proof.Machine

open State

/-! ### Eligibility and choice -/

theorem slotThreshold_eq_some {s : State} {b : BundleId} {k : Nat} : s.slotThreshold b = some k ↔
    ((s.run b).state = .ready ∧ k = 2) ∨ ((s.run b).state = .held ∧ (s.run b).reminderDue = true ∧ k = 1) := by
  cases hs : (s.run b).state <;> simp [slotThreshold, hs, @eq_comm Nat k 2, @eq_comm Nat k 1]

theorem countedState_active (x : Target) : x.countedState = .active ↔ x.detachPending = false ∧ x.state = .active := by
  cases h : x.detachPending <;> simp [Target.countedState, h]

theorem countedState_quiesced (x : Target) : x.countedState = .quiesced ↔ x.detachPending = false ∧ x.state = .quiesced := by
  cases h : x.detachPending <;> simp [Target.countedState, h]

theorem countedState_faulted (x : Target) : x.countedState = .faulted ↔ x.detachPending = false ∧ x.state = .faulted := by
  cases h : x.detachPending <;> simp [Target.countedState, h]

theorem countedState_detached (x : Target) : x.countedState = .detached ↔ x.state = .detached ∨ x.detachPending = true := by
  cases h : x.detachPending <;> simp [Target.countedState, h]

/-- Eligible: enabled, waiting for slots, on a target that takes it and has them (R74). -/
theorem eligible_waiting (s : State) (b : BundleId) : s.eligible b = true ↔
    (s.config b).enabled = true ∧ ∃ t k, (s.config b).target = some t ∧ s.slotThreshold b = some k ∧
      ((s.target t).countedState = .active ∨ ((s.target t).countedState = .quiesced ∧ (s.config b).urgent = true)) ∧
      k ≤ (s.target t).freeSlots := by
  unfold eligible
  cases (s.config b).target <;> cases s.slotThreshold b <;> simp

theorem eligible_iff (s : State) (b : BundleId) : s.eligible b = true ↔ (s.config b).enabled = true ∧
    ∃ t, (s.config b).target = some t ∧ (s.target t).detachPending = false ∧
      ((s.target t).state = .active ∨ ((s.target t).state = .quiesced ∧ (s.config b).urgent = true)) ∧
      (((s.run b).state = .ready ∧ 2 ≤ (s.target t).freeSlots) ∨
        ((s.run b).state = .held ∧ (s.run b).reminderDue = true ∧ 1 ≤ (s.target t).freeSlots)) := by
  simp only [eligible_waiting, countedState_active, countedState_quiesced]
  refine and_congr_right fun _ => exists_congr fun t => ⟨?_, ?_⟩
  · rintro ⟨k, ht, hk, hstate, hroom⟩
    rcases slotThreshold_eq_some.1 hk with ⟨hready, rfl⟩ | ⟨hheld, hdue, rfl⟩
    · exact ⟨ht, by tauto, by tauto, .inl ⟨hready, hroom⟩⟩
    · exact ⟨ht, by tauto, by tauto, .inr ⟨hheld, hdue, hroom⟩⟩
  · rintro ⟨ht, hp, hstate, ⟨hready, hroom⟩ | ⟨hheld, hdue, hroom⟩⟩
    · exact ⟨2, ht, slotThreshold_eq_some.2 (.inl ⟨hready, rfl⟩), by tauto, hroom⟩
    · exact ⟨1, ht, slotThreshold_eq_some.2 (.inr ⟨hheld, hdue, rfl⟩), by tauto, hroom⟩

/-- The first bundle of all that fulfils a condition is the lowest one. -/
theorem find?_allBundles (p : BundleId → Bool) (b : BundleId) :
    allBundles.find? p = some b ↔ p b = true ∧ ∀ k, p k = true → b ≤ k := by
  rw [allBundles, ← Fin.find?_eq_find?_finRange, Fin.find?_eq_some_iff]
  refine and_congr_right fun _ => forall_congr' fun k => ⟨fun h hk => ?_, fun h hlt => ?_⟩
  · exact not_lt.1 fun hlt => Bool.false_ne_true ((h hlt).symm.trans hk)
  · exact Bool.eq_false_iff.2 fun hk => absurd (h hk) (not_le.2 hlt)

/-- The first bundle of the non-urgent search is the nearest one after the round-robin position (R76). -/
theorem find?_searchOrder (s : State) (p : BundleId → Bool) (b : BundleId) :
    s.searchOrder.find? p = some b ↔ p b = true ∧ ∀ k, p k = true → b - (s.roundRobin + 1) ≤ k - (s.roundRobin + 1) := by
  have hplace (k : BundleId) : s.roundRobin + 1 + (k - (s.roundRobin + 1)) = k := add_sub_cancel _ _
  rw [searchOrder, List.find?_map, Option.map_eq_some_iff]
  constructor
  · rintro ⟨d, hd, rfl⟩
    obtain ⟨hp, hfirst⟩ := (find?_allBundles _ _).1 hd
    refine ⟨hp, fun k hk => ?_⟩
    rw [add_sub_cancel_left]
    exact hfirst _ (by simpa [hplace] using hk)
  · rintro ⟨hp, hfirst⟩
    refine ⟨b - (s.roundRobin + 1), (find?_allBundles _ _).2 ⟨by simpa [hplace] using hp, fun d hd => ?_⟩, hplace b⟩
    simpa using hfirst _ hd

theorem choice_urgent {s : State} {b : BundleId} (h : allBundles.find? (fun b => s.eligible b && (s.config b).urgent) = some b) :
    s.choice = some b := by
  simp only [choice, h]

theorem choice_search {s : State} (h : allBundles.find? (fun b => s.eligible b && (s.config b).urgent) = none) :
    s.choice = s.searchOrder.find? s.eligible := by
  simp only [choice, h]

/-- The lowest eligible urgent bundle, else the first eligible one of the search (R76). -/
theorem choice_eq_some (s : State) (b : BundleId) : s.choice = some b ↔ s.eligible b = true ∧
    (((s.config b).urgent = true ∧ ∀ k, s.eligible k = true → (s.config k).urgent = true → b ≤ k) ∨
      ((∀ k, s.eligible k = true → (s.config k).urgent = false) ∧
        ∀ k, s.eligible k = true → b - (s.roundRobin + 1) ≤ k - (s.roundRobin + 1))) := by
  cases hu : allBundles.find? fun b => s.eligible b && (s.config b).urgent with
  | some c =>
    obtain ⟨hc, hlowest⟩ := (find?_allBundles _ _).1 hu
    simp only [Bool.and_eq_true] at hc hlowest
    rw [choice_urgent hu, Option.some_inj]
    constructor
    · rintro rfl
      exact ⟨hc.1, .inl ⟨hc.2, fun k hk hku => hlowest k ⟨hk, hku⟩⟩⟩
    · rintro ⟨hb, ⟨hurgent, hle⟩ | ⟨hnone, -⟩⟩
      · exact le_antisymm (hlowest b ⟨hb, hurgent⟩) (hle c hc.1 hc.2)
      · exact absurd hc.2 (by simp [hnone c hc.1])
  | none =>
    have hnone : ∀ k, s.eligible k = true → (s.config k).urgent = false := by
      simpa [allBundles] using hu
    rw [choice_search hu, find?_searchOrder]
    refine and_congr_right fun hb => ⟨fun h => .inr ⟨hnone, h⟩, ?_⟩
    rintro (⟨hurgent, -⟩ | ⟨-, h⟩)
    · exact absurd hurgent (by simp [hnone b hb])
    · exact h

theorem choice_eq_none (s : State) : s.choice = none ↔ ∀ b, s.eligible b = false := by
  constructor
  · intro h b
    cases hu : allBundles.find? fun b => s.eligible b && (s.config b).urgent with
    | some c => rw [choice_urgent hu] at h; cases h
    | none =>
      rw [choice_search hu, List.find?_eq_none] at h
      have hmem : b ∈ s.searchOrder :=
        List.mem_map.2 ⟨b - (s.roundRobin + 1), List.mem_finRange _, add_sub_cancel _ _⟩
      simpa using h b hmem
  · intro h
    have hnone : allBundles.find? (fun b => s.eligible b && (s.config b).urgent) = none := List.find?_eq_none.2 (by simp [h])
    rw [choice_search hnone]
    exact List.find?_eq_none.2 (by simp [h])

/-! ### Waiting reasons -/

theorem waitingReason_none {s : State} {b : BundleId}
    (h : ¬ ((s.run b).state = .ready ∨ ((s.run b).state = .held ∧ (s.run b).reminderDue = true))) : s.waitingReason b = .none := by
  have hnone : s.slotThreshold b = none := by
    refine Option.eq_none_iff_forall_ne_some.2 fun k hk => h ?_
    exact (slotThreshold_eq_some.1 hk).imp And.left fun ⟨hheld, hdue, _⟩ => ⟨hheld, hdue⟩
  simp only [waitingReason, hnone]

/-- What the waiting bundle waits for (R63, R113). -/
theorem waitingReason_waiting {s : State} {b : BundleId}
    (h : (s.run b).state = .ready ∨ ((s.run b).state = .held ∧ (s.run b).reminderDue = true)) :
    ((s.config b).target = none → s.waitingReason b = .targetAbsent) ∧
      ∀ k, (s.config b).target = some k → s.waitingReason b =
        if (s.target k).state = .detached ∨ (s.target k).detachPending = true then .targetAbsent
        else if (s.target k).state = .faulted then .targetFaulted
        else if (s.target k).state = .quiesced ∧ (s.config b).urgent = false then .targetQuiesced
        else if (s.target k).freeSlots < (if (s.run b).state = .ready then 2 else 1) then .ringFull
        else .assemblerBusy := by
  have hthreshold : s.slotThreshold b = some (if (s.run b).state = .ready then 2 else 1) := by
    rw [slotThreshold_eq_some]
    rcases h with hready | ⟨hheld, hdue⟩
    · exact .inl ⟨hready, if_pos hready⟩
    · exact .inr ⟨hheld, hdue, if_neg (by simp [hheld])⟩
  refine ⟨fun ht => by simp only [waitingReason, hthreshold, ht], fun k ht => ?_⟩
  simp only [waitingReason, hthreshold, ht, countedState_detached]
  by_cases hdetached : (s.target k).state = .detached ∨ (s.target k).detachPending = true
  · simp only [if_pos hdetached]
  · have hp : (s.target k).detachPending = false := by simpa using (not_or.1 hdetached).2
    simp [countedState_faulted, countedState_quiesced, hp]

/-- Settles O31: `eligible_iff`, `choice_eq_some` and `waitingReason_waiting`. -/
theorem choiceOfBundle : Obligations.ChoiceOfBundle := fun s =>
  ⟨eligible_iff s, choice_eq_none s, choice_eq_some s, fun h => by simp [chosen, h],
    fun h => by simp [chosen, Option.isNone_iff_eq_none, h], fun _ => rfl,
    fun _ => ⟨waitingReason_none, waitingReason_waiting⟩⟩

/-! ### The start of an EVENT assembly -/

theorem takeCopy_eq_some {s : State} {n : SourceId} {c : Copy} : s.takeCopy n = some c ↔ ∃ x, s.record n = some x ∧
    c = ⟨n, x.count, x.firstTime, x.lastTime, x.interval,
      match lineOf n with
      | some l => some (s.line l).qualified.detail
      | none => x.detail,
      s.lossFlag n, (s.tally n).lost, .unwritten⟩ := by
  rw [takeCopy, Option.map_eq_some_iff]
  exact exists_congr fun x => and_congr_right fun _ => eq_comm

/-- A take leaves the copies of the other sources as they would be. -/
theorem takeCopy_setRecord {s : State} {m n : SourceId} (x : Option PendingRecord) (h : n ≠ m) :
    (s.setRecord m x).takeCopy n = s.takeCopy n := by
  simp [takeCopy, lossFlag, setRecord_record_ne _ _ h]

/-- The take of different sources' records gives the copy of each, in order (R43). -/
theorem takeRecords_copies (l : List SourceId) (s : State) (h : l.Nodup) : (takeRecords l s).1 = l.filterMap s.takeCopy := by
  induction l generalizing s with
  | nil => rfl
  | cons n l ih =>
    obtain ⟨hn, hl⟩ := List.nodup_cons.1 h
    have hothers : l.filterMap (s.setRecord n none).takeCopy = l.filterMap s.takeCopy :=
      List.filterMap_congr fun m hm => takeCopy_setRecord none fun hmn => hn (hmn ▸ hm)
    unfold takeRecords
    cases hc : s.takeCopy n with
    | none => rw [List.filterMap_cons_none hc, ← ih s hl]
    | some c => rw [List.filterMap_cons_some hc, ← hothers, ← ih _ hl]

/-- Sources that all have a record give one copy each. -/
theorem filterMap_takeCopy_sources {s : State} (l : List SourceId) (h : ∀ n ∈ l, (s.record n).isSome = true) :
    (l.filterMap s.takeCopy).map (fun c => c.source) = l := by
  induction l with
  | nil => rfl
  | cons n l ih =>
    obtain ⟨x, hx⟩ := Option.isSome_iff_exists.1 (h n (List.mem_cons_self ..))
    have hc : s.takeCopy n = some _ := takeCopy_eq_some.2 ⟨x, hx, rfl⟩
    rw [List.filterMap_cons_some hc, List.map_cons, ih fun m hm => h m (List.mem_cons_of_mem _ hm)]

theorem eventStart_chosen {s : State} {b : BundleId} {t : TargetId} (hc : s.chosen = some b)
    (ht : (s.config b).target = some t) (hs : (s.run b).state = .ready) : s.eventStart = s.startEvent b t := by
  simp only [eventStart, hc, ht, if_pos hs]

theorem modeLimit_eq (c : BundleConfig) : modeLimit c = if c.mode = .single then 1 else c.sweepLimit := by
  cases hm : c.mode <;> simp [modeLimit, hm]

/-- Settles O32: the row is `startEvent` of the chosen bundle; its copies are those of the records taken (`takeRecords_copies`). -/
theorem eventAssemblyStart : Obligations.EventAssemblyStart := by
  intro s b t hlive hchosen htarget hready l limit room n
  have hexec : exec .eventAssemblyStart s = .next (s.startEvent b t) :=
    congrArg Host.Outcome.next ((live_eq hlive).trans (eventStart_chosen hchosen htarget hready))
  have hsize : s.assemblySize b t = n := by simp only [assemblySize, modeLimit_eq, n, l, limit, room]
  have hnodup : (l.take n).Nodup := (List.take_sublist n l).nodup (pendingList_nodup s b)
  have hcopies : (takeRecords (l.take n) (s.takeTurn b)).1 = (l.take n).filterMap s.takeCopy := by
    rw [takeRecords_copies _ _ hnodup]
    exact List.filterMap_congr fun m _ => by simp [takeCopy, lossFlag]
  have hassembly : (s.startEvent b t).assembly = some
      { kind := .event, bundle := b, target := t, base := (s.target t).produced, copies := (l.take n).filterMap s.takeCopy
        token := nextToken (s.run b).token, reminderNumber := 0, flagUrgent := (s.config b).urgent
        flagMore := decide (n < l.length), flagPartial := s.cutBySpace b t, captured := captured (s.config b)
        position := .entry 1 } := by
    simp only [startEvent, updRun_assembly, setAssembly_assembly, hsize]
    rw [← hcopies]
  refine ⟨_, _, hexec, hassembly, rfl, rfl, rfl, rfl, ?sources, ?copies, rfl, rfl, rfl, decide_eq_true_iff, ?cut, rfl, rfl, ?self,
    fun k hk => ?others, fun m => ?records, ?tallies, ?intervals, ?turn, ?config, ?fields, ?targets, ?proc, ?requests⟩
  case sources =>
    refine filterMap_takeCopy_sources _ fun m hm => ?_
    exact (mem_pendingList s b m).1 (List.mem_of_mem_take hm) |>.1
  case copies =>
    intro c hc
    obtain ⟨m, -, hm⟩ := List.mem_filterMap.1 hc
    obtain ⟨x, hx, rfl⟩ := takeCopy_eq_some.1 hm
    refine ⟨rfl, rfl, rfl, x, hx, rfl, rfl, rfl, rfl, fun hl => ?_, fun j hl => ?_⟩ <;> simp only [hl]
  case cut => simp [cutBySpace, modeLimit_eq, l, room, limit]
  case self => simp [startEvent, takeRecords_frame]
  case others => simp only [startEvent, updRun_run_ne _ _ hk, setAssembly_run, takeRecords_frame, takeTurn_frame]
  case records =>
    simp only [startEvent, hsize, updRun_record, setAssembly_record, takeRecords_frame, takeTurn_frame, l]
  case turn => simp [startEvent, takeTurn_roundRobin]
  case fields => simp [fieldSide]
  all_goals simp

/-! ### Writes -/

theorem atHeader_entry {s : State} {a : Assembly} {k : Nat} (ha : s.assembly = some a) (hp : a.position = .entry k) :
    s.atHeader = false := by
  simp [atHeader, ha, hp]

/-- Settles O34: `issueWrite` by the write position, and the rows of the first write and of an entry's answer. -/
theorem writesInOrder : Obligations.WritesInOrder := by
  refine ⟨fun s a hlive ha hfree => ?first, fun s id k a h ha hp => ?entry, fun s k a c ha hp hc => ?entryWrite,
    fun s a ha hp => ?headerWrite⟩
  case first =>
    have hfree' : ¬ s.inFlight .assembly = true := by simp [hfree]
    exact congrArg Host.Outcome.next ((live_eq hlive).trans (if_neg hfree'))
  case entry =>
    have hentry : ¬ s.atHeader = true := by simp [atHeader_entry ha hp]
    have hdone : (s.endRequest id).entryDone =
        ((s.endRequest id).setAssembly (some { a with position := Assembly.after a k })).issueWrite := by
      simp only [entryDone, endRequest_assembly, ha, hp]
    exact congrArg Host.Outcome.next ((if_neg hentry).trans ((answer_awaited h rfl).trans hdone))
  case entryWrite =>
    simp only [issueWrite, ha, hp, hc]
    rfl
  case headerWrite =>
    have hissued : s.issueWrite = s.issueRequest .assembly (s.ringSlot a.target a.base)
        (.write (headerBytes (phase (s.target a.target).ringSize a.base) s.timebase a)) := by
      simp only [issueWrite, ha, hp]
    exact hissued

end Sys2Proof.Machine

/-! The statements on acknowledges, releases, hold timers and SOURCE_CLEAR (R47, R96 to R104). -/
namespace Sys2Proof.Machine

open State

/-! ### Lists and states of bundles -/

theorem pendingList_of_eq {s t : State} (hr : t.records = s.records) (ho : t.routes = s.routes) : t.pendingList = s.pendingList := by
  funext b
  have hrecord : t.record = s.record := by funext n; simp [record, hr]
  exact pendingList_congr (fun n => by rw [hrecord])
    (fun n x y hx hy => by rw [hrecord, hx] at hy; rw [Option.some.inj hy]) (fun n => by simp [route, ho]) b

theorem setState_run_self (s : State) (b : BundleId) (st : BundleState) : (s.setState b st).run b = { s.run b with state := st } := by
  simp [setState]

theorem setState_run_ne (s : State) {b k : BundleId} (st : BundleState) (h : k ≠ b) : (s.setState b st).run k = s.run k := by
  simp [setState, updRun_run_ne _ _ h]

theorem settleByList_run_self (s : State) (b : BundleId) :
    (s.settleByList b).run b = { s.run b with state := if s.pendingList b = [] then .idle else .ready } :=
  setState_run_self s b _

theorem settleByList_run_ne (s : State) {b k : BundleId} (h : k ≠ b) : (s.settleByList b).run k = s.run k := setState_run_ne s _ h

/-! ### Release -/

/-- The re-assertion checks of a release, on the state with the hold timer stopped and the reminders dropped (R100, R101). -/
def State.releaseChecks (s : State) (b : BundleId) : State :=
  (s.updRun b fun x => { x with holdTimer := .stopped, reminderDue := false, remindersPosted := 0 }).reassert (s.run b).heldSet

theorem releaseHold_eq (s : State) (b : BundleId) :
    s.releaseHold b = ((s.releaseChecks b).updRun b fun x => { x with heldSet := [] }).settleByList b := rfl

/-- The checks leave a HELD bundle HELD. -/
theorem releaseChecks_run_self {s : State} {b : BundleId} (h : (s.run b).state = .held) :
    (s.releaseChecks b).run b = { s.run b with holdTimer := .stopped, reminderDue := false, remindersPosted := 0 } := by
  have hheld : ((s.updRun b fun x => { x with holdTimer := .stopped, reminderDue := false, remindersPosted := 0 }).run b).state ≠ .idle := by
    simp [h]
  rw [releaseChecks, (woken_reassert _ _).run hheld, updRun_run_self]

theorem releaseHold_pendingList (s : State) (b : BundleId) : (s.releaseHold b).pendingList = (s.releaseChecks b).pendingList := by
  rw [releaseHold_eq]
  exact pendingList_of_eq (by simp) (by simp)

/-- A released bundle settles on READY or IDLE by its list, with its token and nothing else of the hold (R100). -/
theorem releaseHold_run_self {s : State} {b : BundleId} (h : (s.run b).state = .held) :
    (s.releaseHold b).run b =
      ⟨if (s.releaseHold b).pendingList b = [] then .idle else .ready, (s.run b).token, [], 0, false, .stopped⟩ := by
  have hlist : ((s.releaseChecks b).updRun b fun x => { x with heldSet := [] }).pendingList = (s.releaseChecks b).pendingList :=
    pendingList_of_eq (by simp) (by simp)
  rw [releaseHold_pendingList, releaseHold_eq, settleByList_run_self, hlist, updRun_run_self, releaseChecks_run_self h]

theorem releaseHold_run_checks (s : State) {b k : BundleId} (h : k ≠ b) : (s.releaseHold b).run k = (s.releaseChecks b).run k := by
  rw [releaseHold_eq, settleByList_run_ne _ h, updRun_run_ne _ _ h]

theorem releaseHold_accounts (s : State) (b : BundleId) : (s.releaseHold b).accounts = (s.releaseChecks b).accounts := by
  simp [releaseHold_eq, accounts]

theorem release_run (s : State) (b k : BundleId) : (s.release b).run k = (s.releaseHold b).run k := by simp [release]

theorem release_appends (s : State) (b : BundleId) : Appends s (s.release b) :=
  (Appends.of_eq (t := s.releaseHold b) (by simp)).trans (Appends.sweep _ _ _ _)

/-- A bundle just released is not HELD. -/
theorem release_not_held {s : State} {b : BundleId} (h : (s.run b).state = .held) : ((s.release b).run b).state ≠ .held := by
  rw [release_run, releaseHold_run_self h]
  dsimp only
  split <;> simp

/-! ### Acknowledges -/

theorem ackCommand_stale {s : State} {cmd : CmdId} {bundle : Byte} {token : Half} {b : BundleId} (hb : bundle.toNat = b.val) :
    ((s.run b).state ≠ .held →
      s.ackCommand cmd bundle token = (s.staleAck b).complete cmd .notHeld (result1 (s.run b).state.code)) ∧
    ((s.run b).state = .held → token ≠ (s.run b).token →
      s.ackCommand cmd bundle token = (s.staleAck b).complete cmd .staleToken (result1 (s.run b).token.toNat)) := by
  simp only [ackCommand, bundleArg_of hb]
  exact ⟨fun h => if_pos h, fun h ht => (if_neg (not_not.2 h)).trans (if_pos ht)⟩

theorem ackCommand_releases {s : State} {cmd : CmdId} {bundle : Byte} {token : Half} {b : BundleId} (hb : bundle.toNat = b.val)
    (h : (s.run b).state = .held) (ht : token = (s.run b).token) :
    s.ackCommand cmd bundle token =
      (s.release b).complete cmd .ok (resultAck (s.run b).heldSet.length ((s.run b).heldSet.countP s.levelActive)) := by
  simp only [ackCommand, bundleArg_of hb]
  exact (if_neg (not_not.2 h)).trans (if_neg (not_not.2 ht))

theorem ackPortWrite_releases {s : State} {bundle : Byte} {token : Half} {b : BundleId} (hb : bundle.toNat = b.val)
    (h : (s.run b).state = .held) (ht : token = (s.run b).token) : s.ackPortWrite bundle token = (s.release b).settleHand := by
  simp only [ackPortWrite, bundleArg_of hb]
  exact if_pos ⟨h, ht⟩

/-- Settles O29: ACK and ACK_PORT by the bundle's number, state and token. -/
theorem acknowledges : Obligations.Acknowledges := by
  refine ⟨fun s r bundle token h => ?ack, fun s bundle token hlive => ?port⟩
  case ack =>
    intro cmd u
    have hexec : exec (.ack r bundle token) s = .next (u.ackCommand cmd bundle token) := congrArg Host.Outcome.next (command_taken h)
    have hrun (b : BundleId) : u.run b = s.run b := by simp [u]
    refine ⟨fun hbad => ?_, fun b hb => ⟨fun hnot => ?_, fun hheld hstale => ?_, fun hheld hfresh => ⟨_, rfl, ?_, ?_, ?_⟩⟩⟩
    · simp only [hexec, ackCommand, bundleArg_none hbad]
    · rw [hexec, (ackCommand_stale hb).1 (by rwa [hrun]), hrun]
      rfl
    · rw [hexec, (ackCommand_stale hb).2 (by rwa [hrun]) (by rwa [hrun]), hrun]
      rfl
    · rw [hexec, ackCommand_releases hb (by rwa [hrun]) (by rwa [hrun]), hrun]
      simp [u]
    · rw [complete_ok]
      simpa using release_not_held (s := u) (b := b) (by rwa [hrun])
    · exact (release_appends u b).last _ _ _
  case port =>
    intro grown
    have hexec := exec_ackPort_live bundle token hlive
    refine ⟨fun hbad => ?_, fun b hb => ⟨fun hstale => ?_, fun hheld hfresh => ⟨?_, by simp⟩⟩⟩
    · rw [hexec, ackPortWrite_invalid token (bundleArg_none hbad)]
      rfl
    · have hcount : (s.staleAck b).staleCount = s.staleCount := by simp
      rw [hexec, ackPortWrite_stale (bundleArg_of hb) hstale, countStale, hcount]
      rfl
    · rw [hexec, ackPortWrite_releases hb hheld hfresh]

/-- Settles O30: a release by `releaseHold_run_self` and its checks, the timer's expiry by the reminder limit. -/
theorem releaseAndHoldTimer : Obligations.ReleaseAndHoldTimer := by
  refine ⟨fun s b h => ?release, fun s b hlive hheld hdue => ?timer⟩
  case release =>
    have hlist : (s.release b).pendingList = (s.releaseHold b).pendingList := pendingList_of_eq (by simp [release]) (by simp [release])
    refine ⟨?_, ?_, fun k hk => ?_, by simp, by simp [fieldSide], by simp [assembler]⟩
    · rw [release_run, releaseHold_run_self h, hlist]
    · refine Eq.trans ?_ (releaseHold_accounts s b)
      simp [release, accounts]
    · rw [release_run, releaseHold_run_checks s hk]
      rfl
  case timer =>
    have hexec : exec (.holdTimerExpiry b) s = .next (s.holdExpires b) := congrArg Host.Outcome.next (live_eq hlive)
    refine ⟨fun hleft => ?reminds, fun hlapsed => ?lapses⟩
    case reminds =>
      have hreminds : exec (.holdTimerExpiry b) s =
          .next ((s.updRun b fun x => { x with holdTimer := .stopped, reminderDue := true }).rejudgeSpaceOf b) := by
        rw [hexec, holdExpires, if_pos ⟨hheld, hdue⟩, if_pos hleft]
      refine ⟨_, hreminds, by simp, fun k hk => by simp [updRun_run_ne _ _ hk], ?_, ?_, ?_, ?_, ?_⟩
      all_goals simp [fieldSide, accounts, assembler]
    case lapses =>
      rw [hexec, holdExpires, if_pos ⟨hheld, hdue⟩, if_neg (Nat.not_lt.2 hlapsed)]
      rfl

/-! ### Discards -/

theorem pendingCount_eq (s : State) (n : SourceId) : s.pendingCount n = ((s.record n).map PendingRecord.count).getD 0 := by
  cases h : s.record n <;> simp [pendingCount, h]

/-- A source's record is removed whole (R28). -/
theorem clearRecord_record (s : State) (n m : SourceId) : (s.clearRecord n).record m = if m = n then none else s.record m := by
  simpa using record_foldl_clear [n] s m

/-- And its count is added to cleared (R28, R45). -/
theorem clearRecord_tally (s : State) (n m : SourceId) : (s.clearRecord n).tally m =
    if m = n then { s.tally n with cleared := (s.tally n).cleared + BitVec.ofNat 32 (s.pendingCount n) } else s.tally m := by
  cases h : s.record n with
  | none =>
    by_cases hm : m = n
    · subst hm
      simp [clearRecord, pendingCount, h]
    · simp [clearRecord, h, hm]
  | some r => simp [clearRecord, pendingCount, h, updTally_tally]

theorem discardRecord_record (s : State) (n m : SourceId) : (s.discardRecord n).record m = if m = n then none else s.record m := by
  unfold discardRecord
  split
  case isTrue => simp [clearRecord_record]
  case isFalse h =>
    by_cases hm : m = n
    · subst hm; simpa using h
    · rw [if_neg hm]

theorem discardRecord_tally (s : State) (n m : SourceId) : (s.discardRecord n).tally m =
    if m = n then { s.tally n with cleared := (s.tally n).cleared + BitVec.ofNat 32 (s.pendingCount n) } else s.tally m := by
  unfold discardRecord
  split
  case isTrue => simp [clearRecord_tally]
  case isFalse h =>
    have hnone : s.record n = none := by simpa using h
    by_cases hm : m = n
    · subst hm; simp [pendingCount, hnone]
    · rw [if_neg hm]

theorem voidCopy_copies (s : State) (n : SourceId) : (s.voidCopy n).copies = voidIn n s.copies := by
  unfold copies voidCopy
  cases s.assembly <;> simp [voidIn]

theorem voidCopy_tally (s : State) (n m : SourceId) : (s.voidCopy n).tally m =
    if m = n then { s.tally n with cleared := (s.tally n).cleared + BitVec.ofNat 32 (voidableIn n s.copies) } else s.tally m := by
  simp [voidCopy, updTally_tally]

theorem discardRecord_copies (s : State) (n : SourceId) : (s.discardRecord n).copies = s.copies := by simp [copies]

theorem discardSource_record (s : State) (n m : SourceId) : (s.discardSource n).record m = if m = n then none else s.record m := by
  simp [State.discardSource, discardRecord_record]

/-- A discard counts what it removes and what it voids as cleared (R28, R29). -/
theorem discardSource_tally (s : State) (n m : SourceId) : (s.discardSource n).tally m =
    if m = n then
      { s.tally n with
        cleared := (s.tally n).cleared + BitVec.ofNat 32 (s.pendingCount n) + BitVec.ofNat 32 (voidableIn n s.copies) }
    else s.tally m := by
  by_cases hm : m = n <;> simp [State.discardSource, voidCopy_tally, discardRecord_tally, discardRecord_copies, hm]

theorem discardSource_copies (s : State) (n : SourceId) : (s.discardSource n).copies = voidIn n s.copies := by
  rw [State.discardSource, voidCopy_copies, discardRecord_copies]

/-- Settles O17: the fields of `discardSource`, with the completion behind those of the DRAINs that it ends. -/
theorem sourceClear : Obligations.SourceClear := by
  intro s r source h cmd
  have hexec : exec (.sourceClear r source) s = .next ((s.taken r).sourceClearCommand cmd source) :=
    congrArg Host.Outcome.next (command_taken h)
  refine ⟨fun hbad => ?_, fun n hn => ?_⟩
  · simp only [hexec, sourceClearCommand, sourceArg_eq_none hbad]
  · intro gone voided
    have hvalid : exec (.sourceClear r source) s = .next (((s.taken r).discardSource n).complete cmd .ok (resultCounts gone voided)) := by
      simp only [hexec, sourceClearCommand, sourceArg_eq_some hn]
      rfl
    have hrecord (m : SourceId) : (((s.taken r).discardSource n).complete cmd .ok (resultCounts gone voided)).record m =
        if m = n then none else s.record m := by
      simp [complete_ok, discardSource_record]
    have htally (m : SourceId) : (((s.taken r).discardSource n).complete cmd .ok (resultCounts gone voided)).tally m =
        if m = n then { s.tally n with cleared := (s.tally n).cleared + BitVec.ofNat 32 gone + BitVec.ofNat 32 voided }
        else s.tally m := by
      simp [complete_ok, discardSource_tally, gone, voided]
    refine ⟨_, hvalid, by rw [hrecord, if_pos rfl], by rw [htally, if_pos rfl], ?copies,
      fun m hm => ⟨by rw [hrecord, if_neg hm], by rw [htally, if_neg hm]⟩, ?intervals, ?fields, ?turn, ?states,
      (Appends.discardSource _ n).last _ _ _⟩
    case copies =>
      have hcopies := discardSource_copies (s.taken r) n
      simpa [copies, complete_ok] using hcopies
    case states =>
      refine (OnlyStates.of_eq (t := s.taken r) (by simp) (by simp)).trans ((OnlyStates.discardSource (s.taken r) n).trans ?_)
      exact .of_eq (by simp) (by simp [complete_ok])
    case fields => simp [fieldSide, complete_ok]
    all_goals simp [complete_ok]

end Sys2Proof.Machine

/-! The statements on the arguments of ROUTE_SET and BUNDLE_SET, and BUNDLE_SET by the bundle's state (R24, R65 to R67). -/
namespace Sys2Proof.Machine

open State

/-! ### Codes and their fields -/

/-- The two codes of a field are 0 and 1. -/
theorem twoArg_of {α : Type} {zero one : α} (code : α → Nat) (hzero : code zero = 0) (hone : code one = 1) {x : Byte}
    (h : ¬ 1 < x.toNat) : ∃ v, twoArg zero one x = some v ∧ code v = x.toNat := by
  by_cases hx : x = 0#8
  case pos => exact ⟨zero, if_pos hx, by simp [hx, hzero]⟩
  case neg =>
    have hx' : x = 1#8 := by bv_omega
    exact ⟨one, by simp [twoArg, hx'], by simp [hx', hone]⟩

theorem twoArg_none {α : Type} {zero one : α} {x : Byte} (h : 1 < x.toNat) : twoArg zero one x = none := by
  have hzero : x ≠ 0#8 := by rintro rfl; exact absurd h (by decide)
  have hone : x ≠ 1#8 := by rintro rfl; exact absurd h (by decide)
  simp [twoArg, hzero, hone]

theorem triggerArg_of {x : Byte} (h : ¬ 4 < x.toNat) : ∃ v, triggerArg x = some v ∧ v.code = x.toNat := by
  have hcases : x = 0#8 ∨ x = 1#8 ∨ x = 2#8 ∨ x = 3#8 ∨ x = 4#8 := by bv_omega
  rcases hcases with rfl | rfl | rfl | rfl | rfl <;> exact ⟨_, rfl, rfl⟩

theorem triggerArg_none {x : Byte} (h : 4 < x.toNat) : triggerArg x = none := by
  have hcodes : x ≠ 0#8 ∧ x ≠ 1#8 ∧ x ≠ 2#8 ∧ x ≠ 3#8 ∧ x ≠ 4#8 := by bv_omega
  simp [triggerArg, hcodes]

/-- A field that names something, by the something's own code, or holds 0xFF for NONE. -/
theorem orNone_of {α : Type} {f : Byte → Option α} (code : Option α → Nat) {x : Byte} (hnone : code none = 0xFF)
    (h : x ≠ 0xFF#8 → ∃ v, f x = some v ∧ code (some v) = x.toNat) : ∃ v, orNone f x = some v ∧ code v = x.toNat := by
  by_cases hx : x = 0xFF#8
  case pos => exact ⟨none, if_pos hx, by simp [hx, hnone]⟩
  case neg =>
    obtain ⟨v, hv, hcode⟩ := h hx
    exact ⟨some v, by simp [orNone, hx, hv], hcode⟩

theorem orNone_none {α : Type} {f : Byte → Option α} {x : Byte} (hx : x ≠ 0xFF#8) (h : f x = none) : orNone f x = none := by
  simp [orNone, hx, h]

theorem bundleField_of {x : Byte} (h : ¬ (47 < x.toNat ∧ x ≠ 0xFF#8)) :
    ∃ v, orNone bundleArg x = some v ∧ bundleCode v = x.toNat :=
  orNone_of bundleCode rfl fun hx =>
    have hlt : x.toNat < 48 := by have := not_and'.1 h hx; omega
    ⟨⟨x.toNat, hlt⟩, bundleArg_of rfl, rfl⟩

theorem targetField_of {x : Byte} (h : ¬ (5 < x.toNat ∧ x ≠ 0xFF#8)) :
    ∃ v, orNone targetArg x = some v ∧ targetCode v = x.toNat :=
  orNone_of targetCode rfl fun hx =>
    have hlt : x.toNat < 6 := by have := not_and'.1 h hx; omega
    ⟨⟨x.toNat, hlt⟩, targetArg_of rfl, rfl⟩

theorem rankArg_of {x : Byte} (h : ¬ 15 < x.toNat) : ∃ v, rankArg x = some v ∧ v.val = x.toNat :=
  ⟨⟨x.toNat, by omega⟩, dif_pos (by omega), rfl⟩

theorem rankArg_none {x : Byte} (h : 15 < x.toNat) : rankArg x = none := dif_neg (by omega)

theorem rangeArg_of {lo hi : Nat} {x : Byte} (h : lo ≤ x.toNat) (h' : x.toNat ≤ hi) : rangeArg lo hi x = some x.toNat :=
  if_pos ⟨h, h'⟩

theorem rangeArg_none {lo hi : Nat} {x : Byte} (h : ¬ (lo ≤ x.toNat ∧ x.toNat ≤ hi)) : rangeArg lo hi x = none := if_neg h

/-! ### ROUTE_SET's arguments -/

theorem routeArgs_of {enabled trigger : Byte} (filter : Half) {bundle rank : Byte} (he : ¬ 1 < enabled.toNat)
    (ht : ¬ 4 < trigger.toNat) (hb : ¬ (47 < bundle.toNat ∧ bundle ≠ 0xFF#8)) (hr : ¬ 15 < rank.toNat) :
    ∃ e, routeArgs enabled trigger filter bundle rank = some e ∧ boolCode e.enabled = enabled.toNat ∧
      e.trigger.code = trigger.toNat ∧ e.filter = filter ∧ bundleCode e.bundle = bundle.toNat ∧ e.rank.val = rank.toNat := by
  obtain ⟨e, he, hce⟩ := twoArg_of (zero := false) (one := true) boolCode rfl rfl he
  obtain ⟨t, ht, hct⟩ := triggerArg_of ht
  obtain ⟨b, hb, hcb⟩ := bundleField_of hb
  obtain ⟨k, hk, hck⟩ := rankArg_of hr
  exact ⟨⟨e, t, filter, b, k⟩, by simp only [routeArgs, he, ht, hb, hk], hce, hct, rfl, hcb, hck⟩

theorem routeArgs_none {enabled trigger : Byte} {filter : Half} {bundle rank : Byte}
    (h : 1 < enabled.toNat ∨ 4 < trigger.toNat ∨ (47 < bundle.toNat ∧ bundle ≠ 0xFF#8) ∨ 15 < rank.toNat) :
    routeArgs enabled trigger filter bundle rank = none := by
  unfold routeArgs
  split
  case h_1 e t b k he ht hb hk =>
    exfalso
    rcases h with h | h | ⟨h, hx⟩ | h
    · simp [twoArg_none h] at he
    · simp [triggerArg_none h] at ht
    · simp [orNone_none hx (bundleArg_none h)] at hb
    · simp [rankArg_none h] at hk
  case h_2 => rfl

/-- A ROUTE_SET with a bad argument is rejected (R24). -/
theorem routeSetCommand_bad {s : State} {cmd : CmdId} {source : Half} {entry : Option RouteEntry} {discard : Bool}
    (h : 215 < source.toNat ∨ entry = none) : s.routeSetCommand cmd source entry discard = s.complete cmd .badArgument 0 := by
  unfold routeSetCommand
  rcases h with h | rfl
  · simp only [sourceArg_eq_none h]
  · cases sourceArg source <;> rfl

/-- A ROUTE_SET with valid arguments, with and without DISCARD (R25, R32). -/
theorem routeSetCommand_valid {s : State} {cmd : CmdId} {source : Half} {n : SourceId} (e : RouteEntry) (discard : Bool)
    (h : source.toNat = n.val) :
    s.routeSetCommand cmd source (some e) discard =
      (((if discard then s.discardSource n else s).reroute n e).complete cmd .ok
        (if discard then resultCounts (s.pendingCount n) (voidableIn n s.copies) else 0)) := by
  cases discard <;> simp [routeSetCommand, sourceArg_eq_some h]

theorem writeRoute_route (s : State) (n m : SourceId) (e : RouteEntry) :
    (s.writeRoute n e).route m = if m = n then e else s.route m := by
  unfold writeRoute
  dsimp only
  split <;> simp [setRoute_route]

theorem reroute_route (s : State) (n m : SourceId) (e : RouteEntry) :
    (s.reroute n e).route m = if m = n then e else s.route m := by
  unfold reroute
  dsimp only
  split <;> simp [writeRoute_route]

/-- A rejected command of a taken slot, in the words of the statements (R139). -/
theorem rejected_taken (s : State) (r : SlotRead) (kind : Byte) {st : Status} (h : st.rejected = true) :
    ∃ u, OnlyCommandPath s u ∧ Completes s u ⟨cmdOf r kind, st, 0⟩ ∧ Issues s u r.req [.completionWrite] ∧
      (s.taken r).complete (cmdOf r kind) st 0 = u.accept 208 (some r.tag) :=
  ⟨(s.taken r).pushCompletion ⟨cmdOf r kind, st, 0⟩, only_push s r _, by rw [Completes, pushCompletion_proc, taken_proc],
    issues_push s r _, complete_rejected _ _ _ h⟩

/-- Settles O21: each argument's check and the value it gives, and the entry that `reroute` writes. -/
theorem routeArguments : Obligations.RouteArguments := by
  intro s r source enabled trigger filter bundle rank discard h bad
  have hexec : exec (.routeSet r source enabled trigger filter bundle rank discard) s =
      .next ((s.taken r).routeSetCommand (cmdOf r 0x10) source (routeArgs enabled trigger filter bundle rank) discard) :=
    congrArg Host.Outcome.next (command_taken h)
  refine ⟨fun hbad => ?_, fun hgood => ?_⟩
  · obtain ⟨u, honly, hcompletes, hissues, hreject⟩ := rejected_taken s r 0x10 (st := .badArgument) rfl
    refine ⟨u, honly, hcompletes, hissues, ?_⟩
    rw [hexec, routeSetCommand_bad (hbad.imp_right routeArgs_none), hreject]
  · simp only [bad, not_or] at hgood
    obtain ⟨hsource, he, ht, hb, hr⟩ := hgood
    obtain ⟨e, hargs, hcodes⟩ := routeArgs_of filter he ht hb hr
    have hlt : source.toNat < 216 := by omega
    rw [hargs, routeSetCommand_valid (n := ⟨source.toNat, hlt⟩) e discard rfl] at hexec
    refine ⟨⟨source.toNat, hlt⟩, _, rfl, hexec, ?_⟩
    simpa only [complete_frame, reroute_route, if_true] using hcodes

/-! ### BUNDLE_SET's arguments -/

theorem bundleArgs_of {enabled target mode sweepLimit urgent hold reminderLimit : Byte} (holdTimeout : Half)
    (he : ¬ 1 < enabled.toNat) (ht : ¬ (5 < target.toNat ∧ target ≠ 0xFF#8)) (hm : ¬ 1 < mode.toNat) (hw : ¬ sweepLimit = 0)
    (hw' : ¬ 8 < sweepLimit.toNat) (hu : ¬ 1 < urgent.toNat) (hh : ¬ 1 < hold.toNat) (hl : ¬ 7 < reminderLimit.toNat) :
    ∃ c, bundleArgs enabled target mode sweepLimit urgent hold reminderLimit holdTimeout = some c ∧
      boolCode c.enabled = enabled.toNat ∧ targetCode c.target = target.toNat ∧ c.mode.code = mode.toNat ∧
      c.sweepLimit = sweepLimit.toNat ∧ boolCode c.urgent = urgent.toNat ∧ c.hold.code = hold.toNat ∧
      c.holdTimeout = holdTimeout ∧ c.reminderLimit = reminderLimit.toNat := by
  obtain ⟨e, he, hce⟩ := twoArg_of (zero := false) (one := true) boolCode rfl rfl he
  obtain ⟨t, ht, hct⟩ := targetField_of ht
  obtain ⟨m, hm, hcm⟩ := twoArg_of (zero := Mode.single) (one := .sweep) Mode.code rfl rfl hm
  obtain ⟨u, hu, hcu⟩ := twoArg_of (zero := false) (one := true) boolCode rfl rfl hu
  obtain ⟨o, ho, hco⟩ := twoArg_of (zero := HoldMode.hold) (one := .nohold) HoldMode.code rfl rfl hh
  have hlow : 1 ≤ sweepLimit.toNat := by bv_omega
  refine ⟨⟨e, t, m, sweepLimit.toNat, u, o, holdTimeout, reminderLimit.toNat⟩, ?_, hce, hct, hcm, rfl, hcu, hco, rfl, rfl⟩
  simp only [bundleArgs, he, ht, hm, hu, ho, rangeArg_of hlow (Nat.not_lt.1 hw'),
    rangeArg_of (Nat.zero_le reminderLimit.toNat) (Nat.not_lt.1 hl)]

theorem bundleArgs_none {enabled target mode sweepLimit urgent hold reminderLimit : Byte} {holdTimeout : Half}
    (h : 1 < enabled.toNat ∨ (5 < target.toNat ∧ target ≠ 0xFF#8) ∨ 1 < mode.toNat ∨ sweepLimit = 0 ∨ 8 < sweepLimit.toNat ∨
      1 < urgent.toNat ∨ 1 < hold.toNat ∨ 7 < reminderLimit.toNat) :
    bundleArgs enabled target mode sweepLimit urgent hold reminderLimit holdTimeout = none := by
  unfold bundleArgs
  split
  case h_1 e t m w u o l he ht hm hw hu ho hl =>
    exfalso
    rcases h with h | ⟨h, hx⟩ | h | h | h | h | h | h
    · simp [twoArg_none h] at he
    · simp [orNone_none hx (targetArg_none h)] at ht
    · simp [twoArg_none h] at hm
    · simp [rangeArg, h] at hw
    · simp [rangeArg_none fun hr => absurd hr.2 (Nat.not_le.2 h)] at hw
    · simp [twoArg_none h] at hu
    · simp [twoArg_none h] at ho
    · simp [rangeArg_none fun hr => absurd hr.2 (Nat.not_le.2 h)] at hl
  case h_2 => rfl

theorem bundleSetCommand_bad {s : State} {cmd : CmdId} {bundle : Byte} {config : Option BundleConfig}
    (h : 47 < bundle.toNat ∨ config = none) : s.bundleSetCommand cmd bundle config = s.complete cmd .badArgument 0 := by
  unfold bundleSetCommand
  rcases h with h | rfl
  · simp only [bundleArg_none h]
  · cases bundleArg bundle <;> rfl

/-- Settles O25: each argument's check and the value it gives. -/
theorem bundleArguments : Obligations.BundleArguments := by
  intro s r bundle enabled target mode sweepLimit urgent hold reminderLimit holdTimeout bad
  refine ⟨fun h hbad => ?_, fun hgood => ?_⟩
  · obtain ⟨u, honly, hcompletes, hissues, hreject⟩ := rejected_taken s r 0x20 (st := .badArgument) rfl
    refine ⟨u, honly, hcompletes, hissues, ?_⟩
    have hexec : exec (.bundleSet r bundle enabled target mode sweepLimit urgent hold reminderLimit holdTimeout) s =
        .next ((s.taken r).bundleSetCommand (cmdOf r 0x20) bundle
          (bundleArgs enabled target mode sweepLimit urgent hold reminderLimit holdTimeout)) :=
      congrArg Host.Outcome.next (command_taken h)
    rw [hexec, bundleSetCommand_bad (hbad.imp_right bundleArgs_none), hreject]
  · simp only [bad, not_or] at hgood
    obtain ⟨hb, he, ht, hm, hw, hw', hu, hh, hl⟩ := hgood
    obtain ⟨c, hargs, hcodes⟩ := bundleArgs_of holdTimeout he ht hm hw hw' hu hh hl
    have hlt : bundle.toNat < 48 := by omega
    exact ⟨⟨bundle.toNat, hlt⟩, c, bundleArg_of rfl, rfl, hargs, hcodes⟩

end Sys2Proof.Machine

/-! The statements on BUNDLE_SET by the bundle's state and on the ends of waits (R66, R67, R126, R127, R144). -/
namespace Sys2Proof.Machine

open State

/-! ### The write of a BUNDLE_SET -/

theorem setState_target_state (s : State) (b : BundleId) (st : BundleState) (k : TargetId) :
    ((s.setState b st).target k).state = (s.target k).state := by
  rw [setState, rejudgeSpaceOf_state, updRun_target]

/-- The state that an applied BUNDLE_SET leaves its bundle in (R66). -/
def movedState (s : State) (b : BundleId) (enabled : Bool) : BundleState :=
  if enabled then (if (s.run b).state = .off then (if s.pendingList b = [] then .idle else .ready) else (s.run b).state)
  else if (s.run b).state = .idle ∨ (s.run b).state = .ready then .off else (s.run b).state

/-- The move of an applied BUNDLE_SET changes that one state (R66). -/
theorem moveByEnabled_run (s : State) (b : BundleId) (enabled : Bool) :
    (s.moveByEnabled b enabled).run b = { s.run b with state := movedState s b enabled } ∧
      (∀ k, k ≠ b → (s.moveByEnabled b enabled).run k = s.run k) ∧
      ∀ k, ((s.moveByEnabled b enabled).target k).state = (s.target k).state := by
  have hkeep : ∀ st, (s.run b).state = st → s.run b = { s.run b with state := st } := by rintro _ rfl; rfl
  cases enabled <;> cases hs : (s.run b).state
  case true.off =>
    simp only [moveByEnabled, movedState, hs, if_true]
    exact ⟨settleByList_run_self s b, fun k hk => settleByList_run_ne s hk, setState_target_state s b _⟩
  case false.idle | false.ready =>
    simp only [moveByEnabled, hs]
    refine ⟨?_, fun k hk => setState_run_ne s _ hk, setState_target_state s b _⟩
    rw [setState_run_self]
    simp [movedState, hs]
  all_goals
    simp only [moveByEnabled, hs]
    exact ⟨hkeep _ (by simp [movedState, hs]), by simp, by simp⟩

/-- The re-judging of the old and the new target's space that follows the write (R115). -/
theorem writeBundleSet_rejudged (s : State) (b : BundleId) (c : BundleConfig) :
    let u := ((s.setConfig b c).moveByEnabled b c.enabled).rejudgeHold b
    (s.writeBundleSet b c).bundleRun = u.bundleRun ∧ (s.writeBundleSet b c).bundleConfig = u.bundleConfig ∧
      (∀ k, ((s.writeBundleSet b c).target k).state = (u.target k).state) := by
  intro u
  unfold writeBundleSet
  cases (s.config b).target with
  | none => exact ⟨by simp [u], by simp [u], fun k => rejudgeSpaceOf_state _ b k⟩
  | some t => exact ⟨by simp [u], by simp [u], fun k => (rejudgeSpaceOf_state _ b k).trans (rejudgeSpace_state u t k)⟩

/-- The fields of a BUNDLE_SET are written (R66, R67, R103). -/
theorem writeBundleSet_spec (s : State) (b : BundleId) (c : BundleConfig) :
    let w := s.writeBundleSet b c
    w.config b = c ∧ (∀ k, k ≠ b → w.config k = s.config k ∧ w.run k = s.run k) ∧
      w.run b = { s.run b with state := movedState s b c.enabled, holdTimer := (s.run b).holdTimer.judged (w.pausesHold b) } ∧
      (∀ k, (w.target k).state = (s.target k).state) := by
  intro w
  obtain ⟨hself, hothers, hstates⟩ := moveByEnabled_run (s.setConfig b c) b c.enabled
  obtain ⟨hrun, hconfig, htargets⟩ := writeBundleSet_rejudged s b c
  have hstate (k : TargetId) : (w.target k).state = (s.target k).state := (htargets k).trans (hstates k)
  have hw (k : BundleId) : w.run k = (((s.setConfig b c).moveByEnabled b c.enabled).rejudgeHold b).run k := by simp only [run, w, hrun]
  have hc (k : BundleId) : w.config k = (s.setConfig b c).config k := by simp [config, w, hconfig, rejudgeHold]
  have hmoved : movedState (s.setConfig b c) b c.enabled = movedState s b c.enabled := by
    have hlist : (s.setConfig b c).pendingList = s.pendingList := pendingList_of_eq rfl rfl
    unfold movedState
    rw [hlist]
    rfl
  have hpauses : ((s.setConfig b c).moveByEnabled b c.enabled).pausesHold b = w.pausesHold b :=
    pausesHold_congr (by rw [hc]; simp [config]) fun k => (hstates k).trans (hstate k).symm
  refine ⟨by rw [hc]; simp, fun k hk => ⟨by rw [hc, setConfig_config_ne _ _ hk], ?_⟩, ?_, hstate⟩
  · rw [hw, rejudgeHold, updRun_run_ne _ _ hk, hothers k hk]
    rfl
  · rw [hw, rejudgeHold, updRun_run_self, hself, hpauses, hmoved]
    rfl

theorem writeBundleSet_kept (s : State) (b : BundleId) (c : BundleConfig) :
    (s.writeBundleSet b c).fieldSide = s.fieldSide ∧ (s.writeBundleSet b c).accounts = s.accounts ∧
      (s.writeBundleSet b c).assembler = s.assembler ∧ (s.writeBundleSet b c).proc = s.proc := by
  simp [fieldSide, accounts, assembler]

/-! ### BUNDLE_SET by the bundle's state -/

theorem bundleSetApplies_iff (s : State) (b : BundleId) (c : BundleConfig) : s.bundleSetApplies b c = true ↔
    (s.run b).state = .off ∨ (s.run b).state = .idle ∨ (s.run b).state = .ready ∨
      (c.enabled = true ∧ c.target = (s.config b).target) := by
  cases hs : (s.run b).state <;> simp [bundleSetApplies, hs]

theorem judgeBundleSet_applies {s : State} {cmd : CmdId} {b : BundleId} {c : BundleConfig} (h : s.bundleSetApplies b c = true) :
    s.judgeBundleSet cmd b c = s.completeBundleSet cmd b c := by
  cases hs : (s.run b).state <;> simp_all [judgeBundleSet, bundleSetApplies]

theorem judgeBundleSet_badState {s : State} {cmd : CmdId} {b : BundleId} {c : BundleConfig}
    (h : (((s.run b).state = .assembling ∨ (s.run b).state = .held) ∧ c.enabled = false) ∨
      ((s.run b).state = .held ∧ c.target ≠ (s.config b).target)) :
    s.judgeBundleSet cmd b c = s.complete cmd .badState 0 := by
  rcases h with ⟨hs | hs, he⟩ | ⟨hs, ht⟩ <;> simp [judgeBundleSet, *]

/-- While the bundle's assembly is in flight a change of its target waits for the end (R67). -/
theorem judgeBundleSet_waits {s : State} {cmd : CmdId} {b : BundleId} {c : BundleConfig} (hs : (s.run b).state = .assembling)
    (he : c.enabled = true) (ht : c.target ≠ (s.config b).target) :
    s.judgeBundleSet cmd b c = s.holdInHand (.assembly cmd b c) (some .assembly) := by
  simp [judgeBundleSet, hs, he, ht]

/-- Settles O26: `judgeBundleSet` by the bundle's state, and `writeBundleSet_spec` where it applies. -/
theorem bundleSetByState : Obligations.BundleSetByState := by
  intro s r bundle enabled target mode sweepLimit urgent hold reminderLimit holdTimeout b c h hb hargs i cmd x moves settled pauses
  have hexec : exec i s = .next ((s.taken r).judgeBundleSet cmd b c) := by
    have hcommand : exec i s = .next ((s.taken r).bundleSetCommand cmd bundle
        (bundleArgs enabled target mode sweepLimit urgent hold reminderLimit holdTimeout)) :=
      congrArg Host.Outcome.next (command_taken h)
    rw [hcommand, hargs]
    simp only [bundleSetCommand, bundleArg_of hb]
  have hrun : (s.taken r).run b = x := by simp [x]
  have hconfig : (s.taken r).config b = s.config b := by simp
  refine ⟨fun happlies => ?applies, fun hbad => ?bad, fun hs he hm => ?waits⟩
  case bad => rw [hexec, judgeBundleSet_badState (by rwa [hrun, hconfig])]
  case waits =>
    have hwaits := judgeBundleSet_waits (s := s.taken r) (cmd := cmd) (c := c) (by rwa [hrun]) he (by rwa [hconfig])
    rw [holdInHand_waiting (s := s.taken r) _ _ h.2] at hwaits
    refine ⟨_, hexec.trans (congrArg Host.Outcome.next hwaits), ?_, rfl, rfl⟩
    simp [OnlyCommandPath, fieldSide, accounts, bundles, assembler, window, own]
  case applies =>
    have hjudged : exec i s = .next ((s.taken r).completeBundleSet cmd b c) := by
      rw [hexec, judgeBundleSet_applies ((bundleSetApplies_iff _ _ _).2 ?_)]
      rw [hrun, hconfig]
      simpa [moves] using happlies
    obtain ⟨hc, hothers, hself, hstate⟩ := writeBundleSet_spec (s.taken r) b c
    obtain ⟨hfields, haccounts, hassembler, hproc⟩ := writeBundleSet_kept (s.taken r) b c
    have hpauses : ((s.taken r).writeBundleSet b c).pausesHold b = true ↔ pauses := by
      simp only [pausesHold_iff, hc, hstate, taken_kept, pauses]
    generalize hw : (s.taken r).writeBundleSet b c = w at *
    have hfinal (k : BundleId) : ((s.taken r).completeBundleSet cmd b c).run k = w.run k ∧
        ((s.taken r).completeBundleSet cmd b c).config k = w.config k := by
      simp [completeBundleSet, applyBundleSet, complete_ok, hw]
    have hselfState : (w.run b).state = movedState s b c.enabled := by
      rw [hself]
      simp [movedState]
    refine ⟨_, hjudged, by rw [(hfinal b).2, hc], fun k hk => ?_, ?_, ?_, fun hp => ?_, fun hp => ?_, ?_, ?_, ?_, ?_⟩
    · rw [(hfinal k).1, (hfinal k).2, (hothers k hk).1, (hothers k hk).2]
      simp
    · rw [(hfinal b).1, hselfState]
      rfl
    · rw [(hfinal b).1, hself, hrun]
    · rw [(hfinal b).1, hself, hpauses.2 hp, hrun]
    · rw [(hfinal b).1, hself, Bool.eq_false_iff.2 (mt hpauses.1 hp), hrun]
    · simpa [completeBundleSet, applyBundleSet, complete_ok, fieldSide, hw] using hfields
    · simpa [completeBundleSet, applyBundleSet, complete_ok, accounts, hw] using haccounts
    · simpa [completeBundleSet, applyBundleSet, complete_ok, assembler, hw] using hassembler
    · have happends : Appends (s.taken r) ((s.taken r).applyBundleSet b c) := by
        rw [applyBundleSet, hw]
        exact (Appends.of_eq hproc).trans (Appends.sweep _ _ _ _)
      have hcode : ((s.taken r).applyBundleSet b c).run b = ((s.taken r).completeBundleSet cmd b c).run b := by
        simp [completeBundleSet, complete_ok]
      rw [← hcode]
      exact happends.last cmd .ok _

/-! ### The ends of waits -/

theorem detachDue_iff (s : State) (k : TargetId) :
    s.detachDue k = true ↔ (s.target k).detachPending = true ∧ s.targetBusy k = false := by
  simp [detachDue]

/-- The command in hand that waits for an entry is judged again while there is room for it (R144). -/
theorem settleHand_judges {s : State} {cmd : CmdId} {what : DeferKind} (hh : s.proc.hand = some (.tableEntry cmd what))
    (h : s.proc.deferred.length < 4) :
    s.settleHand = ((s.updProc fun p => { p with hand := none }).judgeDeferrable cmd what).handDone := by
  simp only [settleHand, hh]
  exact if_pos h

theorem settleHand_nothing {s : State} (h : (∀ cmd what, s.proc.hand ≠ some (.tableEntry cmd what)) ∨ 4 ≤ s.proc.deferred.length) :
    s.settleHand = s := by
  unfold settleHand
  split
  case h_1 cmd what hhand =>
    rcases h with h | h
    · exact absurd hhand (h cmd what)
    · exact if_neg (Nat.not_lt.2 h)
  case h_2 => rfl

theorem afterAssembly_hand {s : State} {a : Assembly} {met : List TargetId} {cmd : CmdId} {b : BundleId} {c : BundleConfig}
    (h : s.proc.hand = some (.assembly cmd b c)) :
    s.afterAssembly a met =
      if (s.run b).state = .assembling then s.endWaits a.target met else s.settleBundleSet cmd b c a.target met := by
  simp only [afterAssembly, h]

theorem afterAssembly_other {s : State} {a : Assembly} {met : List TargetId} (h : ∀ cmd b c, s.proc.hand ≠ some (.assembly cmd b c)) :
    s.afterAssembly a met = (s.endWaits a.target met).settleHand := by
  unfold afterAssembly
  split
  case h_1 cmd b c hhand => exact absurd hhand (h cmd b c)
  case h_2 => rfl

/-- Settles O60: `settleHand` by the kind that waits, and the end of an assembly by the command in hand. -/
theorem waitsEnd : Obligations.WaitsEnd := by
  refine ⟨fun s k met => ?target, ⟨fun s => settleHand_nothing, fun s cmd what hhand hroom => ?hand⟩,
    fun s => ⟨handDone_proc s ▸ rfl, handDone_halted, handDone_live⟩, fun s a met => ⟨afterAssembly_other, fun cmd b c hhand => ?assembly⟩⟩
  case target =>
    intro due carried
    have hdue : s.detachDue k = true ↔ due := detachDue_iff s k
    refine ⟨fun h => ?_, fun h => ?_, fun h => if_pos (hdue.2 h), fun h => if_neg (mt hdue.1 h)⟩
    · rw [afterTargetAnswer, tryDetach, if_pos (hdue.2 h)]
      rfl
    · rw [afterTargetAnswer, tryDetach, if_neg (mt hdue.1 h)]
  case hand =>
    intro u entered
    have hjudged := settleHand_judges hhand hroom
    refine ⟨?alone, ?behind, ?drain, ?detach⟩
    case alone =>
      rintro rfl hempty
      have hempty' : u.proc.deferred.isEmpty = true := List.isEmpty_iff.2 hempty
      rw [hjudged, judgeDeferrable, if_pos hempty']
    case behind =>
      rintro rfl hne
      have hne' : ¬ u.proc.deferred.isEmpty = true := mt List.isEmpty_iff.1 hne
      rw [hjudged, judgeDeferrable, if_neg hne', enterTable_room (s := u) cmd .fence hroom (by simp)]
      rfl
    case drain =>
      rintro k timeout rfl
      refine ⟨fun hmet => ?_, fun hnot => ?_⟩
      · have hmet' : u.drained k = true := hmet
        rw [hjudged, judgeDeferrable, if_pos hmet']
      · have hnot' : ¬ u.drained k = true := Bool.eq_false_iff.1 hnot
        rw [hjudged, judgeDeferrable, if_neg hnot', enterTable_room (s := u) cmd _ hroom (by simp), drain_timer]
    case detach =>
      rintro k rfl
      refine ⟨fun hd => ?_, fun hd hbusy => ?_, fun hd hfree => ?_⟩
      · have hd' : (u.target k).state = .detached := hd
        rw [hjudged, judgeDeferrable, if_pos hd']
      · have hd' : (u.target k).state ≠ .detached := hd
        have hbusy' : u.targetBusy k = true := hbusy
        rw [hjudged, judgeDeferrable, if_neg hd', if_pos hbusy', enterTable_detach (s := u) cmd k hroom]
      · have hd' : (u.target k).state ≠ .detached := hd
        have hfree' : ¬ u.targetBusy k = true := Bool.eq_false_iff.1 hfree
        rw [hjudged, judgeDeferrable, if_neg hd', if_neg hfree']
        rfl
  case assembly =>
    intro x applies settled w
    obtain ⟨hc, hothers, hself, -⟩ := writeBundleSet_spec s b c
    obtain ⟨hfields, haccounts, hassembler, hproc⟩ := writeBundleSet_kept s b c
    have happlies : s.bundleSetApplies b c = true ↔ applies := bundleSetApplies_iff s b c
    refine ⟨fun hs => ?_, fun hs h => ?_, fun hs h => ?_, hc, hothers, ?_, ?_, ?_, haccounts, hfields, hassembler, hproc⟩
    · rw [afterAssembly_hand hhand, if_pos hs]
    · rw [afterAssembly_hand hhand, if_neg hs, settleBundleSet, if_pos (happlies.2 h)]
    · rw [afterAssembly_hand hhand, if_neg hs, settleBundleSet, if_neg (mt happlies.1 h)]
    · rw [hself]
      rfl
    · rw [hself]
    · rw [hself]

end Sys2Proof.Machine

/-! What an arrival leaves of the targets, and what the accounts depend on. -/
namespace Sys2Proof.Machine

open State

/-! ### Space wanted and the poll timer -/

/-- A target that counts as DETACHED or FAULTED and wants no space. -/
def Target.Barred (x : Target) : Prop := (x.countedState = .detached ∨ x.countedState = .faulted) ∧ x.spaceWanted = false

/-- No bundle waits for space of a target that counts as DETACHED or FAULTED (R63, R115). -/
theorem shortOfSpace_barred {s : State} {k : TargetId} (h : (s.target k).Barred) : s.shortOfSpace k = false := by
  rw [← Bool.not_eq_true, shortOfSpace_iff]
  rintro ⟨b, hb, hfull⟩
  unfold waitingReason at hfull
  cases ht : s.slotThreshold b <;> rcases h.1 with hc | hc <;> simp [hb, hc, ht] at hfull

theorem rejudgeSpace_barred {s : State} {k : TargetId} (h : (s.target k).Barred) (m : TargetId) :
    (s.rejudgeSpace m).target k = s.target k := by
  by_cases hm : k = m
  case pos =>
    subst hm
    rw [rejudgeSpace_same (by rw [shortOfSpace_barred h, h.2])]
  case neg => exact rejudgeSpace_target_ne s hm

/-- Of the target contexts nothing but space wanted and the poll timer has changed, and of a barred one nothing (R115). -/
def OnlySpace (s t : State) : Prop :=
  ∀ k, { t.target k with spaceWanted := (s.target k).spaceWanted, pollTimer := (s.target k).pollTimer } = s.target k ∧
    ((s.target k).Barred → t.target k = s.target k)

namespace OnlySpace

theorem of_eq {s t : State} (h : t.targets = s.targets) : OnlySpace s t := fun k => by simp [target, h]

theorem refl (s : State) : OnlySpace s s := of_eq rfl

theorem context {s t : State} (h : OnlySpace s t) (k : TargetId) :
    { t.target k with spaceWanted := (s.target k).spaceWanted, pollTimer := (s.target k).pollTimer } = s.target k := (h k).1

theorem barred {s t : State} (h : OnlySpace s t) {k : TargetId} (hk : (s.target k).Barred) : t.target k = s.target k := (h k).2 hk

theorem state {s t : State} (h : OnlySpace s t) (k : TargetId) : (t.target k).state = (s.target k).state :=
  (congrArg Target.state (h.context k) :)

theorem trans {s t u : State} (h : OnlySpace s t) (h' : OnlySpace t u) : OnlySpace s u := by
  refine fun k => ⟨?context, fun hk => ?barred⟩
  case context => rw [← h.context k, ← h'.context k]
  case barred =>
    have ht := h.barred hk
    exact (h'.barred (ht ▸ hk)).trans ht

theorem setState (s : State) (b : BundleId) (st : BundleState) : OnlySpace s (s.setState b st) := by
  have hupd : OnlySpace s (s.updRun b fun x => { x with state := st }) := of_eq (by simp)
  refine hupd.trans fun k => ?_
  rw [State.setState, rejudgeSpaceOf]
  cases ((s.updRun b fun x => { x with state := st }).config b).target with
  | none => exact refl _ k
  | some t => exact ⟨rejudgeSpace_context _ t k, fun hk => rejudgeSpace_barred hk t⟩

theorem listGained (s : State) (b : Option BundleId) : OnlySpace s (s.listGained b) := by
  cases b with
  | none => exact refl s
  | some b =>
    simp only [State.listGained]
    split
    · exact setState s b .ready
    · exact refl s

theorem acceptOne (s : State) (n : SourceId) (d : Option Half) : OnlySpace s (s.acceptOne n d) := by
  unfold State.acceptOne arrive
  dsimp only
  split
  case isFalse => exact refl s
  case isTrue =>
    split
    · exact (of_eq (by simp)).trans (listGained _ _)
    · split <;> exact of_eq (by simp)

theorem accept (s : State) (n : SourceId) (d : Option Half) : OnlySpace s (s.accept n d) := by
  unfold State.accept
  split
  · exact (acceptOne s n d).trans (acceptOne _ _ _)
  · exact acceptOne s n d

theorem levelCheck (s : State) (n : SourceId) : OnlySpace s (s.levelCheck n) := by
  unfold State.levelCheck
  split
  · exact accept s n _
  · exact refl s

theorem reassert (l : List SourceId) (s : State) : OnlySpace s (s.reassert l) := by
  unfold State.reassert
  induction l generalizing s with
  | nil => exact refl s
  | cons n l ih => exact (levelCheck s n).trans (ih _)

end OnlySpace

/-! ### Accounts -/

/-- Two states of the same timebase, route table and accounts. -/
def SameCounts (s t : State) : Prop := t.timebase = s.timebase ∧ t.routes = s.routes ∧ t.accounts = s.accounts

namespace SameCounts

theorem fields {s t : State} (h : SameCounts s t) :
    t.timebase = s.timebase ∧ t.routes = s.routes ∧
      t.intervals = s.intervals ∧ t.records = s.records ∧ t.tallies = s.tallies := by
  simpa [SameCounts, accounts] using h

theorem of_fields {s t : State}
    (h : t.timebase = s.timebase ∧ t.routes = s.routes ∧
      t.intervals = s.intervals ∧ t.records = s.records ∧ t.tallies = s.tallies) : SameCounts s t := by
  simpa [SameCounts, accounts] using h

theorem accounts {s t : State} (h : SameCounts s t) : t.accounts = s.accounts := h.2.2

theorem refl (s : State) : SameCounts s s := ⟨rfl, rfl, rfl⟩

theorem trans {s t u : State} (h : SameCounts s t) (h' : SameCounts t u) : SameCounts s u :=
  ⟨h'.1.trans h.1, h'.2.1.trans h.2.1, h'.2.2.trans h.2.2⟩

theorem symm {s t : State} (h : SameCounts s t) : SameCounts t s := ⟨h.1.symm, h.2.1.symm, h.2.2.symm⟩

theorem listGained (s : State) (b : Option BundleId) : SameCounts s (s.listGained b) := of_fields (by simp)

theorem setInterval {s t : State} (h : SameCounts s t) (n : SourceId) (x : Word) :
    SameCounts (s.setInterval n x) (t.setInterval n x) :=
  of_fields (by simp [State.setInterval, h.fields])

theorem setRecord {s t : State} (h : SameCounts s t) (n : SourceId) (r : Option PendingRecord) :
    SameCounts (s.setRecord n r) (t.setRecord n r) :=
  of_fields (by simp [State.setRecord, h.fields])

theorem updTally {s t : State} (h : SameCounts s t) (n : SourceId) (f : Tallies → Tallies) :
    SameCounts (s.updTally n f) (t.updTally n f) :=
  of_fields (by simp [State.updTally, tally, h.fields])

theorem record {s t : State} (h : SameCounts s t) (n : SourceId) : t.record n = s.record n := by simp [State.record, h.fields]

theorem route {s t : State} (h : SameCounts s t) (n : SourceId) : t.route n = s.route n := by simp [State.route, h.fields]

theorem arrive {s t : State} (h : SameCounts s t) (n : SourceId) (d : Option Half) : SameCounts (s.arrive n d) (t.arrive n d) := by
  have hread := (h.setInterval n 0).updTally n fun y => { y with accepted := y.accepted + 1 }
  have hinterval : t.interval n = s.interval n := by simp [interval, h.fields]
  have htime : t.timebase = s.timebase := h.1
  unfold State.arrive
  dsimp only
  rw [h.record, hinterval, htime]
  cases s.record n with
  | none => exact (listGained _ _).symm.trans ((hread.setRecord n _).trans (listGained _ _))
  | some r =>
    dsimp only
    split
    · exact hread.setRecord n _
    · exact (hread.setRecord n _).updTally n _

theorem acceptOne {s t : State} (h : SameCounts s t) (n : SourceId) (d : Option Half) :
    SameCounts (s.acceptOne n d) (t.acceptOne n d) := by
  unfold State.acceptOne
  rw [h.route]
  split
  · exact h.arrive n d
  · exact h

/-- What an occurrence does to the accounts is decided by them, the timebase and the route table. -/
theorem accept {s t : State} (h : SameCounts s t) (n : SourceId) (d : Option Half) : SameCounts (s.accept n d) (t.accept n d) := by
  have hsaturated : t.saturated n = s.saturated n := by simp only [saturated, h.record]
  unfold State.accept
  rw [h.route, hsaturated]
  split
  · exact (h.acceptOne n d).acceptOne _ _
  · exact h.acceptOne n d

/-- And what a level check does, by these and the lines. -/
theorem levelCheck {s t : State} (h : SameCounts s t) (hl : t.lines = s.lines) (n : SourceId) :
    SameCounts (s.levelCheck n) (t.levelCheck n) := by
  have hline l : t.line l = s.line l := by simp [line, hl]
  have hactive : t.levelActive n = s.levelActive n := by simp only [levelActive, hline, h.route]
  have hdetail : t.levelDetail n = s.levelDetail n := by simp only [levelDetail, hline]
  unfold State.levelCheck
  rw [hactive, hdetail]
  split
  · exact h.accept n _
  · exact h

theorem reassert {s t : State} (h : SameCounts s t) (hl : t.lines = s.lines) (l : List SourceId) :
    SameCounts (s.reassert l) (t.reassert l) := by
  unfold State.reassert
  induction l generalizing s t with
  | nil => exact h
  | cons n l ih => exact ih (h.levelCheck hl n) (by simp [hl])

end SameCounts

/-! ### Consumer-word answers -/

theorem consumerAnswer_unserved {s : State} {k : TargetId} (h : ¬ (s.target k).inService = true) (v : ReadAnswer) :
    s.consumerAnswer k v = s := if_neg h

theorem earlyValue_iff (s : State) (k : TargetId) (v : Word) :
    s.earlyValue k v = true ↔
      ∃ a, s.assembly = some a ∧ a.target = k ∧ (v - (s.target k).produced).toNat ≤ 1 + a.copies.length := by
  cases h : s.assembly <;> simp [earlyValue, h]

/-- The judgement of a consumer word against the indices of a target in service (R116). -/
theorem consumerAnswer_done {s : State} {k : TargetId} (h : (s.target k).inService = true) (v : Word) :
    s.consumerAnswer k (.done v) =
      if (v - (s.target k).consumed).toNat ≤ ((s.target k).produced - (s.target k).consumed).toNat then s.consumedMoved k v
      else if s.earlyValue k v then s.consumedMoved k (s.target k).produced else s.faultTarget k .badConsumer := if_pos h

theorem consumerAnswer_refused {s : State} {k : TargetId} (h : (s.target k).inService = true) :
    s.consumerAnswer k .refused = s.faultTarget k .consumerRead := if_pos h

theorem rejudgeSpace_rearmCheckPending (s : State) (k m : TargetId) :
    ((s.rejudgeSpace k).target m).rearmCheckPending = (s.target m).rearmCheckPending :=
  (congrArg Target.rearmCheckPending (rejudgeSpace_context s k m) :)

/-- Where an index moved without a rearm check pending, space wanted is re-judged and nothing else done (R115, R122). -/
theorem consumedMoved_plain {s : State} {k : TargetId} (v : Word) (h : (s.target k).rearmCheckPending = false) :
    s.consumedMoved k v = (s.updTarget k fun x => { x with consumed := v }).rejudgeSpace k := by
  unfold consumedMoved
  exact if_neg (by simp [rejudgeSpace_rearmCheckPending, h])

theorem consumedMoved_checks {s : State} {k : TargetId} (v : Word) (h : (s.target k).rearmCheckPending = true) :
    s.consumedMoved k v =
      (((s.updTarget k fun x => { x with consumed := v }).rejudgeSpace k).updTarget k fun x =>
        { x with rearmCheckPending := false }).rearmCheck k := by
  unfold consumedMoved
  exact if_pos (by simp [rejudgeSpace_rearmCheckPending, h])

theorem signalRules_target_ne (s : State) {k m : TargetId} (hm : m ≠ k) : (s.signalRules k).target m = s.target m := by
  by_cases h : (s.target k).inService = true ∧ (s.target k).armed = true
  case neg => rw [signalRules_unserved h]
  case pos =>
    by_cases ht : (s.target k).holdoffTimer = .stopped
    · simp [signalRules_issues h ht, issueSignal, updTarget_target_ne _ _ hm]
    · simp [signalRules_owes h ht, updTarget_target_ne _ _ hm]

/-- The signal rules touch the signal's part of a context, and nothing else of it (R119). -/
theorem signalRules_context (s : State) (k m : TargetId) :
    { (s.signalRules k).target m with
      armed := (s.target m).armed, signalOwed := (s.target m).signalOwed, holdoffTimer := (s.target m).holdoffTimer } =
      s.target m := by
  by_cases hm : m = k
  case neg => rw [signalRules_target_ne s hm]
  case pos =>
    subst hm
    by_cases h : (s.target m).inService = true ∧ (s.target m).armed = true
    case neg => rw [signalRules_unserved h]
    case pos =>
      by_cases ht : (s.target m).holdoffTimer = .stopped
      · simp [signalRules_issues h ht, issueSignal]
      · simp [signalRules_owes h ht]

theorem signalRules_short (s : State) (k m : TargetId) : (s.signalRules k).shortOfSpace m = s.shortOfSpace m :=
  shortOfSpace_congr (by simp) (by simp) (by simp) (fun j => (congrArg Target.countedState (signalRules_context s k j) :))
    (fun j => (congrArg Target.freeSlots (signalRules_context s k j) :)) m

theorem rearmCheck_target_ne (s : State) {k m : TargetId} (hm : m ≠ k) : (s.rearmCheck k).target m = s.target m := by
  rw [rearmCheck_eq]
  split
  · exact signalRules_target_ne s hm
  · rfl

theorem rearmCheck_context (s : State) (k m : TargetId) :
    { (s.rearmCheck k).target m with
      armed := (s.target m).armed, signalOwed := (s.target m).signalOwed, holdoffTimer := (s.target m).holdoffTimer } =
      s.target m := by
  rw [rearmCheck_eq]
  split
  · exact signalRules_context s k m
  · rfl

theorem rearmCheck_short (s : State) (k m : TargetId) : (s.rearmCheck k).shortOfSpace m = s.shortOfSpace m := by
  rw [rearmCheck_eq]
  split
  · exact signalRules_short s k m
  · rfl

/-- A pending rearm check that is made leaves the indices, the state and space wanted as they are (R122). -/
theorem rearmVerdict_target (u : State) (k : TargetId) :
    let t := (u.updTarget k fun x => { x with rearmCheckPending := false }).rearmCheck k
    { t.target k with
      armed := (u.target k).armed, signalOwed := (u.target k).signalOwed, holdoffTimer := (u.target k).holdoffTimer } =
      { u.target k with rearmCheckPending := false } ∧
    t.shortOfSpace k = u.shortOfSpace k ∧ ∀ m, m ≠ k → t.target m = u.target m := by
  refine ⟨?context, ?short, fun m hm => ?others⟩
  case context => simpa using rearmCheck_context (u.updTarget k fun x => { x with rearmCheckPending := false }) k k
  case short =>
    have hcontext j : { (u.updTarget k fun x => { x with rearmCheckPending := false }).target j with
        rearmCheckPending := (u.target j).rearmCheckPending } = u.target j := by
      by_cases h : j = k
      · subst h
        simp
      · simp [updTarget_target_ne _ _ h]
    rw [rearmCheck_short]
    exact shortOfSpace_congr (by simp) (by simp) (by simp) (fun j => (congrArg Target.countedState (hcontext j) :))
      (fun j => (congrArg Target.freeSlots (hcontext j) :)) k
  case others => rw [rearmCheck_target_ne _ hm, updTarget_target_ne _ _ hm]

/-- The context of a target whose consumed index moved, before a rearm check (R115, R116). -/
theorem movedIndex_target (s : State) (k : TargetId) (v : Word) :
    { ((s.updTarget k fun x => { x with consumed := v }).rejudgeSpace k).target k with
      spaceWanted := (s.target k).spaceWanted, pollTimer := (s.target k).pollTimer } = { s.target k with consumed := v } := by
  simpa using rejudgeSpace_context (s.updTarget k fun x => { x with consumed := v }) k k

theorem movedIndex_target_ne (s : State) {k m : TargetId} (v : Word) (hm : m ≠ k) :
    ((s.updTarget k fun x => { x with consumed := v }).rejudgeSpace k).target m = s.target m :=
  (rejudgeSpace_target_ne _ hm).trans (updTarget_target_ne _ _ hm)

/-- What the pending rearm check asks, after a consumed index moved (R122). -/
theorem checkedIndex_unread (s : State) (k : TargetId) (v : Word) :
    let w := ((s.updTarget k fun x => { x with consumed := v }).rejudgeSpace k).updTarget k fun x => { x with rearmCheckPending := false }
    (w.target k).produced ≠ (w.target k).consumed ↔ (s.target k).produced ≠ v := by
  have hmoved := movedIndex_target s k v
  simp only [updTarget_target_self, (congrArg Target.produced hmoved :), (congrArg Target.consumed hmoved :)]

/-- The context of a target whose consumed index moved (R116, R122). -/
theorem consumedMoved_target (s : State) (k : TargetId) (v : Word) :
    let t := s.consumedMoved k v
    (t.target k).consumed = v ∧ (t.target k).produced = (s.target k).produced ∧ (t.target k).state = (s.target k).state ∧
      (t.target k).rearmCheckPending = false ∧ (t.target k).spaceWanted = t.shortOfSpace k ∧
      ∀ m, m ≠ k → t.target m = s.target m := by
  have hmoved := movedIndex_target s k v
  have hothers m (hm : m ≠ k) := movedIndex_target_ne s v hm
  have hwanted := rejudgeSpace_wanted (s.updTarget k fun x => { x with consumed := v }) k
  generalize hu : (s.updTarget k fun x => { x with consumed := v }).rejudgeSpace k = u at hmoved hothers hwanted
  have hconsumed : (u.target k).consumed = v := (congrArg Target.consumed hmoved :)
  have hproduced : (u.target k).produced = (s.target k).produced := (congrArg Target.produced hmoved :)
  have hstate : (u.target k).state = (s.target k).state := (congrArg Target.state hmoved :)
  have hpending : (u.target k).rearmCheckPending = (s.target k).rearmCheckPending :=
    (congrArg Target.rearmCheckPending hmoved :)
  cases hp : (s.target k).rearmCheckPending with
  | false =>
    rw [consumedMoved_plain v hp, hu]
    exact ⟨hconsumed, hproduced, hstate, hpending.trans hp, hwanted, hothers⟩
  | true =>
    rw [consumedMoved_checks v hp, hu]
    obtain ⟨hcontext, hshort, hrest⟩ := rearmVerdict_target u k
    refine ⟨(congrArg Target.consumed hcontext).trans hconsumed, (congrArg Target.produced hcontext).trans hproduced,
      (congrArg Target.state hcontext).trans hstate, congrArg Target.rearmCheckPending hcontext, ?_, fun m hm => ?_⟩
    · rw [hshort, ← hwanted]
      exact (congrArg Target.spaceWanted hcontext :)
    · rw [hrest m hm, hothers m hm]

/-! ### Faults -/

/-- A target that has just entered FAULTED (R118). -/
def Target.faulted (x : Target) (reason : FaultReason) : Target :=
  { x with
    state := .faulted, faultReason := reason, spaceWanted := false, pollTimer := .stopped, holdoffTimer := .stopped,
    signalOwed := false, rearmCheckPending := false }

theorem faultTarget_unserved {s : State} {k : TargetId} (reason : FaultReason) (h : ¬ (s.target k).inService = true) :
    s.faultTarget k reason = s := if_neg h

theorem faultTarget_served {s : State} {k : TargetId} (reason : FaultReason) (h : (s.target k).inService = true) :
    s.faultTarget k reason =
      ((s.updTarget k fun x => x.faulted reason).accept 211 (some (BitVec.ofNat 16 k.val))).rejudgeHolds := if_pos h

theorem barred_faulted (x : Target) (reason : FaultReason) : (x.faulted reason).Barred := by
  refine ⟨?_, rfl⟩
  cases h : x.detachPending <;> simp [Target.countedState, Target.faulted, h]

theorem Woken.holdTimer {s t : State} (h : Woken s t) (b : BundleId) : (t.run b).holdTimer = (s.run b).holdTimer := by
  rcases h b with h | ⟨-, h⟩ <;> rw [h]

theorem rejudgeHolds_pausesHold (s : State) (b : BundleId) : s.rejudgeHolds.pausesHold b = s.pausesHold b :=
  pausesHold_congr (by simp) (by simp)

theorem faultTarget_enters {s : State} {k : TargetId} (reason : FaultReason) (h : (s.target k).inService = true) :
    let t := s.faultTarget k reason
    t.target k = (s.target k).faulted reason ∧ t.accounts = (s.accept 211 (some (BitVec.ofNat 16 k.val))).accounts ∧
      ∀ b, (t.run b).holdTimer = (s.run b).holdTimer.judged (t.pausesHold b) := by
  have hentered : (s.updTarget k fun x => x.faulted reason).target k = (s.target k).faulted reason := updTarget_target_self _ _ _
  have hcounts : SameCounts s (s.updTarget k fun x => x.faulted reason) := .of_fields (by simp)
  have hbarred := hentered ▸ barred_faulted (s.target k) reason
  rw [faultTarget_served reason h]
  refine ⟨?target, ?accounts, fun b => ?timers⟩
  case target => simpa [hentered] using (OnlySpace.accept _ 211 _).barred hbarred
  case accounts => exact Eq.trans (by simp [State.accounts]) (hcounts.accept 211 _).accounts
  case timers => rw [rejudgeHolds_pausesHold, rejudgeHolds_run, (woken_accept _ 211 _).holdTimer, updTarget_run]

/-- Settles O44: the judgement of the word read, `consumedMoved_target` and `faultTarget_enters`. -/
theorem consumerWordAndFault : Obligations.ConsumerWordAndFault := by
  refine ⟨⟨fun s id k hw => ?answer, fun s k v => ?moved⟩, fun s k reason => ⟨fun h => ?faults, fun h => ?stays⟩⟩
  case answer =>
    have hexec (v : ReadAnswer) : exec (.consumerWordReadAnswer id v) s =
        .next (((s.endRequest id).consumerAnswer k v).afterTargetAnswer k) :=
      congrArg Host.Outcome.next (answer_awaited hw (mine_consumerRead k))
    simp only [hexec]
    refine ⟨fun hs => ?served, fun hs v => ?unserved⟩
    case unserved => rw [consumerAnswer_unserved (by rw [not_inService_iff]; simpa using hs)]
    case served =>
      have hserved : ((s.endRequest id).target k).inService = true := by rw [inService_iff]; simpa using hs
      refine ⟨fun v hv => ?_, fun v hv he => ?_, fun v hv he => ?_, ?_⟩
      · rw [consumerAnswer_done hserved, if_pos (by simpa using hv)]
      · have hearly : (s.endRequest id).earlyValue k v = true := (earlyValue_iff _ k v).2 (by simpa using he)
        rw [consumerAnswer_done hserved, if_neg (by simpa using hv), if_pos hearly]
        simp
      · have hearly : ¬ (s.endRequest id).earlyValue k v = true := (earlyValue_iff _ k v).not.2 (by simpa using he)
        rw [consumerAnswer_done hserved, if_neg (by simpa using hv), if_neg hearly]
      · rw [consumerAnswer_refused hserved]
  case moved =>
    obtain ⟨hconsumed, hproduced, hstate, hpending, hwanted, hothers⟩ := consumedMoved_target s k v
    refine ⟨hconsumed, hproduced, hstate, hpending, hwanted, hothers, by simp [fieldSide], by simp [accounts], by simp [bundles],
      by simp, consumedMoved_plain v, fun hp he => ?_, fun hp hne => ?_⟩
    · rw [consumedMoved_checks v hp, rearmCheck_eq, if_neg ((checkedIndex_unread s k v).not.2 (not_not.2 he))]
    · rw [consumedMoved_checks v hp, rearmCheck_eq, if_pos ((checkedIndex_unread s k v).2 hne)]
  case faults =>
    obtain ⟨htarget, haccounts, htimers⟩ := faultTarget_enters reason ((inService_iff _).2 h)
    exact ⟨htarget, haccounts, by simp, by simp [fieldSide], by simp [assembler], by simp, htimers⟩
  case stays => exact faultTarget_unserved reason ((not_inService_iff _).2 h)

end Sys2Proof.Machine

/-! The statement on a detach that is carried out (R126, R127), with what the re-assertion checks of its releases do. -/
namespace Sys2Proof.Machine

open State

/-! ### READY and IDLE by the list -/

/-- A bundle that is READY or IDLE by its list (R55). -/
def ByList (s : State) (b : BundleId) : Prop := (s.run b).state = if s.pendingList b = [] then .idle else .ready

theorem ByList.of_iff {s t : State} {b : BundleId} (h : ByList s b) (hrun : (t.run b).state = (s.run b).state)
    (hlist : t.pendingList b = [] ↔ s.pendingList b = []) : ByList t b := by
  rw [ByList, hrun, h]
  simp only [hlist]

theorem ByList.of_eq {s t : State} {b : BundleId} (h : ByList s b) (hrun : (t.run b).state = (s.run b).state)
    (hr : t.records = s.records) (ho : t.routes = s.routes) : ByList t b :=
  h.of_iff hrun (by rw [pendingList_of_eq hr ho])

theorem byList_settleByList (s : State) (b : BundleId) : ByList (s.settleByList b) b := by
  have hlist : (s.settleByList b).pendingList = s.pendingList := pendingList_of_eq (by simp) (by simp)
  rw [ByList, settleByList_run_self, hlist]

/-- A record that appears puts its source on its bundle's list, and no other list changes from empty (R33). -/
theorem setRecord_pendingList_eq_nil (s : State) (n : SourceId) (r : PendingRecord) (b : BundleId) :
    (s.setRecord n (some r)).pendingList b = [] ↔ s.pendingList b = [] ∧ (s.route n).bundle ≠ some b := by
  simp only [pendingList_eq_nil, setRecord_record, setRecord_route]
  constructor
  · refine fun h => ⟨fun m hm => ?_, h n (by simp)⟩
    have := h m
    split at this <;> simp_all
  · rintro ⟨h, hn⟩ m hm
    split at hm
    case isTrue he => exact he ▸ hn
    case isFalse => exact h m hm

theorem listGained_run (s : State) (b : BundleId) (c : Option BundleId) :
    (s.listGained c).run b = if c = some b ∧ (s.run b).state = .idle then { s.run b with state := .ready } else s.run b := by
  cases c with
  | none => simp [listGained]
  | some c =>
    by_cases hc : c = b
    case pos =>
      subst hc
      by_cases hidle : (s.run c).state = .idle
      · simp only [listGained, if_pos hidle, setState_run_self]
        simp [hidle]
      · simp [listGained, hidle]
    case neg =>
      have hne : b ≠ c := Ne.symm hc
      simp only [listGained]
      split
      · simp [setState_run_ne _ _ hne, hc]
      · simp [hc]

/-- An arrival keeps a bundle READY or IDLE by its list (R55). -/
theorem ByList.arrive {s : State} {b : BundleId} (h : ByList s b) (n : SourceId) (d : Option Half) : ByList (s.arrive n d) b := by
  unfold State.arrive
  dsimp only
  generalize hu : (s.setInterval n 0).updTally n (fun y => { y with accepted := y.accepted + 1 }) = u
  have hread : ByList u b := h.of_eq (by simp [← hu]) (by simp [← hu]) (by simp [← hu])
  have hroute : s.route n = u.route n := by simp [← hu]
  have hrecord : s.record n = u.record n := by simp [← hu]
  rw [hrecord]
  cases hr : u.record n with
  | none =>
    dsimp only
    generalize hv : u.setRecord n (some ⟨1, s.timebase, s.timebase, s.interval n, d⟩) = v
    have hlist : v.pendingList b = [] ↔ u.pendingList b = [] ∧ (u.route n).bundle ≠ some b := by
      rw [← hv, setRecord_pendingList_eq_nil]
    have hrun : v.run b = u.run b := by simp [← hv]
    have hgained : (v.listGained (u.route n).bundle).pendingList = v.pendingList := pendingList_of_eq (by simp) (by simp)
    unfold ByList at hread ⊢
    rw [hroute, hgained, listGained_run, hrun]
    simp only [hlist]
    by_cases hb : (u.route n).bundle = some b <;> by_cases hl : u.pendingList b = [] <;> simp_all
  | some r =>
    have hkeeps (r' : PendingRecord) : ByList (u.setRecord n (some r')) b := by
      refine hread.of_iff (by simp) ?_
      rw [setRecord_pendingList_eq_nil, and_iff_left_iff_imp]
      exact fun hl => (pendingList_eq_nil u b).1 hl n (by simp [hr])
    dsimp only
    split
    · exact hkeeps _
    · exact (hkeeps { r with lastTime := s.timebase, detail := d }).of_eq (by simp) (by simp) (by simp)

theorem ByList.acceptOne {s : State} {b : BundleId} (h : ByList s b) (n : SourceId) (d : Option Half) :
    ByList (s.acceptOne n d) b := by
  unfold State.acceptOne
  split
  · exact h.arrive n d
  · exact h

theorem ByList.accept {s : State} {b : BundleId} (h : ByList s b) (n : SourceId) (d : Option Half) : ByList (s.accept n d) b := by
  unfold State.accept
  split
  · exact (h.acceptOne n d).acceptOne _ _
  · exact h.acceptOne n d

theorem ByList.levelCheck {s : State} {b : BundleId} (h : ByList s b) (n : SourceId) : ByList (s.levelCheck n) b := by
  unfold State.levelCheck
  split
  · exact h.accept n _
  · exact h

theorem ByList.reassert {s : State} {b : BundleId} (h : ByList s b) (l : List SourceId) : ByList (s.reassert l) b := by
  unfold State.reassert
  induction l generalizing s with
  | nil => exact h
  | cons n l ih => exact ih (h.levelCheck n)

/-- The release of another bundle keeps it too. -/
theorem ByList.releaseHold {s : State} {b k : BundleId} (h : ByList s b) (hne : b ≠ k) : ByList (s.releaseHold k) b := by
  have hchecks : ByList (s.releaseChecks k) b :=
    (h.of_eq (t := s.updRun k fun x => { x with holdTimer := .stopped, reminderDue := false, remindersPosted := 0 })
      (by rw [updRun_run_ne _ _ hne]) (by simp) (by simp)).reassert _
  exact hchecks.of_iff (by rw [releaseHold_run_checks s hne]) (by rw [releaseHold_pendingList])

/-! ### Sources that the checks of other sources do not reach -/

theorem arrive_record_ne (s : State) {n m : SourceId} (d : Option Half) (h : m ≠ n) : (s.arrive n d).record m = s.record m := by
  unfold arrive
  dsimp only
  split
  · simp [setRecord_record_ne _ _ h]
  · split <;> simp [setRecord_record_ne _ _ h]

theorem arrive_tally_ne (s : State) {n m : SourceId} (d : Option Half) (h : m ≠ n) : (s.arrive n d).tally m = s.tally m := by
  unfold arrive
  dsimp only
  split
  · simp [updTally_tally_ne _ _ h]
  · split <;> simp [updTally_tally_ne _ _ h]

theorem acceptOne_ne (s : State) {n m : SourceId} (d : Option Half) (h : m ≠ n) :
    (s.acceptOne n d).tally m = s.tally m ∧ (s.acceptOne n d).record m = s.record m := by
  unfold acceptOne
  split
  · exact ⟨arrive_tally_ne s d h, arrive_record_ne s d h⟩
  · exact ⟨rfl, rfl⟩

/-- An occurrence reaches its own source and, where it is a loss, source 209 (R5, R41). -/
theorem accept_ne (s : State) {n m : SourceId} (d : Option Half) (h : m ≠ n) (h' : m ≠ Config.eventsLost) :
    (s.accept n d).tally m = s.tally m ∧ (s.accept n d).record m = s.record m := by
  obtain ⟨htally, hrecord⟩ := acceptOne_ne s d h
  unfold accept
  split
  · obtain ⟨htally', hrecord'⟩ := acceptOne_ne (s.acceptOne n d) (sourceDetail n.val) h'
    exact ⟨htally'.trans htally, hrecord'.trans hrecord⟩
  · exact ⟨htally, hrecord⟩

/-- Only field lines have re-assertion checks (R13): no check reaches the consumer's own sources but 209. -/
theorem reassert_ne (l : List SourceId) (s : State) {m : SourceId} (h : lineOf m = none) (h' : m ≠ Config.eventsLost) :
    (s.reassert l).tally m = s.tally m ∧ (s.reassert l).record m = s.record m := by
  unfold reassert
  induction l generalizing s with
  | nil => exact ⟨rfl, rfl⟩
  | cons n l ih =>
    have hcheck : (s.levelCheck n).tally m = s.tally m ∧ (s.levelCheck n).record m = s.record m := by
      unfold levelCheck
      split
      case isFalse => exact ⟨rfl, rfl⟩
      case isTrue hactive =>
        have hne : m ≠ n := by
          rintro rfl
          simp [levelActive, h] at hactive
        exact accept_ne s _ hne h'
    exact ⟨(ih _).1.trans hcheck.1, (ih _).2.trans hcheck.2⟩

/-! ### Several releases, one after another -/

/-- A release wakes another bundle at most (R55). -/
theorem releaseHold_woken (s : State) {b k : BundleId} (h : k ≠ b) :
    (s.releaseHold b).run k = s.run k ∨ (s.run k).state = .idle ∧ (s.releaseHold b).run k = { s.run k with state := .ready } := by
  have hchecks := woken_reassert
    (s.updRun b fun x => { x with holdTimer := .stopped, reminderDue := false, remindersPosted := 0 }) (s.run b).heldSet k
  rw [updRun_run_ne _ _ h] at hchecks
  rw [releaseHold_run_checks s h]
  exact hchecks

theorem releaseHold_run_busy (s : State) {b k : BundleId} (h : k ≠ b) (hk : (s.run k).state ≠ .idle) :
    (s.releaseHold b).run k = s.run k := by
  rcases releaseHold_woken s h with hrun | ⟨hidle, -⟩
  · exact hrun
  · exact absurd hidle hk

theorem OnlySpace.releaseHold (s : State) (b : BundleId) : OnlySpace s (s.releaseHold b) := by
  have hchecks : OnlySpace s (s.releaseChecks b) :=
    (OnlySpace.of_eq (t := s.updRun b fun x => { x with holdTimer := .stopped, reminderDue := false, remindersPosted := 0 })
      (by simp)).trans (.reassert _ _)
  have hset : OnlySpace (s.releaseChecks b) ((s.releaseChecks b).updRun b fun x => { x with heldSet := [] }) := .of_eq (by simp)
  exact (hchecks.trans hset).trans (.setState _ b _)

/-- The accounts after a release are those after its checks (R100, R101). -/
theorem releaseHold_counts (s : State) (b : BundleId) : SameCounts (s.reassert (s.run b).heldSet) (s.releaseHold b) := by
  have hstopped : SameCounts s (s.updRun b fun x => { x with holdTimer := .stopped, reminderDue := false, remindersPosted := 0 }) :=
    .of_fields (by simp)
  have hchecks : SameCounts (s.reassert (s.run b).heldSet) (s.releaseChecks b) := hstopped.reassert (by simp) _
  exact ⟨by simp, by simp, (releaseHold_accounts s b).trans hchecks.accounts⟩

theorem reassert_append (s : State) (l k : List SourceId) : s.reassert (l ++ k) = (s.reassert l).reassert k := by
  simp [reassert]

section Releases

variable {l : List BundleId} {s : State}

theorem releases_onlySpace : OnlySpace s (l.foldl releaseHold s) := by
  induction l generalizing s with
  | nil => exact .refl s
  | cons b l ih => exact (OnlySpace.releaseHold s b).trans ih

/-- The checks of the releases are those of their held sets, in bundle order (R101; log 33). -/
theorem releases_counts (hn : l.Nodup) (h : ∀ b ∈ l, (s.run b).state = .held) :
    SameCounts (s.reassert (l.flatMap fun b => (s.run b).heldSet)) (l.foldl releaseHold s) := by
  induction l generalizing s with
  | nil => exact .refl s
  | cons b l ih =>
    obtain ⟨hb, hn⟩ := List.nodup_cons.1 hn
    have hrun c (hc : c ∈ l) : (s.releaseHold b).run c = s.run c :=
      releaseHold_run_busy s (fun e => hb (e ▸ hc)) (by simp [h c (by simp [hc])])
    have hsets : (l.flatMap fun c => ((s.releaseHold b).run c).heldSet) = l.flatMap fun c => (s.run c).heldSet :=
      List.flatMap_congr fun c hc => by rw [hrun c hc]
    have hrest := ih hn (s := s.releaseHold b) fun c hc => by rw [hrun c hc]; exact h c (by simp [hc])
    rw [List.flatMap_cons, reassert_append, ← hsets]
    exact ((releaseHold_counts s b).reassert (by simp) _).trans hrest

/-- A bundle that is not released is woken at most. -/
theorem releases_others {c : BundleId} (hc : c ∉ l) :
    ((s.run c).state ≠ .idle → (l.foldl releaseHold s).run c = s.run c) ∧
      (∀ st, { (l.foldl releaseHold s).run c with state := st } = { s.run c with state := st }) ∧
      (ByList s c → ByList (l.foldl releaseHold s) c) := by
  induction l generalizing s with
  | nil => exact ⟨fun _ => rfl, fun _ => rfl, id⟩
  | cons b l ih =>
    obtain ⟨hb, hl⟩ := not_or.1 (List.mem_cons.not.1 hc)
    obtain ⟨hbusy, hrest, hlist⟩ := ih (s := s.releaseHold b) hl
    refine ⟨fun hs => ?_, fun st => (hrest st).trans ?_, fun hs => hlist (hs.releaseHold hb)⟩
    · have hrun := releaseHold_run_busy s hb hs
      exact (hbusy (by rwa [hrun])).trans hrun
    · rcases releaseHold_woken s hb with hrun | ⟨-, hrun⟩ <;> simp [hrun]

/-- A bundle that is released settles by its list, with its token and nothing else of its hold (R100). -/
theorem releases_released (hn : l.Nodup) (h : ∀ b ∈ l, (s.run b).state = .held) {b : BundleId} (hb : b ∈ l) :
    (l.foldl releaseHold s).run b =
      ⟨if (l.foldl releaseHold s).pendingList b = [] then .idle else .ready, (s.run b).token, [], 0, false, .stopped⟩ := by
  induction l generalizing s with
  | nil => exact absurd hb List.not_mem_nil
  | cons a l ih =>
    obtain ⟨ha, hn⟩ := List.nodup_cons.1 hn
    have hrun c (hc : c ∈ l) : (s.releaseHold a).run c = s.run c :=
      releaseHold_run_busy s (fun e => ha (e ▸ hc)) (by simp [h c (by simp [hc])])
    rcases List.mem_cons.1 hb with rfl | hb
    case inr =>
      rw [List.foldl_cons, ih hn (fun c hc => by rw [hrun c hc]; exact h c (by simp [hc])) hb, hrun b hb]
    case inl =>
      have hself := releaseHold_run_self (h b (by simp))
      have hbylist : ByList (s.releaseHold b) b := by rw [ByList, hself]
      obtain ⟨-, hrest, hlist⟩ := releases_others (s := s.releaseHold b) ha
      have hstate := hlist hbylist
      have hfields := hrest ((l.foldl releaseHold (s.releaseHold b)).run b).state
      rw [List.foldl_cons]
      refine hfields.trans ?_
      rw [hself, hstate]

end Releases

/-! ### Detaches -/

theorem mem_heldBundles (s : State) (k : TargetId) (b : BundleId) :
    b ∈ s.heldBundles k ↔ (s.config b).target = some k ∧ (s.run b).state = .held := by
  simp [heldBundles, allBundles]

/-- The releases of a detach, made while the target counts as DETACHED (R127; log 12). -/
def State.detachReleases (s : State) (k : TargetId) : State :=
  (s.heldBundles k).foldl releaseHold (s.updTarget k fun x => { x with detachPending := true })

theorem performDetach_eq (s : State) (k : TargetId) :
    s.performDetach k = (s.detachReleases k).updTarget k fun x =>
      { x with
        state := .detached, detachPending := false, armed := false, spaceWanted := false, signalOwed := false,
        rearmCheckPending := false, pollTimer := .stopped, holdoffTimer := .stopped } := rfl

theorem performDetach_run (s : State) (k : TargetId) (b : BundleId) : (s.performDetach k).run b = (s.detachReleases k).run b := rfl

theorem performDetach_pendingList (s : State) (k : TargetId) : (s.performDetach k).pendingList = (s.detachReleases k).pendingList :=
  pendingList_of_eq rfl rfl

/-- The context of a target that has been detached (R127). -/
theorem performDetach_target (s : State) (k : TargetId) :
    (s.performDetach k).target k = { s.target k with
      state := .detached, detachPending := false, armed := false, spaceWanted := false, signalOwed := false,
      rearmCheckPending := false, pollTimer := .stopped, holdoffTimer := .stopped } := by
  have hcontext := (releases_onlySpace (l := s.heldBundles k) (s := s.updTarget k fun x => { x with detachPending := true })).context k
  rw [updTarget_target_self] at hcontext
  rw [performDetach_eq, updTarget_target_self]
  exact congrArg (fun x : Target => { x with
    state := .detached, detachPending := false, armed := false, spaceWanted := false, signalOwed := false,
    rearmCheckPending := false, pollTimer := .stopped, holdoffTimer := .stopped }) hcontext

theorem performDetach_counts (s : State) (k : TargetId) :
    SameCounts (s.reassert ((s.heldBundles k).flatMap fun b => (s.run b).heldSet)) (s.performDetach k) := by
  have hpending : SameCounts s (s.updTarget k fun x => { x with detachPending := true }) := .of_fields (by simp)
  have hreleases := releases_counts (s := s.updTarget k fun x => { x with detachPending := true }) (heldBundles_nodup s k)
    fun b hb => heldBundles_held s k hb
  have hdetached : SameCounts (s.detachReleases k) (s.performDetach k) := .of_fields (by simp [performDetach_eq])
  exact ((hpending.reassert (by simp) _).trans hreleases).trans hdetached

/-- Settles O41: the releases one after another, between the two changes of the target's context. -/
theorem detachCarriedOut : Obligations.DetachCarriedOut := by
  intro s k
  have hcounts := performDetach_counts s k
  have hconsumer := reassert_ne ((s.heldBundles k).flatMap fun b => (s.run b).heldSet) s (m := 210) (by decide) (by decide)
  refine ⟨performDetach_target s k, mem_heldBundles s k, fun b hb => ?released, fun b hb => ?others, hcounts.accounts, fun b hb => ?one,
    by simp, ?tally, (hcounts.record 210).trans hconsumer.2, by simp [fieldSide], by simp [assembler], by simp⟩
  case released =>
    rw [performDetach_run, performDetach_pendingList]
    exact releases_released (s := s.updTarget k fun x => { x with detachPending := true }) (heldBundles_nodup s k)
      (fun b hb => heldBundles_held s k hb) hb
  case others =>
    obtain ⟨hbusy, hrest, hlist⟩ := releases_others (s := s.updTarget k fun x => { x with detachPending := true }) hb
    rw [performDetach_run, performDetach_pendingList]
    refine ⟨hbusy, fun hidle => ⟨(hrest .idle).trans ?_, fun hempty => hlist ?_⟩⟩
    · rw [← hidle]
      rfl
    · have hpending : (s.updTarget k fun x => { x with detachPending := true }).pendingList b = [] := hempty
      rw [ByList, if_pos hpending]
      exact hidle
  case one =>
    have hrelease : (s.release b).accounts = (s.releaseHold b).accounts := by simp [release, accounts]
    have hsets : ((s.heldBundles k).flatMap fun b => (s.run b).heldSet) = (s.run b).heldSet := by simp [hb]
    rw [hcounts.accounts, hrelease, hsets, (releaseHold_counts s b).accounts]
  case tally =>
    have htally : (s.performDetach k).tally 210 = (s.reassert ((s.heldBundles k).flatMap fun b => (s.run b).heldSet)).tally 210 := by
      simp only [tally, hcounts.fields]
    exact htally.trans hconsumer.1

end Sys2Proof.Machine

/-! The statements on TARGET_DETACH and on the waits of deferred commands (R126, R128, R129, R144, R145). -/
namespace Sys2Proof.Machine

open State

/-! ### TARGET_DETACH -/

/-- What keeps a target busy (R126). -/
theorem targetBusy_iff (s : State) (k : TargetId) :
    s.targetBusy k = true ↔
      (∃ a, s.assembly = some a ∧ a.target = k) ∨ ∃ q ∈ s.requests, q.issuer = .consumerRead k ∨ q.issuer = .signal k := by
  have hassembly : s.assemblyFor k = true ↔ ∃ a, s.assembly = some a ∧ a.target = k := by
    cases h : s.assembly <;> simp [assemblyFor, h]
  rw [targetBusy, Bool.or_eq_true, Bool.or_eq_true, hassembly, or_assoc]
  simp [consumerReadInFlight, inFlight, exists_or, and_or_left]

/-- TARGET_DETACH of a busy target enters the deferred table, and detach is pending from then on (R126, R144). -/
theorem enterTable_detach_spec {s : State} (cmd : CmdId) (k : TargetId) (h : s.proc.deferred.length < 4) :
    let t := s.enterTable cmd (.detach k)
    t.proc = { s.proc with deferred := s.proc.deferred ++ [⟨cmd, .detach k, .stopped⟩] } ∧
      (t.target k).detachPending = true ∧ (t.target k).state = (s.target k).state ∧ t.accounts = s.accounts ∧
      t.bundles = s.bundles := by
  intro t
  have ht : t = _ := enterTable_detach cmd k h
  have hcontext := rejudgeSpace_context
    ((s.updProc fun p => { p with deferred := p.deferred ++ [⟨cmd, .detach k, .stopped⟩] }).updTarget k fun x =>
      { x with detachPending := true }) k k
  rw [← ht, updTarget_target_self] at hcontext
  exact ⟨by simp [ht, updProc], (congrArg Target.detachPending hcontext :), (congrArg Target.state hcontext :),
    by simp [ht, accounts], by simp [ht, bundles]⟩

/-- Settles O40: the branches of the judgement of a TARGET_DETACH. -/
theorem targetDetach : Obligations.TargetDetach := by
  intro s r target h cmd u
  have hexec : exec (.targetDetach r target) s = .next (u.detachCommand cmd target) := congrArg Host.Outcome.next (command_taken h)
  refine ⟨fun hbad => ?bad, targetBusy_iff, fun k hk => ?named⟩
  case bad => simp only [hexec, detachCommand, targetArg_none hbad]
  case named =>
    have hjudged : exec (.targetDetach r target) s = .next (u.judgeDeferrable cmd (.detach k)) := by
      simp only [hexec, detachCommand, targetArg_of hk]
    have hstate : (u.target k).state = (s.target k).state := by simp [u]
    rw [hjudged]
    simp only [judgeDeferrable, hstate]
    refine ⟨fun hdetached => by rw [if_pos hdetached], fun hne hfree => ?atOnce, fun hne hbusy hroom => ?enters,
      fun hne hbusy hfull => ?waits⟩
    case atOnce =>
      have hfree' : ¬ u.targetBusy k = true := by simp [hfree]
      rw [if_neg hne, if_neg hfree', complete_ok]
      refine ⟨_, rfl, ?_, by simp [accounts], by simp [bundles], by simp, ?_⟩
      · simp [performDetach_target]
      · rw [← complete_ok]
        exact ((Appends.of_eq (s := s.taken r) (t := u.performDetach k) (by simp [u])).trans (.sweep _ _ _ _)).last _ _ _
    case enters =>
      obtain ⟨hproc, hpending, hkept, haccounts, hbundles⟩ := enterTable_detach_spec (s := u) cmd k hroom
      rw [if_neg hne, if_pos hbusy]
      exact ⟨_, rfl, hproc, hpending, hkept.trans hstate, haccounts.trans (by simp [u, accounts]),
        hbundles.trans (by simp [u, bundles])⟩
    case waits =>
      rw [if_neg hne, if_pos hbusy, enterTable_full (s := u) cmd _ hfull h.2]
      exact ⟨_, rfl, by simp [u, OnlyCommandPath, fieldSide, accounts, bundles, assembler, window, own], rfl⟩

/-! ### The deferred table -/

/-- The first TARGET_DETACH among the ended commands has the holds released as its result (R126). -/
theorem endings_detach (holds : Nat) (before : List Deferred) (d : Deferred) (after : List Deferred) {k : TargetId}
    (hd : d.what = .detach k) (h : ∀ x ∈ before, ∀ k, x.what ≠ .detach k) :
    endings holds (before ++ d :: after) =
      before.map plainCompletion ++ ⟨d.cmd, .ok, result1 holds⟩ :: after.map plainCompletion := by
  rw [endings_append _ _ _ h]
  simp only [endings, hd, endings_zero]

theorem endings_plain (holds : Nat) (l : List Deferred) (h : ∀ x ∈ l, ∀ k, x.what ≠ .detach k) :
    endings holds l = l.map plainCompletion := by
  simpa [endings] using endings_append holds l [] h

/-- Settles O43: the closed form of one pass over the table, `drained_iff`, and the expiry of a DRAIN's timer. -/
theorem deferredWaitsEnd : Obligations.DeferredWaitsEnd := by
  refine ⟨fun s gone holds met => ?pass, fun s => rfl, fun s k => ⟨drained_iff s k, ?member, rfl⟩,
    fun s entry cmd k timeout hlive hentry => ?expires⟩
  case member => simp [drainedTargets, allTargets]
  case expires =>
    have hexec : exec (.drainTimerExpiry entry) s = .next (s.drainExpires entry) := congrArg Host.Outcome.next (live_eq hlive)
    rw [hexec]
    simp only [drainExpires, hentry]
  case pass =>
    intro t ends table front back ended plain
    have hends : ends = s.waitEnds gone met := by
      funext d
      cases hd : d.what <;> simp [ends, waitEnds, hd]
    have htable := sweepTable_nil s gone met s.proc.deferred holds
    have hproc := sweepDeferredFor_proc s gone met holds
    have hdeferred : t.proc.deferred = back.filter fun d => !ends d := by
      rw [hproc, htable]
      simp only [back, table, hends]
    have hcompletions : t.proc.completions = s.proc.completions ++ endings holds ended := by
      rw [hproc, htable]
      simp only [ended, front, back, table, hends]
    refine ⟨hdeferred, fun hnone => ?_, fun before d after k hended hd hbefore => ?_, ?only⟩
    · rw [hcompletions, endings_plain _ _ hnone]
      rfl
    · rw [hcompletions, hended, endings_detach _ _ _ _ hd hbefore, List.append_assoc]
      rfl
    case only => simp [t, OnlyCommandPath, fieldSide, accounts, bundles, assembler, window, own]

end Sys2Proof.Machine

/-! The statement on ABORT (R146). -/
namespace Sys2Proof.Machine

open State

/-! ### Detach pending -/

theorem detachDeferred_iff (s : State) (k : TargetId) : s.detachDeferred k = true ↔ ∃ x ∈ s.proc.deferred, x.what = .detach k := by
  simp [detachDeferred]

/-- Detach pending stays while a TARGET_DETACH of the target is in the table (R127). -/
theorem rejudgeDetachPending_stays {s : State} {k : TargetId}
    (h : (s.target k).detachPending = false ∨ ∃ x ∈ s.proc.deferred, x.what = .detach k) : s.rejudgeDetachPending k = s := by
  unfold rejudgeDetachPending
  rcases h with h | h
  · simp [h]
  · simp [(detachDeferred_iff s k).2 h]

theorem rejudgeDetachPending_ends {s : State} {k : TargetId} (h : (s.target k).detachPending = true)
    (hnone : ∀ x ∈ s.proc.deferred, x.what ≠ .detach k) :
    s.rejudgeDetachPending k = (s.updTarget k fun x => { x with detachPending := false }).rejudgeSpace k := by
  have hdeferred : s.detachDeferred k = false := by
    rw [← Bool.not_eq_true, detachDeferred_iff]
    rintro ⟨x, hx, hk⟩
    exact hnone x hx hk
  unfold rejudgeDetachPending
  simp [h, hdeferred]

/-- The contexts after detach pending of target `k` was judged by the deferred table (R115, R127). -/
theorem rejudgeDetachPending_target (s : State) (k : TargetId) :
    let t := s.rejudgeDetachPending k
    ((∀ x ∈ s.proc.deferred, x.what ≠ .detach k) →
      (t.target k).detachPending = false ∧ ((s.target k).detachPending = true → (t.target k).spaceWanted = t.shortOfSpace k)) ∧
    (∀ m, m ≠ k ∨ (∃ x ∈ s.proc.deferred, x.what = .detach k) → t.target m = s.target m) ∧
    ∀ m, { t.target m with
      detachPending := (s.target m).detachPending, spaceWanted := (s.target m).spaceWanted, pollTimer := (s.target m).pollTimer } =
      s.target m := by
  by_cases h : (s.target k).detachPending = false ∨ ∃ x ∈ s.proc.deferred, x.what = .detach k
  case pos =>
    rw [rejudgeDetachPending_stays h]
    refine ⟨fun hnone => ?_, fun _ _ => rfl, fun _ => rfl⟩
    rcases h with h | ⟨x, hx, hk⟩
    · exact ⟨h, fun hp => absurd hp (by simp [h])⟩
    · exact absurd hk (hnone x hx)
  case neg =>
    obtain ⟨hpending, hnone⟩ := not_or.1 h
    have hpending : (s.target k).detachPending = true := by simpa using hpending
    have hnone : ∀ x ∈ s.proc.deferred, x.what ≠ .detach k := fun x hx hk => hnone ⟨x, hx, hk⟩
    have hcontext := rejudgeSpace_context (s.updTarget k fun x => { x with detachPending := false }) k
    have hself := hcontext k
    rw [updTarget_target_self] at hself
    have hothers m (hm : m ≠ k) :
        ((s.updTarget k fun x => { x with detachPending := false }).rejudgeSpace k).target m = s.target m :=
      (rejudgeSpace_target_ne _ hm).trans (updTarget_target_ne _ _ hm)
    rw [rejudgeDetachPending_ends hpending hnone]
    refine ⟨fun _ => ⟨(congrArg Target.detachPending hself :), fun _ => rejudgeSpace_wanted _ k⟩, fun m hm => ?_, fun m => ?_⟩
    · rcases hm with hm | ⟨x, hx, hk⟩
      · exact hothers m hm
      · exact absurd hk (hnone x hx)
    · by_cases hm : m = k
      · subst hm
        exact (congrArg (fun x : Target => { x with detachPending := (s.target m).detachPending }) hself :)
      · rw [hothers m hm]

/-! ### ABORT -/

theorem deferredWithTag_none {s : State} {tag : Half} (h : ∀ d ∈ s.proc.deferred, d.cmd.tag ≠ tag) : s.deferredWithTag tag = none := by
  simpa [deferredWithTag] using h

theorem deferredWithTag_oldest {s : State} {tag : Half} {older later : List Deferred} {d : Deferred}
    (h : s.proc.deferred = older ++ d :: later) (hd : d.cmd.tag = tag) (hold : ∀ x ∈ older, x.cmd.tag ≠ tag) :
    s.deferredWithTag tag = some d := by
  have hnone : older.find? (fun x => x.cmd.tag == tag) = none := by simpa using hold
  simp [deferredWithTag, h, List.find?_append, hnone, hd]

/-- The table without its oldest entry with the tag (R146). -/
theorem eraseP_oldest {tag : Half} {older later : List Deferred} {d : Deferred} (hd : d.cmd.tag = tag)
    (hold : ∀ x ∈ older, x.cmd.tag ≠ tag) : (older ++ d :: later).eraseP (fun x => x.cmd.tag == tag) = older ++ later := by
  rw [List.eraseP_append_right _ (by simpa using hold), List.eraseP_cons_of_pos (by simp [hd])]

/-- The pass over the table that follows no detach and no met condition (R128, R145). -/
theorem sweepDeferred_table (s : State) :
    let ends := s.waitEnds none []
    let front := s.proc.deferred.takeWhile fun x => ends x || x.what == .fence
    let back := s.proc.deferred.dropWhile fun x => ends x || x.what == .fence
    s.sweepDeferred.proc = { s.proc with
      deferred := back.filter fun x => !ends x
      completions := s.proc.completions ++ (front ++ back.filter ends).map plainCompletion } := by
  intro ends front back
  have hproc := sweepDeferredFor_proc s none [] 0
  rw [sweepTable_nil s none [] s.proc.deferred 0, endings_zero] at hproc
  exact hproc

theorem waitEnds_congr {s t : State} (hc : t.bundleConfig = s.bundleConfig) (hr : t.bundleRun = s.bundleRun) (gone : Option TargetId)
    (met : List TargetId) : t.waitEnds gone met = s.waitEnds gone met := by
  have hdrained k : t.drained k = s.drained k := by simp [drained, config, run, hc, hr]
  funext d
  simp only [waitEnds, hdrained]

/-- What is judged when the entry has left the table: detach pending of the target of an aborted TARGET_DETACH (R127). -/
def State.abortJudged (s : State) (d : Deferred) (tag : Half) : State :=
  let u := s.updProc fun p => { p with deferred := p.deferred.eraseP fun x => x.cmd.tag == tag }
  match d.what with
  | .detach k => u.rejudgeDetachPending k
  | .drain _ _ | .fence => u

theorem abortDeferred_eq (s : State) (d : Deferred) (tag : Half) :
    s.abortDeferred d tag = ((s.abortJudged d tag).pushCompletion ⟨d.cmd, .aborted, 0⟩).sweepDeferred := rfl

/-- Beside the table and the target's context, the judgement changes no more than the requests. -/
theorem abortJudged_kept (s : State) (d : Deferred) (tag : Half) :
    let v := s.abortJudged d tag
    v.proc = { s.proc with deferred := s.proc.deferred.eraseP fun x => x.cmd.tag == tag } ∧ v.fieldSide = s.fieldSide ∧
      v.accounts = s.accounts ∧ v.bundles = s.bundles ∧ v.assembler = s.assembler := by
  unfold abortJudged
  dsimp only
  split <;> simp [fieldSide, accounts, bundles, assembler, updProc]

/-- The contexts of the targets after an ABORT (R115, R127). -/
theorem abortJudged_target (s : State) (d : Deferred) (tag : Half) :
    let v := s.abortJudged d tag
    let rest := s.proc.deferred.eraseP fun x => x.cmd.tag == tag
    (∀ k, d.what = .detach k → (∀ x ∈ rest, x.what ≠ .detach k) →
      (v.target k).detachPending = false ∧ ((s.target k).detachPending = true → (v.target k).spaceWanted = v.shortOfSpace k)) ∧
    (∀ k, d.what ≠ .detach k ∨ (∃ x ∈ rest, x.what = .detach k) → v.target k = s.target k) ∧
    ∀ k, { v.target k with
      detachPending := (s.target k).detachPending, spaceWanted := (s.target k).spaceWanted, pollTimer := (s.target k).pollTimer } =
      s.target k := by
  unfold abortJudged
  dsimp only
  cases d.what with
  | detach m =>
    obtain ⟨hpending, hothers, hcontext⟩ := rejudgeDetachPending_target
      (s.updProc fun p => { p with deferred := p.deferred.eraseP fun x => x.cmd.tag == tag }) m
    refine ⟨fun k hk => ?_, fun k hk => hothers k ?_, hcontext⟩
    · obtain rfl := DeferKind.detach.inj hk
      exact hpending
    · refine hk.elim (fun hne => .inl fun e => hne (e ▸ rfl)) fun hin => ?_
      by_cases e : k = m
      · exact .inr (e ▸ hin)
      · exact .inl e
  | drain | fence => exact ⟨fun _ hk => by simp at hk, fun _ _ => rfl, fun _ => rfl⟩

/-- Where no wait has ended, only the FENCEs at the front of the table end (R145). -/
theorem onlyFences {table : List Deferred} {ends : Deferred → Bool} (h : ∀ x ∈ table, ends x = false) :
    (table.takeWhile fun x => ends x || x.what == .fence) = (table.takeWhile fun x => x.what == .fence) ∧
      (table.dropWhile fun x => ends x || x.what == .fence) = table.dropWhile (fun x => x.what == .fence) := by
  induction table with
  | nil => exact ⟨rfl, rfl⟩
  | cons x table ih =>
    obtain ⟨htake, hdrop⟩ := ih fun y hy => h y (by simp [hy])
    have hx := h x (by simp)
    simp only [List.takeWhile_cons, List.dropWhile_cons, hx, Bool.false_or, htake, hdrop, and_self]

theorem stays_of_noneEnds {table : List Deferred} {ends : Deferred → Bool} (h : ∀ x ∈ table, ends x = false)
    (p : Deferred → Bool) :
    (table.dropWhile p).filter ends = [] ∧ ((table.dropWhile p).filter fun x => !ends x) = table.dropWhile p := by
  have hback x (hx : x ∈ table.dropWhile p) : ends x = false := h x ((List.dropWhile_sublist p).subset hx)
  exact ⟨List.filter_eq_nil_iff.2 fun x hx => by simp [hback x hx], List.filter_eq_self.2 fun x hx => by simp [hback x hx]⟩

/-- Settles O53: the entry that leaves, the judgement of its target, and the pass over the rest of the table. -/
theorem abort : Obligations.Abort := by
  intro s r tag h cmd
  have hexec : exec (.abort r tag) s = .next ((s.taken r).abortCommand cmd tag) := congrArg Host.Outcome.next (command_taken h)
  refine ⟨fun hnone => ?none, fun older later d htable hd hold => ?found⟩
  case none => simp only [hexec, abortCommand, deferredWithTag_none (s := s.taken r) hnone]
  case found =>
    intro table ends front back plain
    have hrest : (s.taken r).proc.deferred.eraseP (fun x => x.cmd.tag == tag) = table := by
      have hdeferred : (s.taken r).proc.deferred = older ++ d :: later := htable
      rw [hdeferred, eraseP_oldest hd hold]
    obtain ⟨hvproc, hfield, haccounts, hbundles, hassembler⟩ := abortJudged_kept (s.taken r) d tag
    obtain ⟨hpending, hothers, hcontext⟩ := abortJudged_target (s.taken r) d tag
    rw [hrest] at hvproc hpending hothers
    have hfound : exec (.abort r tag) s = .next (((((s.taken r).abortJudged d tag).pushCompletion
        ⟨d.cmd, .aborted, 0⟩).sweepDeferred).complete cmd .ok (result1 d.cmd.kind.toNat)) := by
      simp only [hexec, abortCommand, deferredWithTag_oldest (s := s.taken r) htable hd hold]
      rfl
    generalize (s.taken r).abortJudged d tag = v at hvproc hfield haccounts hbundles hassembler hpending hothers hcontext hfound
    have hends : (v.pushCompletion ⟨d.cmd, .aborted, 0⟩).waitEnds none [] = ends := by
      have hsame : v.bundleConfig = s.bundleConfig ∧ v.bundleRun = s.bundleRun := by
        simpa [bundles] using hbundles
      rw [waitEnds_congr (s := s) (by simp [hsame]) (by simp [hsame])]
      funext x
      cases hx : x.what <;> simp [waitEnds, ends, hx]
    generalize ht : ((v.pushCompletion ⟨d.cmd, .aborted, 0⟩).sweepDeferred).complete cmd .ok (result1 d.cmd.kind.toNat) = t
      at hfound
    have hproc : t.proc = { (s.taken r).proc with
        deferred := back.filter fun x => !ends x
        completions := s.proc.completions ++ [⟨d.cmd, .aborted, 0⟩] ++ (front ++ back.filter ends).map plain ++
          [⟨cmd, .ok, result1 d.cmd.kind.toNat⟩] } := by
      rw [← ht, complete_proc, sweepDeferred_table, hends, pushCompletion_proc, hvproc]
      rfl
    have htarget k : t.target k = v.target k := by simp [← ht, complete_ok]
    have hshort k : t.shortOfSpace k = v.shortOfSpace k :=
      shortOfSpace_of_eq (by simp [← ht, complete_ok]) (by simp [← ht, complete_ok]) (by simp [← ht, complete_ok]) k
    refine ⟨t, hfound, by rw [hproc], by rw [hproc], fun hnone => ?fences, by rw [hproc]; rfl, by rw [hproc]; rfl, by rw [hproc]; rfl,
      fun k hk hlast => ?pending, fun k hk => (htarget k).trans (hothers k hk), fun k => ?context, ?_, ?_, ?_, ?_⟩
    case fences =>
      obtain ⟨htake, hdrop⟩ := onlyFences hnone
      obtain ⟨hend, hstay⟩ := stays_of_noneEnds hnone fun x => ends x || x.what == .fence
      rw [hproc]
      refine ⟨hstay.trans hdrop, ?_⟩
      simp only [front, back, hend, htake, List.append_nil]
    case pending =>
      rw [htarget, hshort]
      exact hpending k hk hlast
    case context =>
      rw [htarget]
      exact hcontext k
    · exact Eq.trans (by simp [← ht, complete_ok, fieldSide]) hfield
    · exact Eq.trans (by simp [← ht, complete_ok, accounts]) haccounts
    · exact Eq.trans (by simp [← ht, complete_ok, bundles]) hbundles
    · exact Eq.trans (by simp [← ht, complete_ok, assembler]) hassembler

end Sys2Proof.Machine

/-! The statement on what a commit does to its bundle (R57 to R59, R61, R102). -/
namespace Sys2Proof.Machine

open State

/-! ### Header kinds -/

theorem headerKind_event_iff (a : Assembly) : a.headerKind = .event ↔ a.kind = .event ∧ ∃ c ∈ a.copies, c.state ≠ .void := by
  cases h : a.kind <;> simp [Assembly.headerKind, h]

theorem headerKind_empty {a : Assembly} (h : a.kind = .event) (hall : ∀ c ∈ a.copies, c.state = .void) : a.headerKind = .empty := by
  simpa [Assembly.headerKind, h] using hall

theorem headerKind_reminder {a : Assembly} (h : a.kind = .reminder) : a.headerKind = .reminder := by
  simp only [Assembly.headerKind, h]

/-! ### The four moves of a bundle at a commit -/

section Moves

variable {a : Assembly} (s : State)

theorem moveBundle_hold (h : a.headerKind = .event) (hc : a.captured.hold = .hold) : s.moveBundle a = s.beginHold a := by
  simp only [moveBundle, h, hc]

theorem moveBundle_nohold (h : a.headerKind = .event) (hc : a.captured.hold = .nohold) :
    s.moveBundle a = (s.updRun a.bundle fun x => { x with token := a.token }).settleByList a.bundle := by
  simp only [moveBundle, h, hc]
  rfl

theorem moveBundle_empty (h : a.headerKind = .empty) : s.moveBundle a = s.settleByList a.bundle := by
  simp only [moveBundle, h]

theorem moveBundle_reminder (h : a.headerKind = .reminder) : s.moveBundle a = s.reminderCommit a := by
  simp only [moveBundle, h]

theorem commitBundle_rechecks (h : a.headerKind = .event) (hc : a.captured.hold = .nohold) :
    s.commitBundle a = (s.moveBundle a).reassert (reportedSources a) := if_pos ⟨h, hc⟩

theorem commitBundle_moves (h : a.headerKind = .event → a.captured.hold = .hold) : s.commitBundle a = s.moveBundle a := by
  refine if_neg ?_
  rintro ⟨hevent, hnohold⟩
  exact absurd ((h hevent).symm.trans hnohold) nofun

end Moves

theorem holdStands_iff (s : State) (a : Assembly) :
    s.holdStands a = true ↔ (s.run a.bundle).state = .held ∧ (s.run a.bundle).token = a.token := by
  simp [holdStands]

theorem reminderCommit_stands {s : State} {a : Assembly} (h : (s.run a.bundle).state = .held ∧ (s.run a.bundle).token = a.token) :
    s.reminderCommit a =
      (s.updRun a.bundle fun x => { x with remindersPosted := x.remindersPosted + 1 }).startHold a.bundle :=
  if_pos ((holdStands_iff s a).2 h)

theorem reminderCommit_gone {s : State} {a : Assembly} (h : (s.run a.bundle).state ≠ .held ∨ (s.run a.bundle).token ≠ a.token) :
    s.reminderCommit a = s := by
  refine if_neg ?_
  rw [holdStands_iff, not_and_or]
  exact h

/-! ### Hold timers at a commit -/

/-- The hold timer that a commit starts (R102). -/
def State.startedTimer (s : State) (b : BundleId) : HoldTimer :=
  let us := (s.config b).holdTimeout.toNat * 1000
  if us = 0 then .stopped else if s.pausesHold b then .paused us else .running us

theorem startHold_run (s : State) (b k : BundleId) :
    (s.startHold b).run k = if k = b then { s.run b with holdTimer := s.startedTimer b } else s.run k := updRun_run s b k _

theorem startedTimer_congr {s t : State} {b : BundleId} (hc : t.config b = s.config b)
    (ht : ∀ k, (t.target k).state = (s.target k).state) : t.startedTimer b = s.startedTimer b := by
  simp only [startedTimer, hc, pausesHold_congr hc ht]

/-- A HOLD bundle's commit (R57). -/
theorem beginHold_run (s : State) (a : Assembly) (k : BundleId) :
    (s.beginHold a).run k =
      if k = a.bundle then ⟨.held, a.token, reportedSources a, 0, false, s.startedTimer a.bundle⟩ else s.run k := by
  unfold beginHold
  generalize hu : s.updRun a.bundle
    (fun x => { x with token := a.token, heldSet := reportedSources a, remindersPosted := 0, reminderDue := false }) = u
  have htimer : (u.setState a.bundle .held).startedTimer a.bundle = s.startedTimer a.bundle :=
    startedTimer_congr (by simp [← hu]) fun m => by rw [setState_target_state, ← hu]; simp
  rw [startHold_run, htimer]
  split
  case isTrue => rw [setState_run_self, ← hu, updRun_run_self]
  case isFalse hk => rw [setState_run_ne _ _ hk, ← hu, updRun_run_ne _ _ hk]

/-- The commit of a REMINDER whose hold stands (R61, R105). -/
theorem reminderCommit_run {s : State} {a : Assembly} (h : (s.run a.bundle).state = .held ∧ (s.run a.bundle).token = a.token)
    (k : BundleId) :
    (s.reminderCommit a).run k =
      if k = a.bundle then
        { s.run a.bundle with
          remindersPosted := (s.run a.bundle).remindersPosted + 1, holdTimer := s.startedTimer a.bundle }
      else s.run k := by
  rw [reminderCommit_stands h, startHold_run]
  split
  case isTrue => rw [updRun_run_self, startedTimer_congr (s := s) (by simp) (by simp)]
  case isFalse hk => rw [updRun_run_ne _ _ hk]

/-- Settles O36: the moves of the four kinds of commit. -/
theorem commitSettlesBundle : Obligations.CommitSettlesBundle := by
  intro s a b x t us pauses started reported settled
  have hstarted : started (s.startedTimer b) := by
    have hpauses : s.pausesHold b = true ↔ pauses := pausesHold_iff s b
    simp only [started, startedTimer, hpauses]
    rfl
  have hempty : a.kind = .event → (∀ c ∈ a.copies, c.state = .void) → t = s.settleByList b := fun hk hall =>
    (commitBundle_moves s fun h => absurd (h.symm.trans (headerKind_empty hk hall)) nofun).trans
      (moveBundle_empty s (headerKind_empty hk hall))
  have hreminder : a.kind = .reminder → t = s.reminderCommit a := fun hk =>
    (commitBundle_moves s fun h => absurd (h.symm.trans (headerKind_reminder hk)) nofun).trans
      (moveBundle_reminder s (headerKind_reminder hk))
  have hhold : a.headerKind = .event → a.captured.hold = .hold → t = s.beginHold a := fun hk hc =>
    (commitBundle_moves s fun _ => hc).trans (moveBundle_hold s hk hc)
  refine ⟨fun hk hsome hc => ?hold, fun hk hsome hc => ?nohold, fun hk hall => ?empty, fun hk hs ht => ?reminds, fun hk hgone => ?gone,
    fun k hne hcase => ?others⟩
  case hold =>
    rw [hhold ((headerKind_event_iff a).2 ⟨hk, hsome⟩) hc]
    exact ⟨⟨_, hstarted, by rw [beginHold_run, if_pos rfl]; rfl⟩, by simp [accounts]⟩
  case nohold =>
    have hevent := (headerKind_event_iff a).2 ⟨hk, hsome⟩
    refine ⟨?_, moveBundle_nohold s hevent hc, (commitBundle_rechecks s hevent hc).trans ?_⟩
    · rw [settleByList_run_self, updRun_run_self, pendingList_of_eq (s := s) (by simp) (by simp)]
    · rw [moveBundle_nohold s hevent hc]
      rfl
  case empty =>
    rw [hempty hk hall]
    exact ⟨settleByList_run_self s b, by simp [accounts]⟩
  case reminds =>
    rw [hreminder hk]
    exact ⟨⟨_, hstarted, by rw [reminderCommit_run ⟨hs, ht⟩, if_pos rfl]⟩, by simp [accounts]⟩
  case gone => rw [hreminder hk, reminderCommit_gone hgone]
  case others =>
    cases hk : a.kind with
    | reminder =>
      rw [hreminder hk]
      by_cases hstands : (s.run a.bundle).state = .held ∧ (s.run a.bundle).token = a.token
      · rw [reminderCommit_run hstands, if_neg hne]
      · rw [reminderCommit_gone (not_and_or.1 hstands)]
    | event =>
      by_cases hall : ∀ c ∈ a.copies, c.state = .void
      case pos => rw [hempty hk hall, settleByList_run_ne s hne]
      case neg =>
        have hc : a.captured.hold = .hold := by simpa [hk, hall] using hcase
        rw [hhold ((headerKind_event_iff a).2 ⟨hk, by simpa using hall⟩) hc, beginHold_run, if_neg hne]

end Sys2Proof.Machine

/-! What an arrival, a release, a fault and the end of waits leave of the accounts: nothing is reported, no produced index moves and no
token is taken (R44, R88, R92). -/
namespace Sys2Proof.Machine

open State

/-- Nothing was reported or cleared, no produced index moved and no token was taken. -/
structure Unposted (s t : State) : Prop where
  reported : ∀ n, (t.tally n).reported = (s.tally n).reported
  lossMark : ∀ n, (t.tally n).lossMark = (s.tally n).lossMark
  cleared : ∀ n, (t.tally n).cleared = (s.tally n).cleared
  produced : ∀ k, (t.target k).produced = (s.target k).produced
  token : ∀ b, (t.run b).token = (s.run b).token

theorem OnlySpace.produced {s t : State} (h : OnlySpace s t) (k : TargetId) : (t.target k).produced = (s.target k).produced :=
  (congrArg Target.produced (h.context k) :)

theorem Woken.token {s t : State} (h : Woken s t) (b : BundleId) : (t.run b).token = (s.run b).token := by
  rcases h b with h | ⟨-, h⟩ <;> rw [h]

namespace Unposted

theorem of_tallies {s t : State} (h : t.tallies = s.tallies) (hp : ∀ k, (t.target k).produced = (s.target k).produced)
    (ht : ∀ b, (t.run b).token = (s.run b).token) : Unposted s t := by
  have htally n : t.tally n = s.tally n := by simp [tally, h]
  exact ⟨fun n => by rw [htally], fun n => by rw [htally], fun n => by rw [htally], hp, ht⟩

theorem of_eq {s t : State} (h : t.tallies = s.tallies) (hp : t.targets = s.targets) (ht : t.bundleRun = s.bundleRun) :
    Unposted s t :=
  of_tallies h (fun k => by simp [target, hp]) fun b => by simp [run, ht]

theorem refl (s : State) : Unposted s s := of_eq rfl rfl rfl

theorem trans {s t u : State} (h : Unposted s t) (h' : Unposted t u) : Unposted s u where
  reported n := (h'.reported n).trans (h.reported n)
  lossMark n := (h'.lossMark n).trans (h.lossMark n)
  cleared n := (h'.cleared n).trans (h.cleared n)
  produced k := (h'.produced k).trans (h.produced k)
  token b := (h'.token b).trans (h.token b)

theorem foldl {α : Type} {f : State → α → State} (h : ∀ u x, Unposted u (f u x)) (l : List α) (s : State) :
    Unposted s (l.foldl f s) := by
  induction l generalizing s with
  | nil => exact refl s
  | cons x l ih => exact (h s x).trans (ih _)

/-! ### Contexts -/

theorem updRun (s : State) (b : BundleId) (f : BundleRun → BundleRun) (h : ∀ x, (f x).token = x.token) : Unposted s (s.updRun b f) :=
  of_tallies (by simp) (by simp) fun k => by
    rw [updRun_run]
    split
    case isTrue hk => rw [h, hk]
    case isFalse => rfl

theorem updTarget (s : State) (k : TargetId) (f : Target → Target) (h : ∀ x, (f x).produced = x.produced) :
    Unposted s (s.updTarget k f) :=
  of_tallies (by simp) (fun m => by
    rw [updTarget_target]
    split
    case isTrue hm => rw [h, hm]
    case isFalse => rfl) (by simp)

theorem rejudgeSpace (s : State) (k : TargetId) : Unposted s (s.rejudgeSpace k) :=
  of_tallies (by simp) (fun m => (congrArg Target.produced (rejudgeSpace_context s k m) :)) (by simp)

theorem rejudgeSpaceOf (s : State) (b : BundleId) : Unposted s (s.rejudgeSpaceOf b) := by
  unfold State.rejudgeSpaceOf
  split
  · exact rejudgeSpace s _
  · exact refl s

theorem setState (s : State) (b : BundleId) (st : BundleState) : Unposted s (s.setState b st) :=
  (updRun s b _ (by intro; rfl)).trans (rejudgeSpaceOf _ b)

theorem settleByList (s : State) (b : BundleId) : Unposted s (s.settleByList b) := setState s b _

theorem rejudgeHolds (s : State) : Unposted s s.rejudgeHolds :=
  foldl (fun u b => updRun u b _ (by intro; rfl)) allBundles s

theorem signalRules (s : State) (k : TargetId) : Unposted s (s.signalRules k) :=
  of_tallies (by simp) (fun m => (congrArg Target.produced (signalRules_context s k m) :)) (by simp)

/-! ### Arrivals -/

theorem updTally (s : State) (n : SourceId) (f : Tallies → Tallies)
    (h : ∀ y, (f y).reported = y.reported ∧ (f y).lossMark = y.lossMark ∧ (f y).cleared = y.cleared) :
    Unposted s (s.updTally n f) := by
  have htally m : (s.updTally n f).tally m = f (s.tally m) ∨ (s.updTally n f).tally m = s.tally m := by
    rw [updTally_tally]
    split
    case isTrue hm => exact .inl (by rw [hm])
    case isFalse => exact .inr rfl
  refine ⟨fun m => ?_, fun m => ?_, fun m => ?_, by simp, by simp⟩
  all_goals rcases htally m with e | e <;> simp [e, h]

theorem listGained (s : State) (b : Option BundleId) : Unposted s (s.listGained b) := by
  cases b with
  | none => exact refl s
  | some b =>
    simp only [State.listGained]
    split
    · exact setState s b .ready
    · exact refl s

theorem setRecord (s : State) (n : SourceId) (r : Option PendingRecord) : Unposted s (s.setRecord n r) := of_eq rfl rfl rfl

theorem arrive (s : State) (n : SourceId) (d : Option Half) : Unposted s (s.arrive n d) := by
  have hinterval : Unposted s (s.setInterval n 0) := of_eq rfl rfl rfl
  have hread : Unposted s ((s.setInterval n 0).updTally n fun y => { y with accepted := y.accepted + 1 }) :=
    hinterval.trans (updTally _ n _ fun _ => ⟨rfl, rfl, rfl⟩)
  unfold State.arrive
  dsimp only
  split
  · exact (hread.trans (setRecord _ n _)).trans (listGained _ _)
  · split
    · exact hread.trans (setRecord _ n _)
    · exact (hread.trans (setRecord _ n _)).trans (updTally _ n _ (by intro; exact ⟨rfl, rfl, rfl⟩))

theorem acceptOne (s : State) (n : SourceId) (d : Option Half) : Unposted s (s.acceptOne n d) := by
  unfold State.acceptOne
  split
  · exact arrive s n d
  · exact refl s

theorem accept (s : State) (n : SourceId) (d : Option Half) : Unposted s (s.accept n d) := by
  unfold State.accept
  split
  · exact (acceptOne s n d).trans (acceptOne _ _ _)
  · exact acceptOne s n d

theorem acceptMany (s : State) (n : SourceId) (d : Option Half) (k : Nat) : Unposted s (s.acceptMany n d k) := by
  induction k generalizing s with
  | zero => exact refl s
  | succ k ih => exact (accept s n d).trans (ih _)

theorem levelCheck (s : State) (n : SourceId) : Unposted s (s.levelCheck n) := by
  unfold State.levelCheck
  split
  · exact accept s n _
  · exact refl s

theorem reassert (s : State) (l : List SourceId) : Unposted s (s.reassert l) := foldl levelCheck l s

/-! ### Faults and detaches -/

theorem faultTarget (s : State) (k : TargetId) (reason : FaultReason) : Unposted s (s.faultTarget k reason) := by
  by_cases h : (s.target k).inService = true
  · rw [faultTarget_served reason h]
    exact ((updTarget s k _ (by intro; rfl)).trans (accept _ 211 _)).trans (rejudgeHolds _)
  · rw [faultTarget_unserved reason h]
    exact refl s

theorem releaseHold (s : State) (b : BundleId) : Unposted s (s.releaseHold b) :=
  (((updRun s b _ (by intro; rfl)).trans (reassert _ _)).trans (updRun _ b _ (by intro; rfl))).trans (settleByList _ b)

theorem performDetach (s : State) (k : TargetId) : Unposted s (s.performDetach k) :=
  ((updTarget s k _ (by intro; rfl)).trans (foldl releaseHold _ _)).trans (updTarget _ k _ (by intro; rfl))

/-! ### The command path -/

theorem updProc (s : State) (f : Processor → Processor) : Unposted s (s.updProc f) := of_eq rfl rfl rfl

theorem sweepDeferredFor (s : State) (gone : Option TargetId) (holds : Nat) (met : List TargetId) :
    Unposted s (s.sweepDeferredFor gone holds met) := of_eq (by simp) (by simp) (by simp)

theorem detachNow (s : State) (k : TargetId) (met : List TargetId) : Unposted s (s.detachNow k met) :=
  (performDetach s k).trans (sweepDeferredFor _ _ _ _)

theorem endWaits (s : State) (k : TargetId) (met : List TargetId) : Unposted s (s.endWaits k met) := by
  unfold State.endWaits
  split
  · exact detachNow s k met
  · exact sweepDeferredFor _ _ _ _

theorem complete (s : State) (c : CmdId) (st : Status) (v : BitVec 64) : Unposted s (s.complete c st v) := by
  have hpush : Unposted s (s.pushCompletion ⟨c, st, v⟩) := of_eq (by simp) (by simp) (by simp)
  unfold State.complete
  dsimp only
  split
  · exact hpush.trans (accept _ _ _)
  · exact hpush

theorem enterTable (s : State) (c : CmdId) (what : DeferKind) : Unposted s (s.enterTable c what) := by
  unfold State.enterTable holdInHand
  split
  · cases what with
    | detach k => exact ((updProc s _).trans (updTarget _ k _ (by intro; rfl))).trans (rejudgeSpace _ k)
    | drain | fence => exact updProc s _
  · exact updProc s _

theorem judgeDeferrable (s : State) (c : CmdId) (what : DeferKind) : Unposted s (s.judgeDeferrable c what) := by
  cases what with
  | detach k =>
    simp only [State.judgeDeferrable]
    split
    · exact complete s _ _ _
    · split
      · exact enterTable s _ _
      · exact ((performDetach s k).trans (sweepDeferredFor _ _ _ _)).trans (complete _ _ _ _)
  | drain | fence =>
    simp only [State.judgeDeferrable]
    split
    · exact complete s _ _ _
    · exact enterTable s _ _

theorem settleHand (s : State) : Unposted s s.settleHand := by
  unfold State.settleHand
  split
  · split
    · exact ((updProc s _).trans (judgeDeferrable _ _ _)).trans (updProc _ _)
    · exact refl s
  · exact refl s

theorem writeBundleSet (s : State) (b : BundleId) (c : BundleConfig) : Unposted s (s.writeBundleSet b c) := by
  have hmoved : Unposted s (((s.setConfig b c).moveByEnabled b c.enabled).rejudgeHold b) := by
    have hconfig : Unposted s (s.setConfig b c) := of_eq rfl rfl rfl
    refine (hconfig.trans ?_).trans (updRun _ b _ (by intro; rfl))
    unfold moveByEnabled
    split
    · exact settleByList _ b
    · exact setState _ b _
    · exact setState _ b _
    · exact refl _
  unfold State.writeBundleSet
  dsimp only
  split
  · exact (hmoved.trans (rejudgeSpace _ _)).trans (rejudgeSpaceOf _ b)
  · exact hmoved.trans (rejudgeSpaceOf _ b)

theorem settleBundleSet (s : State) (cmd : CmdId) (b : BundleId) (c : BundleConfig) (k : TargetId) (met : List TargetId) :
    Unposted s (s.settleBundleSet cmd b c k met) := by
  unfold State.settleBundleSet
  split
  · exact (((writeBundleSet s b c).trans (endWaits _ _ _)).trans (complete _ _ _ _)).trans (updProc _ _)
  · exact ((endWaits s _ _).trans (complete _ _ _ _)).trans (updProc _ _)

/-- What ends with an assembly posts nothing (R67, R127, R144). -/
theorem afterAssembly (s : State) (a : Assembly) (met : List TargetId) : Unposted s (s.afterAssembly a met) := by
  unfold State.afterAssembly
  split
  · split
    · exact endWaits s _ _
    · exact settleBundleSet s _ _ _ _ _
  · exact (endWaits s _ _).trans (settleHand _)

end Unposted

end Sys2Proof.Machine

/-! The statements on the commit and the abort of an assembly (R44, R60, R61, R88, R89, R91, R92). -/
namespace Sys2Proof.Machine

open State

/-! ### Reports -/

theorem reportCopy_void (s : State) {c : Copy} (h : c.state = .void) : s.reportCopy c = s := if_pos h

theorem reportCopy_counts (s : State) {c : Copy} (h : c.state ≠ .void) :
    s.reportCopy c = s.updTally c.source fun y =>
      { y with reported := y.reported + BitVec.ofNat 32 c.count, lossMark := c.takenLoss } := if_neg h

theorem reportCopy_reported (s : State) (c : Copy) (n : SourceId) :
    ((s.reportCopy c).tally n).reported =
      (s.tally n).reported + BitVec.ofNat 32 (if c.source = n then c.inFlightCount else 0) := by
  by_cases h : c.state = .void
  case pos => simp [reportCopy_void s h, Copy.inFlightCount, h]
  case neg =>
    rw [reportCopy_counts s h, updTally_tally]
    by_cases hn : c.source = n
    · subst hn
      simp [Copy.inFlightCount, h]
    · simp [hn, Ne.symm hn]

/-- The entries of a commit report the in-flight counts (R45, R88 step 1). -/
theorem reports_reported (l : List Copy) (s : State) (n : SourceId) :
    ((l.foldl reportCopy s).tally n).reported = (s.tally n).reported + BitVec.ofNat 32 (inFlightCountIn n l) := by
  induction l generalizing s with
  | nil => simp [inFlightCountIn]
  | cons c l ih => rw [List.foldl_cons, ih, reportCopy_reported, inFlightCountIn, BitVec.ofNat_add, BitVec.add_assoc]

theorem reportCopy_tally_ne (s : State) {c : Copy} {n : SourceId} (h : n ≠ c.source) : (s.reportCopy c).tally n = s.tally n := by
  by_cases hv : c.state = .void
  · rw [reportCopy_void s hv]
  · rw [reportCopy_counts s hv, updTally_tally_ne _ _ h]

theorem reports_tally_ne {l : List Copy} (s : State) {n : SourceId} (h : n ∉ l.map fun c => c.source) :
    (l.foldl reportCopy s).tally n = s.tally n := by
  induction l generalizing s with
  | nil => rfl
  | cons c l ih =>
    obtain ⟨hc, hl⟩ := not_or.1 (List.mem_cons.not.1 h)
    rw [List.foldl_cons, ih _ hl, reportCopy_tally_ne s hc]

/-- The reported-loss mark follows the entry of its source (R36). -/
theorem reports_lossMark {l : List Copy} (s : State) (hn : (l.map fun c => c.source).Nodup) {c : Copy} (hc : c ∈ l)
    (hv : c.state ≠ .void) : ((l.foldl reportCopy s).tally c.source).lossMark = c.takenLoss := by
  induction l generalizing s with
  | nil => exact absurd hc List.not_mem_nil
  | cons x l ih =>
    obtain ⟨hx, hn⟩ := List.nodup_cons.1 hn
    rcases List.mem_cons.1 hc with rfl | hc
    · rw [List.foldl_cons, reports_tally_ne _ hx, reportCopy_counts s hv, updTally_tally_self]
    · exact ih _ hn hc

/-! ### The target's step of a commit -/

theorem ringPressure_marked {s : State} {a : Assembly} (h : a.headerKind = .event ∧ a.flagPartial = true) :
    s.ringPressure a = s.accept 213 (some (BitVec.ofNat 16 a.target.val)) := if_pos h

theorem ringPressure_plain {s : State} {a : Assembly} (h : ¬ (a.headerKind = .event ∧ a.flagPartial = true)) :
    s.ringPressure a = s := if_neg h

/-- The produced index moves over the slots of the notification (R88 step 2). -/
theorem commitTarget_unposted (s : State) (a : Assembly) :
    Unposted (s.updTarget a.target fun x => { x with produced := x.produced + BitVec.ofNat 32 (1 + a.copies.length) })
      (s.commitTarget a) := by
  have hpressure (u : State) : Unposted u (u.ringPressure a) := by
    by_cases h : a.headerKind = .event ∧ a.flagPartial = true
    · rw [ringPressure_marked h]
      exact .accept u _ _
    · rw [ringPressure_plain h]
      exact .refl u
  exact ((Unposted.signalRules _ _).trans (hpressure _)).trans (.rejudgeSpace _ _)

theorem commitTarget_produced (s : State) (a : Assembly) (k : TargetId) :
    ((s.commitTarget a).target k).produced =
      (s.target k).produced + if k = a.target then BitVec.ofNat 32 (1 + a.copies.length) else 0 := by
  rw [(commitTarget_unposted s a).produced, updTarget_target]
  split
  case isTrue h => rw [h]
  case isFalse => simp

theorem OnlySpace.startHold (s : State) (b : BundleId) : OnlySpace s (s.startHold b) := .of_eq (by simp)

/-- A bundle's move at a commit touches space wanted at most. -/
theorem OnlySpace.moveBundle (s : State) (a : Assembly) : OnlySpace s (s.moveBundle a) := by
  have hrun (f : BundleRun → BundleRun) : OnlySpace s (s.updRun a.bundle f) := .of_eq (by simp)
  unfold State.moveBundle
  split
  · split
    · exact ((hrun _).trans (setState _ _ _)).trans (startHold _ _)
    · exact (hrun _).trans (setState _ _ _)
  · exact setState s _ _
  · unfold reminderCommit
    split
    · exact (hrun _).trans (startHold _ _)
    · exact refl s

/-- After the reports and the target's step, a commit posts nothing more (R88). -/
theorem recheckReported_unposted (s : State) (a : Assembly) : Unposted s (s.recheckReported a) := by
  unfold recheckReported
  split
  · exact .reassert s _
  · exact .refl s

/-- The tallies and the produced indices after a commit (R45, R88). -/
theorem committed_spec (s : State) (a : Assembly) :
    let v := (s.commitTarget a).moveBundle a
    let t := (v.recheckReported a).afterAssembly a v.drainedTargets
    (∀ n, (t.tally n).reported = (s.tally n).reported ∧ (t.tally n).lossMark = (s.tally n).lossMark) ∧
      ∀ k, (t.target k).produced =
        (s.target k).produced + if k = a.target then BitVec.ofNat 32 (1 + a.copies.length) else 0 := by
  intro v t
  have htarget := commitTarget_unposted s a
  have hrest : Unposted v t := (recheckReported_unposted v a).trans (.afterAssembly _ a _)
  have htally n : v.tally n = (s.commitTarget a).tally n := by simp [v]
  refine ⟨fun n => ⟨?_, ?_⟩, fun k => ?_⟩
  · rw [hrest.reported, htally, htarget.reported, updTarget_tally]
  · rw [hrest.lossMark, htally, htarget.lossMark, updTarget_tally]
  · rw [hrest.produced, (OnlySpace.moveBundle _ a).produced, commitTarget_produced]

theorem atHeader_header {s : State} {a : Assembly} (ha : s.assembly = some a) (hp : a.position = .header) : s.atHeader = true := by
  simp [atHeader, ha, hp]

theorem commitAssembly_eq {s : State} {a : Assembly} (ha : s.assembly = some a) :
    let reported := a.copies.foldl reportCopy (s.setAssembly none)
    s.commitAssembly = (((reported.commitTarget a).moveBundle a).recheckReported a).afterAssembly a
      ((reported.commitTarget a).moveBundle a).drainedTargets := by
  simp only [commitAssembly, ha]

theorem abortAssembly_eq {s : State} {a : Assembly} (ha : s.assembly = some a) :
    let returned := a.copies.foldl returnCopy (s.setAssembly none)
    s.abortAssembly = ((returned.abortBundle a).faultTarget a.target .ringWrite).afterAssembly a
      (returned.abortBundle a).drainedTargets := by
  simp only [abortAssembly, ha]

/-- Settles O35: `reports_reported`, `reports_lossMark` and `committed_spec`; the step of the target by the header's kind. -/
theorem commit : Obligations.Commit := by
  refine ⟨fun s id a h ha hp => ?commit, fun s a => ?target, fun s c => ⟨reportCopy_void s, reportCopy_counts s⟩⟩
  case commit =>
    intro reported
    have hexec : exec (.commit id) s =
        .next ((((reported.commitTarget a).moveBundle a).recheckReported a).afterAssembly a
          ((reported.commitTarget a).moveBundle a).drainedTargets) :=
      congrArg Host.Outcome.next ((if_pos (atHeader_header ha hp)).trans
        ((answer_awaited h rfl).trans (commitAssembly_eq (s := s.endRequest id) ha)))
    obtain ⟨htally, hproduced⟩ := committed_spec reported a
    refine ⟨_, hexec, rfl, by simp [reported], fun n => ?_, fun hn c hc hv => ?_, fun k => ?_, by simp [reported, fieldSide],
      by simp [reported]⟩
    · rw [(htally n).1, reports_reported]
      simp
    · rw [(htally c.source).2, reports_lossMark _ hn hc hv]
    · rw [hproduced]
      simp [reported]
  case target =>
    intro u pressed
    have hpressed : a.headerKind = .event ∧ a.flagPartial = true ↔ pressed := by
      rw [headerKind_event_iff, and_assoc]
    exact ⟨fun h => congrArg (State.rejudgeSpace a.target) (ringPressure_marked (hpressed.2 h)),
      fun h => congrArg (State.rejudgeSpace a.target) (ringPressure_plain (mt hpressed.1 h))⟩

/-! ### Returns -/

theorem returnCopy_void (s : State) {c : Copy} (h : c.state = .void) : s.returnCopy c = s := if_pos h

theorem returnCopy_fresh {s : State} {c : Copy} (h : c.state ≠ .void) (hr : s.record c.source = none) :
    s.returnCopy c =
      (s.setRecord c.source (some ⟨c.count, c.firstTime, c.lastTime, c.interval, c.detail⟩)).listGained (s.route c.source).bundle := by
  simp only [returnCopy, if_neg h, hr]

/-- A copy returns to the record that its source gained meanwhile (R44). -/
theorem returnCopy_merges {s : State} {c : Copy} {x : PendingRecord} (h : c.state ≠ .void) (hr : s.record c.source = some x) :
    let excess := c.count + x.count - 65535
    let merged := (s.setRecord c.source
      (some ⟨min (c.count + x.count) 65535, c.firstTime, x.lastTime, c.interval, x.detail⟩)).updTally c.source fun y =>
        { y with lost := y.lost + BitVec.ofNat 32 excess }
    s.returnCopy c = if c.source = 209 then merged else merged.acceptMany 209 (some (BitVec.ofNat 16 c.source.val)) excess := by
  simp only [returnCopy, if_neg h, hr]
  rfl

theorem updTally_id {s : State} {n : SourceId} {f : Tallies → Tallies} (h : f (s.tally n) = s.tally n) : s.updTally n f = s := by
  simp only [State.updTally, h]
  simp [tally]

theorem returnCopy_unposted (s : State) (c : Copy) : Unposted s (s.returnCopy c) := by
  by_cases h : c.state = .void
  case pos =>
    rw [returnCopy_void s h]
    exact .refl s
  case neg =>
    cases hr : s.record c.source with
    | none =>
      rw [returnCopy_fresh h hr]
      exact (Unposted.setRecord s _ _).trans (.listGained _ _)
    | some x =>
      rw [returnCopy_merges h hr]
      have hmerged := (Unposted.setRecord s c.source
        (some ⟨min (c.count + x.count) 65535, c.firstTime, x.lastTime, c.interval, x.detail⟩)).trans
          (.updTally _ c.source (fun y => { y with lost := y.lost + BitVec.ofNat 32 (c.count + x.count - 65535) })
            fun _ => ⟨rfl, rfl, rfl⟩)
      split
      · exact hmerged
      · exact hmerged.trans (.acceptMany _ _ _ _)

theorem abortBundle_event (s : State) {a : Assembly} (h : a.kind = .event) : s.abortBundle a = s.settleByList a.bundle := by
  simp only [abortBundle, h]

theorem abortBundle_reminder (s : State) {a : Assembly} (h : a.kind = .reminder) :
    s.abortBundle a =
      if (s.run a.bundle).state = .held ∧ (s.run a.bundle).token = a.token then
        s.updRun a.bundle fun x => { x with reminderDue := true }
      else s := by
  simp only [abortBundle, h, holdStands_iff]

theorem abortBundle_unposted (s : State) (a : Assembly) : Unposted s (s.abortBundle a) := by
  cases h : a.kind with
  | event =>
    rw [abortBundle_event s h]
    exact .settleByList s _
  | reminder =>
    rw [abortBundle_reminder s h]
    split
    · exact .updRun s _ _ fun _ => rfl
    · exact .refl s

/-- Settles O37: `returnCopy` by its cases, `abortBundle` by the kind, and the whole abort by `Unposted`. -/
theorem assemblyAbort : Obligations.AssemblyAbort := by
  refine ⟨fun s id a h ha => ?whole, fun s c => returnCopy_void s, fun s c hv hr => ?fresh, fun s c x hv hr hle => ?merges,
    fun s c x hv hr hlt => ?exceeds, fun s a hk => ?event, fun s a hk => abortBundle_reminder s hk⟩
  case whole =>
    intro returned
    have hexec : exec (.assemblyAbort id) s = .next (((returned.abortBundle a).faultTarget a.target .ringWrite).afterAssembly a
        (returned.abortBundle a).drainedTargets) :=
      congrArg Host.Outcome.next ((answer_awaited h rfl).trans (abortAssembly_eq (s := s.endRequest id) ha))
    have hended : Unposted s ((s.endRequest id).setAssembly none) := .of_eq (by simp) (by simp) (by simp)
    have hreturned : Unposted s returned := hended.trans (.foldl returnCopy_unposted _ _)
    have hfaulted : Unposted s ((returned.abortBundle a).faultTarget a.target .ringWrite) :=
      (hreturned.trans (abortBundle_unposted _ a)).trans (.faultTarget _ _ _)
    have hall := hfaulted.trans (.afterAssembly _ a (returned.abortBundle a).drainedTargets)
    exact ⟨_, hexec, rfl, by simp [returned], fun n => ⟨hall.reported n, hall.lossMark n, hall.cleared n⟩, hall.produced, hall.token,
      by simp [returned, fieldSide], by simp [returned]⟩
  case fresh =>
    rw [returnCopy_fresh hv hr]
    refine ⟨by simp, fun m hm => by simp [setRecord_record_ne _ _ hm], by simp, by simp, ?_⟩
    exact (OnlyStates.of_eq (by simp) (by simp)).trans (.listGained _ _)
  case merges =>
    have hexcess : c.count + x.count - 65535 = 0 := by omega
    have hmin : min (c.count + x.count) 65535 = c.count + x.count := Nat.min_eq_left hle
    rw [returnCopy_merges hv hr, hexcess, hmin]
    simp only [State.acceptMany, ite_self]
    exact updTally_id (by simp)
  case exceeds =>
    have hmin : min (c.count + x.count) 65535 = 65535 := Nat.min_eq_right hlt.le
    rw [returnCopy_merges hv hr, hmin]
  case event =>
    rw [abortBundle_event s hk, settleByList_run_self]

end Sys2Proof.Machine

/-! The statement on BUNDLE_FLUSH (R71). -/
namespace Sys2Proof.Machine

open State

/-! ### Chains of discards -/

/-- A tally of which only the cleared count has moved on. -/
def Tallies.clearing (y : Tallies) (k : Nat) : Tallies := { y with cleared := y.cleared + BitVec.ofNat 32 k }

theorem clearing_zero (y : Tallies) : y.clearing 0 = y := by simp [Tallies.clearing]

theorem clearing_clearing (y : Tallies) (j k : Nat) : (y.clearing j).clearing k = y.clearing (j + k) := by
  simp [Tallies.clearing, BitVec.ofNat_add, BitVec.add_assoc]

theorem clearRecord_clearing (s : State) (n m : SourceId) :
    (s.clearRecord n).tally m = (s.tally m).clearing (if m = n then s.pendingCount m else 0) := by
  rw [clearRecord_tally]
  split
  case isTrue h => rw [h]; rfl
  case isFalse => rw [clearing_zero]

theorem clearRecord_pendingCount (s : State) (n m : SourceId) :
    (s.clearRecord n).pendingCount m = if m = n then 0 else s.pendingCount m := by
  rw [pendingCount_eq, clearRecord_record]
  split
  · rfl
  · rw [pendingCount_eq]

/-- A chain of discards counts each record once (R28). -/
theorem clears_tally (l : List SourceId) (s : State) (m : SourceId) :
    (l.foldl (fun u n => u.clearRecord n) s).tally m = (s.tally m).clearing (if m ∈ l then s.pendingCount m else 0) := by
  induction l generalizing s with
  | nil => simp [clearing_zero]
  | cons n l ih =>
    rw [List.foldl_cons, ih, clearRecord_clearing, clearing_clearing, clearRecord_pendingCount]
    congr 1
    by_cases hm : m = n <;> simp [hm]

theorem voidCopy_clearing (s : State) (n m : SourceId) :
    (s.voidCopy n).tally m = (s.tally m).clearing (if m = n then voidableIn m s.copies else 0) := by
  rw [voidCopy_tally]
  split
  case isTrue h => rw [h]; rfl
  case isFalse => rw [clearing_zero]

theorem voidableIn_voidIn (n m : SourceId) (cs : List Copy) :
    voidableIn m (voidIn n cs) = if m = n then 0 else voidableIn m cs := by
  induction cs with
  | nil => simp [voidIn, voidableIn]
  | cons c cs ih =>
    unfold voidIn at ih ⊢
    rw [List.map_cons, voidableIn, ih, voidableIn]
    by_cases hm : m = n <;> by_cases hc : c.source = n ∧ c.state = .unwritten
    · simp [hm, hc]
    · simp [hm, hc]
    · simp [hm, hc, Ne.symm hm]
    · simp [hm, hc]

/-- A chain of voids counts each copy once (R29). -/
theorem voids_tally (l : List Copy) (s : State) (m : SourceId) :
    (l.foldl (fun u c => u.voidCopy c.source) s).tally m =
      (s.tally m).clearing (if m ∈ l.map Copy.source then voidableIn m s.copies else 0) := by
  induction l generalizing s with
  | nil => simp [clearing_zero]
  | cons c l ih =>
    rw [List.foldl_cons, ih, voidCopy_clearing, clearing_clearing, voidCopy_copies, voidableIn_voidIn]
    congr 1
    by_cases hm : m = c.source <;> simp [hm]

theorem voids_copies (l : List Copy) (s : State) :
    (l.foldl (fun u c => u.voidCopy c.source) s).copies =
      s.copies.map fun c => if c.source ∈ l.map Copy.source ∧ c.state = .unwritten then { c with state := .void } else c := by
  induction l generalizing s with
  | nil => simp
  | cons x l ih =>
    rw [List.foldl_cons, ih, voidCopy_copies, voidIn, List.map_map]
    refine List.map_congr_left fun c _ => ?_
    by_cases hx : c.source = x.source <;> by_cases hc : c.state = .unwritten <;> simp [hx, hc]

theorem voidableIn_absent {n : SourceId} {cs : List Copy} (h : n ∉ cs.map Copy.source) : voidableIn n cs = 0 := by
  induction cs with
  | nil => rfl
  | cons c cs ih =>
    obtain ⟨hc, hcs⟩ := not_or.1 (List.mem_cons.not.1 h)
    simp [voidableIn, ih hcs, Ne.symm hc]

/-! ### A flush -/

/-- The state of a flush before the copies are reached. -/
def State.flushedList (s : State) (b : BundleId) : State :=
  ((s.pendingList b).foldl (fun u n => u.clearRecord n) s).listLost (some b)

theorem flush_eq (s : State) (b : BundleId) :
    s.flush b = (s.flushedCopies b).foldl (fun u c => u.voidCopy c.source) (s.flushedList b) := rfl

theorem flush_record (s : State) (b : BundleId) (n : SourceId) :
    (s.flush b).record n = if n ∈ s.pendingList b then none else s.record n := by
  simp [flush_eq, flushedList, record_foldl_clear]

/-- Without its records a list is empty (R71). -/
theorem clears_pendingList (s : State) (b : BundleId) :
    ((s.pendingList b).foldl (fun u n => u.clearRecord n) s).pendingList b = [] := by
  rw [pendingList_eq_nil]
  intro n hn hb
  rw [record_foldl_clear] at hn
  have hroute : ((s.pendingList b).foldl (fun u n => u.clearRecord n) s).route n = s.route n := by simp
  split at hn
  case isTrue => simp at hn
  case isFalse hnot => exact hnot ((mem_pendingList s b n).2 ⟨hn, hroute ▸ hb⟩)

theorem flush_pendingList (s : State) (b : BundleId) : (s.flush b).pendingList b = [] := by
  rw [← clears_pendingList s b]
  exact congrFun (pendingList_of_eq (by simp [flush_eq, flushedList]) (by simp [flush_eq, flushedList])) b

theorem flushedList_copies (s : State) (b : BundleId) : (s.flushedList b).copies = s.copies := by
  simp [copies, flushedList]

theorem flushedCopies_some {s : State} {b : BundleId} (h : s.flushedCopies b ≠ []) : s.flushedCopies b = s.copies := by
  unfold flushedCopies at h ⊢
  unfold copies
  cases ha : s.assembly with
  | none => simp
  | some a =>
    rw [ha] at h
    split at h <;> simp_all

/-- What the copies of a flush add to cleared (R71). -/
theorem flushedCopies_voidable (s : State) (b : BundleId) (n : SourceId) :
    (if n ∈ (s.flushedCopies b).map Copy.source then voidableIn n s.copies else 0) = voidableIn n (s.flushedCopies b) := by
  split
  case isTrue h =>
    have hne : s.flushedCopies b ≠ [] := by
      intro hnil
      simp [hnil] at h
    rw [flushedCopies_some hne]
  case isFalse h => rw [voidableIn_absent h]

theorem flush_tally (s : State) (b : BundleId) (n : SourceId) :
    (s.flush b).tally n =
      ((s.tally n).clearing (if n ∈ s.pendingList b then s.pendingCount n else 0)).clearing
        (voidableIn n (s.flushedCopies b)) := by
  have hlist : (s.flushedList b).tally n = ((s.pendingList b).foldl (fun u n => u.clearRecord n) s).tally n := by simp [flushedList]
  rw [flush_eq, voids_tally, flushedList_copies, flushedCopies_voidable, hlist, clears_tally]

theorem flush_copies {s : State} {b : BundleId} (h : s.flushedCopies b ≠ []) :
    (s.flush b).copies = s.copies.map fun c => if c.state = .unwritten then { c with state := .void } else c := by
  rw [flush_eq, voids_copies, flushedList_copies, flushedCopies_some h]
  refine List.map_congr_left fun c hc => ?_
  have hmem : c.source ∈ s.copies.map Copy.source := List.mem_map_of_mem hc
  simp [hmem]

theorem flush_run (s : State) (b k : BundleId) :
    (s.flush b).run k = if k = b ∧ (s.run b).state = .ready then { s.run k with state := .idle } else s.run k := by
  have hlist := clears_pendingList s b
  have hruns m : ((s.pendingList b).foldl (fun u n => u.clearRecord n) s).run m = s.run m := by simp
  have hflushed : (s.flush b).run k = (s.flushedList b).run k := by simp [flush_eq]
  rw [hflushed]
  unfold flushedList
  generalize (s.pendingList b).foldl (fun u n => u.clearRecord n) s = u at hlist hruns
  by_cases hready : (s.run b).state = .ready
  case pos =>
    simp only [listLost, hruns, hready, hlist, and_self, if_true, sweepDeferred_frame]
    by_cases hk : k = b
    · subst hk
      rw [setState_run_self, hruns]
      simp
    · rw [setState_run_ne _ _ hk, hruns]
      simp [hk]
  case neg => simp [listLost, hruns, hready]

theorem Appends.flush (s : State) (b : BundleId) : Appends s (s.flush b) := by
  have hclears : Appends s ((s.pendingList b).foldl (fun u n => u.clearRecord n) s) := .of_eq (by simp)
  exact (hclears.trans (.listLost _ (some b))).trans (.of_eq (by simp [flush_eq, flushedList]))

/-- A flush reaches the assembly only where it has copies of the bundle (R71). -/
theorem flush_assembly {s : State} {b : BundleId} (h : s.flushedCopies b = []) : (s.flush b).assembly = s.assembly := by
  simp [flush_eq, flushedList, h]

/-- Settles O27: the fields of `flush`, with the completion behind those of the DRAINs that it ends. -/
theorem bundleFlush : Obligations.BundleFlush := by
  intro s r bundle h
  have hexec : exec (.bundleFlush r bundle) s = .next ((s.taken r).bundleFlushCommand (cmdOf r 0x22) bundle) :=
    congrArg Host.Outcome.next (command_taken h)
  refine ⟨fun hbad => ?bad, fun b hb => ?named⟩
  case bad => simp only [hexec, bundleFlushCommand, bundleArg_none hbad]
  case named =>
    intro reached voided cleared
    have hvalid : exec (.bundleFlush r bundle) s = .next (((s.taken r).flush b).complete (cmdOf r 0x22) .ok
        (resultFlush (s.pendingList b).length voided.length cleared)) := by
      simp only [hexec, bundleFlushCommand, bundleArg_of hb]
      rfl
    have hrun k := flush_run (s.taken r) b k
    generalize ht : ((s.taken r).flush b).complete (cmdOf r 0x22) .ok
      (resultFlush (s.pendingList b).length voided.length cleared) = t at hvalid
    have hstate k : (t.run k).state = if k = b ∧ (s.run b).state = .ready then .idle else (s.run k).state := by
      have htrun : t.run k = ((s.taken r).flush b).run k := by simp [← ht, complete_ok]
      rw [htrun, hrun]
      simp only [taken_kept]
      split <;> rfl
    refine ⟨t, hvalid, ?list, fun n => ?record, fun n => ?tally, fun hnone => ?assembly, fun hsome => ?copies, ?states,
      fun k hk => by rw [hstate]; simp [hk], fun hne => by rw [hstate]; simp [hne], fun hready => by rw [hstate]; simp [hready],
      by simp [← ht, complete_ok, fieldSide], by simp [← ht, complete_ok], ?last⟩
    case list =>
      rw [← flush_pendingList (s.taken r) b]
      exact congrFun (pendingList_of_eq (by simp [← ht, complete_ok]) (by simp [← ht, complete_ok])) b
    case record =>
      have hrecord : t.record n = ((s.taken r).flush b).record n := by simp [← ht, complete_ok]
      rw [hrecord, flush_record]
      rfl
    case tally =>
      have htally : t.tally n = ((s.taken r).flush b).tally n := by simp [← ht, complete_ok]
      rw [htally, flush_tally]
      rfl
    case assembly =>
      have hassembly := flush_assembly (s := s.taken r) hnone
      simpa [← ht, complete_ok] using hassembly
    case copies =>
      have hcopies := flush_copies (s := s.taken r) hsome
      simpa [← ht, complete_ok, copies] using hcopies
    case states =>
      refine ⟨by simp [← ht, complete_ok], fun k => ?_⟩
      have htrun : t.run k = ((s.taken r).flush b).run k := by simp [← ht, complete_ok]
      rw [htrun, hrun]
      simp only [taken_kept]
      split <;> rfl
    case last =>
      rw [← ht]
      exact (Appends.flush (s.taken r) b).last _ _ _

end Sys2Proof.Machine

/-! The steps of a valid ROUTE_SET (R10 to R12, R25 to R29). -/
namespace Sys2Proof.Machine

open State

/-! ### The entry and the line -/

/-- The filter that is written ends a running qualification (R10). -/
def FilterEnds (x : Line) (old e : RouteEntry) : Prop := x.qualification ≠ .stable ∧ e.filter ≠ old.filter ∧ e.filter = 0

/-- The entry that is written asks for a level check, and the line's level is active (R12). -/
def LevelChecks (x : Line) (old e : RouteEntry) : Prop :=
  e.enabled = true ∧ e.trigger.activeLevel = some x.qualified ∧ (old.enabled = false ∨ old.trigger ≠ e.trigger)

/-- A line after the write of its source's filter (R10). -/
def Line.refiltered (x : Line) (old e : RouteEntry) : Line :=
  if x.qualification = .stable ∨ e.filter = old.filter then x
  else if e.filter = 0 then ⟨x.sampled, x.sampled, .stable⟩
  else { x with qualification := .qualifying e.filter.toNat }

theorem refiltered_same {x : Line} {old e : RouteEntry} (h : x.qualification = .stable ∨ e.filter = old.filter) :
    x.refiltered old e = x := if_pos h

theorem refiltered_restarts {x : Line} {old e : RouteEntry} (hq : x.qualification ≠ .stable) (hf : e.filter ≠ old.filter)
    (hz : e.filter ≠ 0) : x.refiltered old e = { x with qualification := .qualifying e.filter.toNat } :=
  (if_neg (not_or.2 ⟨hq, hf⟩)).trans (if_neg hz)

theorem refiltered_ends {x : Line} {old e : RouteEntry} (h : FilterEnds x old e) :
    x.refiltered old e = ⟨x.sampled, x.sampled, .stable⟩ :=
  (if_neg (not_or.2 ⟨h.1, h.2.1⟩)).trans (if_pos h.2.2)

/-- Unless a qualification is ended the qualified level stays (R10). -/
theorem refiltered_qualified {x : Line} {old e : RouteEntry} (h : ¬ FilterEnds x old e) :
    (x.refiltered old e).qualified = x.qualified := by
  unfold Line.refiltered
  split
  · rfl
  · next hne =>
    obtain ⟨hq, hf⟩ := not_or.1 hne
    rw [if_neg fun hz => h ⟨hq, hf, hz⟩]

theorem setLine_id (s : State) (l : LineId) : s.setLine l (s.line l) = s := by simp [setLine, line]

theorem setRoute_id (s : State) (n : SourceId) : s.setRoute n (s.route n) = s := by simp [setRoute, route]

theorem sourceOfLine_of {n : SourceId} {l : LineId} (h : lineOf n = some l) : sourceOfLine l = n := by
  unfold lineOf at h
  split at h
  · exact Option.some.inj h ▸ rfl
  · exact nomatch h

theorem changeFilter_noLine {u : State} {n : SourceId} (old e : RouteEntry) (h : lineOf n = none) : u.changeFilter n old e = u := by
  simp only [changeFilter, h]

theorem changeFilter_kept {u : State} {n : SourceId} {l : LineId} {old e : RouteEntry} (hl : lineOf n = some l)
    (h : ¬ FilterEnds (u.line l) old e) : u.changeFilter n old e = u.setLine l ((u.line l).refiltered old e) := by
  simp only [changeFilter, hl]
  by_cases hf : old.filter = e.filter
  case pos => rw [if_pos hf, refiltered_same (.inr hf.symm), setLine_id]
  case neg =>
    rw [if_neg hf]
    cases hq : (u.line l).qualification with
    | stable => rw [refiltered_same (.inl hq), setLine_id]
    | qualifying left =>
      have hne : (u.line l).qualification ≠ .stable := by simp [hq]
      have hz : e.filter ≠ 0 := fun hz => h ⟨hne, Ne.symm hf, hz⟩
      simp only [if_neg hz, refiltered_restarts hne (Ne.symm hf) hz]

theorem changeFilter_ends {u : State} {n : SourceId} {l : LineId} {old e : RouteEntry} (hl : lineOf n = some l)
    (h : FilterEnds (u.line l) old e) : u.changeFilter n old e = u.qualify l := by
  obtain ⟨hq, hf, hz⟩ := h
  simp only [changeFilter, hl, if_neg (Ne.symm hf)]
  cases hq' : (u.line l).qualification with
  | stable => exact absurd hq' hq
  | qualifying left => exact if_pos hz

theorem endsQualification_iff {s : State} {n : SourceId} {l : LineId} (e : RouteEntry) (hl : lineOf n = some l) :
    s.endsQualification n e = true ↔ FilterEnds (s.line l) (s.route n) e := by
  rw [FilterEnds, ne_comm (a := e.filter)]
  simp [endsQualification, hl, and_assoc]

theorem levelCheckDue_iff {n : SourceId} {l : LineId} (old e : RouteEntry) (hl : lineOf n = some l) :
    levelCheckDue n old e = true ↔
      e.enabled = true ∧ e.trigger.activeLevel.isSome = true ∧ (old.enabled = false ∨ old.trigger ≠ e.trigger) := by
  simp [levelCheckDue, hl, and_assoc]

theorem levelCheckDue_noLine {n : SourceId} (old e : RouteEntry) (h : lineOf n = none) : levelCheckDue n old e = false := by
  simp [levelCheckDue, h]

/-! ### The write and the occurrence after it -/

/-- The state after the entry, the place of the record and the filter change, before an event is accepted (R25). -/
def State.rewritten (s : State) (n : SourceId) (e : RouteEntry) : State :=
  match lineOf n with
  | some l => (s.writeRoute n e).setLine l ((s.line l).refiltered (s.route n) e)
  | none => s.writeRoute n e

theorem rewritten_line {s : State} {n : SourceId} {l : LineId} (e : RouteEntry) (h : lineOf n = some l) :
    s.rewritten n e = (s.writeRoute n e).setLine l ((s.line l).refiltered (s.route n) e) := by
  simp only [rewritten, h]

theorem rewritten_noLine {s : State} {n : SourceId} (e : RouteEntry) (h : lineOf n = none) : s.rewritten n e = s.writeRoute n e := by
  simp only [rewritten, h]

/-- What the filter change leaves of the write: all but the line. -/
theorem rewritten_cases (s : State) (n : SourceId) (e : RouteEntry) {P : State → Prop} (plain : P (s.writeRoute n e))
    (lined : ∀ l, lineOf n = some l → ∀ x, P ((s.writeRoute n e).setLine l x)) : P (s.rewritten n e) := by
  cases h : lineOf n with
  | none => rw [rewritten_noLine e h]; exact plain
  | some l => rw [rewritten_line e h]; exact lined l h _

/-- A source that is no field line has no check of its own (R12). -/
theorem reroute_noLine {s : State} {n : SourceId} (e : RouteEntry) (h : lineOf n = none) : s.reroute n e = s.rewritten n e := by
  simp [reroute, levelCheckDue_noLine _ _ h, changeFilter_noLine _ _ h, rewritten_noLine _ h]

/-- A qualification that is ended is judged by the new entry (R10, R11). -/
theorem reroute_ends {s : State} {n : SourceId} {l : LineId} {e : RouteEntry} (hl : lineOf n = some l)
    (h : FilterEnds (s.line l) (s.route n) e) :
    s.reroute n e = if e.trigger.counts (s.line l).sampled = true then
      (s.rewritten n e).accept n (some (s.line l).sampled.detail) else s.rewritten n e := by
  have hline : (s.writeRoute n e).line l = s.line l := by simp
  have hends := (endsQualification_iff e hl).2 h
  have hroute : (s.writeRoute n e).route n = e := by rw [writeRoute_route, if_pos rfl]
  simp only [reroute, hends, Bool.not_true, Bool.and_false, Bool.false_eq_true, if_false]
  rw [changeFilter_ends hl (by rwa [hline]), rewritten_line e hl, refiltered_ends h]
  simp only [qualify, sourceOfLine_of hl, hroute, hline]

/-- Otherwise only the level check at enabling can accept an event (R12). -/
theorem reroute_kept {s : State} {n : SourceId} {l : LineId} {e : RouteEntry} (hl : lineOf n = some l)
    (h : ¬ FilterEnds (s.line l) (s.route n) e) :
    (LevelChecks (s.line l) (s.route n) e →
      s.reroute n e = (s.rewritten n e).accept n (some (s.line l).qualified.detail)) ∧
    (¬ LevelChecks (s.line l) (s.route n) e → s.reroute n e = s.rewritten n e) := by
  have hline : (s.writeRoute n e).line l = s.line l := by simp
  have hends : s.endsQualification n e = false := by rwa [← Bool.not_eq_true, endsQualification_iff e hl]
  have hwritten : (s.writeRoute n e).changeFilter n (s.route n) e = s.rewritten n e := by
    rw [changeFilter_kept hl (by rwa [hline]), rewritten_line e hl, hline]
  have hroute : (s.rewritten n e).route n = e := by
    rw [rewritten_line e hl, setLine_route, writeRoute_route, if_pos rfl]
  have hqualified : ((s.rewritten n e).line l).qualified = (s.line l).qualified := by
    rw [rewritten_line e hl, setLine_line_self, refiltered_qualified h]
  have hactive : (s.rewritten n e).levelActive n = true ↔
      e.enabled = true ∧ e.trigger.activeLevel = some (s.line l).qualified := by
    rw [levelActive_iff hl, hroute, hqualified]
  have hreroute : s.reroute n e =
      if levelCheckDue n (s.route n) e = true then (s.rewritten n e).levelCheck n else s.rewritten n e := by
    simp only [reroute, hends, hwritten, Bool.not_false, Bool.and_true]
  rw [hreroute]
  refine ⟨fun hchecks => ?checks, fun hnot => ?noCheck⟩
  case checks =>
    obtain ⟨he, ha, hnew⟩ := hchecks
    have hdue := (levelCheckDue_iff (s.route n) e hl).2 ⟨he, by simp [ha], hnew⟩
    rw [if_pos hdue, levelCheck, if_pos (hactive.2 ⟨he, ha⟩)]
    simp only [levelDetail, hl, Option.map_some, hqualified]
  case noCheck =>
    split
    case isFalse => rfl
    case isTrue hdue =>
      obtain ⟨-, -, hnew⟩ := (levelCheckDue_iff (s.route n) e hl).1 hdue
      exact if_neg fun ha => hnot ⟨(hactive.1 ha).1, (hactive.1 ha).2, hnew⟩

end Sys2Proof.Machine

/-! The statement on a valid ROUTE_SET (R10 to R12, R25 to R29, R32). -/
namespace Sys2Proof.Machine

open State

/-! ### The state before an event is accepted -/

theorem writeRoute_routes (s : State) (n : SourceId) (e : RouteEntry) : (s.writeRoute n e).routes = (s.setRoute n e).routes := by
  unfold writeRoute
  dsimp only
  split <;> simp

theorem rewritten_kept (s : State) (n : SourceId) (e : RouteEntry) :
    let w := s.rewritten n e
    w.timebase = s.timebase ∧ w.intervals = s.intervals ∧ w.records = s.records ∧ w.tallies = s.tallies :=
  rewritten_cases s n e (P := fun w => w.timebase = s.timebase ∧ w.intervals = s.intervals ∧ w.records = s.records ∧
    w.tallies = s.tallies) (by simp) fun l _ x => by simp

theorem rewritten_route (s : State) (n m : SourceId) (e : RouteEntry) :
    (s.rewritten n e).route m = if m = n then e else s.route m :=
  rewritten_cases s n e (P := fun w => w.route m = if m = n then e else s.route m) (writeRoute_route s n m e)
    fun _ _ _ => writeRoute_route s n m e

/-- The accounts see of the write only the entry. -/
theorem rewritten_counts (s : State) (n : SourceId) (e : RouteEntry) : SameCounts (s.setRoute n e) (s.rewritten n e) :=
  rewritten_cases s n e (P := SameCounts (s.setRoute n e)) (.of_fields (by simp [writeRoute_routes]))
    fun _ _ _ => .of_fields (by simp [writeRoute_routes])

theorem OnlyStates.rewritten (s : State) (n : SourceId) (e : RouteEntry) : OnlyStates s (s.rewritten n e) := by
  have hwrite : OnlyStates s (s.writeRoute n e) := by
    have hset : OnlyStates s (s.setRoute n e) := .of_eq rfl rfl
    unfold writeRoute
    dsimp only
    split
    · exact (hset.trans (.listGained _ _)).trans (.listLost _ _)
    · exact hset
  exact rewritten_cases s n e hwrite fun l _ x => hwrite.trans (.of_eq rfl rfl)

theorem Appends.rewritten (s : State) (n : SourceId) (e : RouteEntry) : Appends s (s.rewritten n e) := by
  have hwrite : Appends s (s.writeRoute n e) := by
    unfold writeRoute
    dsimp only
    split
    · exact (Appends.of_eq (t := (s.setRoute n e).listGained e.bundle) (by simp)).trans (.listLost _ _)
    · exact .of_eq rfl
  exact rewritten_cases s n e hwrite fun l _ x => hwrite.trans (.of_eq rfl)

/-- With the filter as it was no line changes (R10). -/
theorem rewritten_sameFilter {s : State} {n : SourceId} {e : RouteEntry} (h : e.filter = (s.route n).filter) :
    s.rewritten n e = s.writeRoute n e := by
  cases hl : lineOf n with
  | none => exact rewritten_noLine e hl
  | some l =>
    have hline : s.line l = (s.writeRoute n e).line l := by simp
    rw [rewritten_line e hl, refiltered_same (.inr h), hline, setLine_id]

/-! ### The event that is accepted -/

/-- ROUTE_SET accepts one event at most, of an enabled source, with a level as its detail (R11, R12). -/
theorem reroute_shape (s : State) (n : SourceId) (e : RouteEntry) :
    s.reroute n e = s.rewritten n e ∨
      e.enabled = true ∧ ∃ level : Level, s.reroute n e = (s.rewritten n e).accept n (some level.detail) := by
  cases hl : lineOf n with
  | none => exact .inl (reroute_noLine e hl)
  | some l =>
    by_cases h : FilterEnds (s.line l) (s.route n) e
    case neg =>
      obtain ⟨hchecks, hnot⟩ := reroute_kept hl h
      by_cases hc : LevelChecks (s.line l) (s.route n) e
      · exact .inr ⟨hc.1, _, hchecks hc⟩
      · exact .inl (hnot hc)
    case pos =>
      rw [reroute_ends hl h]
      split
      case isFalse => exact .inl rfl
      case isTrue =>
        cases he : e.enabled with
        | true => exact .inr ⟨rfl, _, rfl⟩
        | false => exact .inl (accept_off _ (by rw [rewritten_route, if_pos rfl, he]))

/-- An entry whose filter, enabled and trigger are as they were accepts nothing (R10, R12). -/
theorem reroute_same {s : State} {n : SourceId} {e : RouteEntry} (hf : e.filter = (s.route n).filter)
    (he : e.enabled = (s.route n).enabled) (ht : e.trigger = (s.route n).trigger) : s.reroute n e = s.writeRoute n e := by
  rw [← rewritten_sameFilter hf]
  cases hl : lineOf n with
  | none => exact reroute_noLine e hl
  | some l =>
    refine (reroute_kept hl fun h => h.2.1 hf).2 ?_
    rintro ⟨hon, -, hold | hold⟩
    · rw [he, hold] at hon
      exact absurd hon (by simp)
    · exact hold ht.symm

theorem reroute_id (s : State) (n : SourceId) : s.reroute n (s.route n) = s := by
  rw [reroute_same rfl rfl rfl]
  simp [writeRoute, setRoute_id]

theorem OnlyStates.reroute (s : State) (n : SourceId) (e : RouteEntry) : OnlyStates s (s.reroute n e) := by
  rcases reroute_shape s n e with h | ⟨-, level, h⟩ <;> rw [h]
  · exact .rewritten s n e
  · exact (OnlyStates.rewritten s n e).trans (.accept _ _ _)

theorem Appends.reroute (s : State) (n : SourceId) (e : RouteEntry) : Appends s (s.reroute n e) := by
  rcases reroute_shape s n e with h | ⟨-, level, h⟩ <;> rw [h]
  · exact .rewritten s n e
  · exact (Appends.rewritten s n e).trans (.of_eq (by simp))

theorem reroute_lines (s : State) (n : SourceId) (e : RouteEntry) : (s.reroute n e).lines = (s.rewritten n e).lines := by
  rcases reroute_shape s n e with h | ⟨-, level, h⟩ <;> simp [h]

theorem reroute_line_ne (s : State) {n : SourceId} (e : RouteEntry) {l : LineId} (h : lineOf n ≠ some l) :
    (s.reroute n e).line l = s.line l := by
  have hrewritten : (s.rewritten n e).line l = s.line l :=
    rewritten_cases s n e (P := fun w => w.line l = s.line l) (by simp) fun m hm x => by
      have hne : l ≠ m := fun e => h (e ▸ hm)
      rw [setLine_line_ne _ _ hne]
      simp
  rw [← hrewritten]
  simp [line, reroute_lines]

theorem reroute_line {s : State} {n : SourceId} (e : RouteEntry) {l : LineId} (h : lineOf n = some l) :
    (s.reroute n e).line l = (s.line l).refiltered (s.route n) e := by
  have hrewritten : (s.rewritten n e).line l = (s.line l).refiltered (s.route n) e := by
    rw [rewritten_line e h, setLine_line_self]
  rw [← hrewritten]
  simp [line, reroute_lines]

/-- Nothing is reported or cleared. -/
theorem reroute_tally_fields (s : State) (n m : SourceId) (e : RouteEntry) :
    ((s.reroute n e).tally m).cleared = (s.tally m).cleared ∧ ((s.reroute n e).tally m).reported = (s.tally m).reported := by
  have htally : (s.rewritten n e).tally m = s.tally m := by simp [tally, rewritten_kept]
  rw [← htally]
  rcases reroute_shape s n e with h | ⟨-, level, h⟩ <;> rw [h]
  · exact ⟨rfl, rfl⟩
  · exact ⟨(Unposted.accept _ _ _).cleared m, (Unposted.accept _ _ _).reported m⟩

/-- The books of a source in the rewritten state. -/
theorem rewritten_books (s : State) (n m : SourceId) (e : RouteEntry) :
    (s.rewritten n e).record m = s.record m ∧ (s.rewritten n e).tally m = s.tally m ∧
      (s.rewritten n e).interval m = s.interval m := by
  simp [record, tally, interval, rewritten_kept]

theorem reroute_ne (s : State) {n m : SourceId} (e : RouteEntry) (h : m ≠ n) (h' : m ≠ 209) :
    (s.reroute n e).record m = s.record m ∧ (s.reroute n e).tally m = s.tally m ∧ (s.reroute n e).interval m = s.interval m := by
  obtain ⟨hrecord, htally, hinterval⟩ := rewritten_books s n m e
  rcases reroute_shape s n e with hr | ⟨-, level, hr⟩ <;> rw [hr]
  · exact ⟨hrecord, htally, hinterval⟩
  · obtain ⟨atally, arecord⟩ := accept_ne (s.rewritten n e) (some level.detail) h h'
    exact ⟨arecord.trans hrecord, atally.trans htally, (accept_interval_ne _ _ h h').trans hinterval⟩

/-- Without a record that stands, the one event makes one, and no other source is reached (R12, R39). -/
theorem reroute_fresh {s : State} {n : SourceId} (e : RouteEntry) (h : s.record n = none) :
    ((s.reroute n e).record n = none ∧ (s.reroute n e).tally n = s.tally n ∨
      (∃ level : Level, (s.reroute n e).record n = some ⟨1, s.timebase, s.timebase, s.interval n, some level.detail⟩) ∧
        (s.reroute n e).tally n = { s.tally n with accepted := (s.tally n).accepted + 1 }) ∧
    ∀ m, m ≠ n → (s.reroute n e).record m = s.record m ∧ (s.reroute n e).tally m = s.tally m ∧
      (s.reroute n e).interval m = s.interval m := by
  have hbooks m := rewritten_books s n m e
  have htime := (rewritten_kept s n e).1
  obtain ⟨hrecord, htally, hinterval⟩ := hbooks n
  rcases reroute_shape s n e with hr | ⟨he, level, hr⟩ <;> rw [hr]
  · exact ⟨.inl ⟨hrecord.trans h, htally⟩, fun m _ => hbooks m⟩
  · have hon : ((s.rewritten n e).route n).enabled = true := by rw [rewritten_route, if_pos rfl, he]
    obtain ⟨crecord, -, ctally, -, -, -, cothers, -⟩ :=
      arrivalCreates (s.rewritten n e) n (some level.detail) hon (hrecord.trans h)
    rw [htime, hinterval] at crecord
    rw [htally] at ctally
    refine ⟨.inr ⟨⟨level, crecord⟩, ctally⟩, fun m hm => ?_⟩
    obtain ⟨mrecord, mtally, minterval⟩ := hbooks m
    obtain ⟨orecord, otally, ointerval⟩ := cothers m hm
    exact ⟨orecord.trans mrecord, otally.trans mtally, ointerval.trans minterval⟩

/-! ### With and without DISCARD -/

/-- A source's events are discarded where DISCARD is set (R25, R28, R29). -/
def State.discardIf (s : State) (discard : Bool) (n : SourceId) : State := if discard then s.discardSource n else s

section Discard

variable (s : State) (discard : Bool) (n : SourceId)

theorem discardIf_cases {P : State → Prop} (yes : P (s.discardSource n)) (no : P s) : P (s.discardIf discard n) := by
  cases discard
  · exact no
  · exact yes

theorem discardIf_kept :
    let u := s.discardIf discard n
    u.timebase = s.timebase ∧ u.lines = s.lines ∧ u.routes = s.routes ∧ u.intervals = s.intervals ∧
      u.roundRobin = s.roundRobin :=
  discardIf_cases s discard n (P := fun u => u.timebase = s.timebase ∧ u.lines = s.lines ∧ u.routes = s.routes ∧
    u.intervals = s.intervals ∧ u.roundRobin = s.roundRobin) (by simp) (by simp)

theorem discardIf_record (m : SourceId) :
    (s.discardIf discard n).record m = if discard = true ∧ m = n then none else s.record m := by
  cases discard
  · simp [discardIf]
  · simp [discardIf, discardSource_record]

theorem discardIf_tally (m : SourceId) : (s.discardIf discard n).tally m =
    if m = n then
      { s.tally n with
        cleared := (s.tally n).cleared + BitVec.ofNat 32 (if discard then s.pendingCount n else 0) +
          BitVec.ofNat 32 (if discard then voidableIn n s.copies else 0) }
    else s.tally m := by
  cases discard
  · by_cases hm : m = n <;> simp [discardIf, hm]
  · simp [discardIf, discardSource_tally]

theorem discardIf_copies : (s.discardIf discard n).copies = if discard then voidIn n s.copies else s.copies := by
  cases discard
  · rfl
  · exact discardSource_copies s n

theorem OnlyStates.discardIf : OnlyStates s (s.discardIf discard n) :=
  discardIf_cases s discard n (.discardSource s n) (.refl s)

theorem Appends.discardIf : Appends s (s.discardIf discard n) :=
  discardIf_cases s discard n (.discardSource s n) (.refl s)

end Discard

/-- What a discard does to the accounts is decided by them and the copies in flight. -/
theorem SameCounts.discardSource {s t : State} (h : SameCounts s t) (hc : t.copies = s.copies) (n : SourceId) :
    SameCounts (s.discardSource n) (t.discardSource n) := by
  have hclear : SameCounts (s.clearRecord n) (t.clearRecord n) := by
    unfold clearRecord
    rw [h.record]
    cases s.record n with
    | none => exact h
    | some r => exact (h.setRecord n none).updTally n _
  have hlist (u : State) (b : Option BundleId) : SameCounts u (u.listLost b) := .of_fields (by simp)
  have hdiscard : SameCounts (s.discardRecord n) (t.discardRecord n) := by
    unfold discardRecord
    rw [h.record]
    split
    · exact (hlist _ _).symm.trans (hclear.trans (hlist _ _))
    · exact h
  have hvoid (u : State) : SameCounts
      (u.updTally n fun y => { y with cleared := y.cleared + BitVec.ofNat 32 (voidableIn n u.copies) }) (u.voidCopy n) :=
    .of_fields (by simp [voidCopy])
  have htally := hdiscard.updTally n fun y => { y with cleared := y.cleared + BitVec.ofNat 32 (voidableIn n s.copies) }
  have hs := hvoid (s.discardRecord n)
  have ht := hvoid (t.discardRecord n)
  rw [discardRecord_copies] at hs ht
  rw [hc] at ht
  exact hs.symm.trans (htally.trans ht)

theorem SameCounts.discardIf {s t : State} (h : SameCounts s t) (hc : t.copies = s.copies) (discard : Bool) (n : SourceId) :
    SameCounts (s.discardIf discard n) (t.discardIf discard n) := by
  cases discard
  · exact h
  · exact h.discardSource hc n

theorem SameCounts.setRoute {s t : State} (h : SameCounts s t) (n : SourceId) (e : RouteEntry) :
    SameCounts (s.setRoute n e) (t.setRoute n e) :=
  .of_fields (by simp [State.setRoute, h.fields])

end Sys2Proof.Machine

/-! ROUTE_SET with valid arguments, in the words of its statement. -/
namespace Sys2Proof.Machine

open State

/-- The state in which a valid ROUTE_SET writes its entry. -/
def State.setBase (s : State) (r : SlotRead) (discard : Bool) (n : SourceId) : State := (s.taken r).discardIf discard n

/-- The state after a valid ROUTE_SET (R25, R32). -/
def State.routeSetDone (s : State) (r : SlotRead) (discard : Bool) (n : SourceId) (e : RouteEntry) : State :=
  ((s.setBase r discard n).reroute n e).complete (cmdOf r 0x10) .ok
    (resultCounts (if discard then s.pendingCount n else 0) (if discard then voidableIn n s.copies else 0))

section RouteSet

variable {s : State} {r : SlotRead} {discard : Bool} {n : SourceId} {e : RouteEntry}

theorem exec_routeSet {source : Half} {enabled trigger : Byte} {filter : Half} {bundle rank : Byte} (h : Takes s r)
    (hn : source.toNat = n.val) (hargs : routeArgs enabled trigger filter bundle rank = some e) :
    exec (.routeSet r source enabled trigger filter bundle rank discard) s = .next (s.routeSetDone r discard n e) := by
  have hexec : exec (.routeSet r source enabled trigger filter bundle rank discard) s =
      .next ((s.taken r).routeSetCommand (cmdOf r 0x10) source (routeArgs enabled trigger filter bundle rank) discard) :=
    congrArg Host.Outcome.next (command_taken h)
  have hresult : (if discard then resultCounts ((s.taken r).pendingCount n) (voidableIn n (s.taken r).copies) else 0) =
      resultCounts (if discard then s.pendingCount n else 0) (if discard then voidableIn n s.copies else 0) := by
    cases discard
    · simp [resultCounts]
    · simp [pendingCount, copies]
  rw [hexec, hargs, routeSetCommand_valid e discard hn, hresult]
  rfl

/-- The completion leaves everything but the command path as the entry's write left it. -/
theorem routeSetDone_kept :
    let t := s.routeSetDone r discard n e
    let u := (s.setBase r discard n).reroute n e
    t.accounts = u.accounts ∧ t.routes = u.routes ∧ t.lines = u.lines ∧ t.timebase = u.timebase ∧ t.assembly = u.assembly ∧
      t.roundRobin = u.roundRobin ∧ OnlyStates u t := by
  simp only [routeSetDone, complete_ok]
  exact ⟨by simp [accounts], by simp, by simp, by simp, by simp, by simp, .of_eq (by simp) (by simp)⟩

theorem routeSetDone_books (m : SourceId) :
    let t := s.routeSetDone r discard n e
    let u := (s.setBase r discard n).reroute n e
    t.record m = u.record m ∧ t.tally m = u.tally m ∧ t.interval m = u.interval m := by
  simp [routeSetDone, complete_ok]

theorem routeSetDone_route (m : SourceId) : (s.routeSetDone r discard n e).route m = if m = n then e else s.route m := by
  have hbase : (s.setBase r discard n).route m = s.route m := by simp [route, setBase, discardIf_kept]
  simp [routeSetDone, complete_ok, reroute_route, hbase]

theorem setBase_record (m : SourceId) :
    (s.setBase r discard n).record m = if discard = true ∧ m = n then none else s.record m :=
  discardIf_record (s.taken r) discard n m

theorem setBase_tally_self :
    (s.setBase r discard n).tally n =
      { s.tally n with
        cleared := (s.tally n).cleared + BitVec.ofNat 32 (if discard then s.pendingCount n else 0) +
          BitVec.ofNat 32 (if discard then voidableIn n s.copies else 0) } :=
  (discardIf_tally (s.taken r) discard n n).trans (if_pos rfl)

theorem setBase_others {m : SourceId} (h : m ≠ n) :
    (s.setBase r discard n).record m = s.record m ∧ (s.setBase r discard n).tally m = s.tally m :=
  ⟨(discardIf_record (s.taken r) discard n m).trans (if_neg fun hm => h hm.2),
    (discardIf_tally (s.taken r) discard n m).trans (if_neg h)⟩

/-- The rest of the base is as the command found it. -/
theorem setBase_kept :
    let u := s.setBase r discard n
    u.timebase = s.timebase ∧ u.lines = s.lines ∧ u.routes = s.routes ∧ u.intervals = s.intervals ∧ u.roundRobin = s.roundRobin :=
  discardIf_kept (s.taken r) discard n

theorem setBase_line (l : LineId) : (s.setBase r discard n).line l = s.line l := by simp [line, setBase_kept]

theorem setBase_interval (m : SourceId) : (s.setBase r discard n).interval m = s.interval m := by simp [interval, setBase_kept]

theorem setBase_route (m : SourceId) : (s.setBase r discard n).route m = s.route m := by simp [route, setBase_kept]

/-- The tallies of the source: what was discarded is cleared, and nothing is reported. -/
theorem routeSetDone_tally_fields :
    ((s.routeSetDone r discard n e).tally n).cleared =
        (s.tally n).cleared + BitVec.ofNat 32 (if discard then s.pendingCount n else 0) +
          BitVec.ofNat 32 (if discard then voidableIn n s.copies else 0) ∧
      ((s.routeSetDone r discard n e).tally n).reported = (s.tally n).reported := by
  obtain ⟨-, htally, -⟩ := routeSetDone_books (s := s) (r := r) (discard := discard) (n := n) (e := e) n
  obtain ⟨hcleared, hreported⟩ := reroute_tally_fields (s.setBase r discard n) n n e
  rw [htally, hcleared, hreported, setBase_tally_self]
  exact ⟨rfl, rfl⟩

/-- The other sources but 209 (R25). -/
theorem routeSetDone_others {m : SourceId} (h : m ≠ n) (h' : m ≠ 209) :
    let t := s.routeSetDone r discard n e
    t.record m = s.record m ∧ t.tally m = s.tally m ∧ t.interval m = s.interval m := by
  obtain ⟨trecord, ttally, tinterval⟩ := routeSetDone_books (s := s) (r := r) (discard := discard) (n := n) (e := e) m
  obtain ⟨urecord, utally, uinterval⟩ := reroute_ne (s.setBase r discard n) e h h'
  obtain ⟨brecord, btally⟩ := setBase_others (s := s) (r := r) (discard := discard) h
  exact ⟨trecord.trans (urecord.trans brecord), ttally.trans (utally.trans btally),
    tinterval.trans (uinterval.trans (setBase_interval m))⟩

/-- With DISCARD no record stands, so that the entry's own event finds none and is not lost (R25, R28). -/
theorem routeSetDone_discards :
    let t := s.routeSetDone r true n e
    (t.record n = none ∨ ∃ level : Level, t.record n = some ⟨1, s.timebase, s.timebase, s.interval n, some level.detail⟩) ∧
      t.tally n = { s.tally n with
        accepted := (s.tally n).accepted + BitVec.ofNat 32 (t.pendingCount n)
        cleared := (s.tally n).cleared + BitVec.ofNat 32 (s.pendingCount n) + BitVec.ofNat 32 (voidableIn n s.copies) } ∧
      ∀ m, m ≠ n → t.record m = s.record m ∧ t.tally m = s.tally m ∧ t.interval m = s.interval m := by
  intro t
  have hbooks m := routeSetDone_books (s := s) (r := r) (discard := true) (n := n) (e := e) m
  have hgone : (s.setBase r true n).record n = none := by simp [setBase_record]
  have htime : (s.setBase r true n).timebase = s.timebase := setBase_kept.1
  obtain ⟨hself, hothers⟩ := reroute_fresh e hgone
  obtain ⟨trecord, ttally, -⟩ := hbooks n
  rw [htime, setBase_interval, ← trecord, ← ttally, setBase_tally_self] at hself
  refine ⟨?_, ?_, fun m hm => ?_⟩
  · exact hself.imp (·.1) (·.1)
  · rcases hself with ⟨hnone, htally⟩ | ⟨⟨level, hsome⟩, htally⟩
    · have hcount : t.pendingCount n = 0 := by rw [pendingCount_eq, hnone]; rfl
      rw [hcount]
      simpa using htally
    · have hcount : t.pendingCount n = 1 := by rw [pendingCount_eq, hsome]; rfl
      rw [hcount]
      simpa using htally
  · obtain ⟨mrecord, mtally, minterval⟩ := hbooks m
    obtain ⟨orecord, otally, ointerval⟩ := hothers m hm
    obtain ⟨brecord, btally⟩ := setBase_others (s := s) (r := r) (discard := true) hm
    exact ⟨mrecord.trans (orecord.trans brecord), mtally.trans (otally.trans btally),
      minterval.trans (ointerval.trans (setBase_interval m))⟩

/-- An entry that keeps filter, enabled and trigger has no event of its own. -/
theorem routeSetDone_same (hf : e.filter = (s.route n).filter) (he : e.enabled = (s.route n).enabled)
    (ht : e.trigger = (s.route n).trigger) :
    (s.setBase r discard n).reroute n e = (s.setBase r discard n).writeRoute n e := by
  have hroute : (s.setBase r discard n).route n = s.route n := setBase_route n
  exact reroute_same (hroute ▸ hf) (hroute ▸ he) (hroute ▸ ht)

theorem routeSetDone_states : OnlyStates s (s.routeSetDone r discard n e) := by
  have htaken : OnlyStates s (s.taken r) := .of_eq (by simp) (by simp)
  have hbase : OnlyStates (s.taken r) (s.setBase r discard n) := .discardIf _ _ _
  obtain ⟨-, -, -, -, -, -, hdone⟩ := routeSetDone_kept (s := s) (r := r) (discard := discard) (n := n) (e := e)
  exact ((htaken.trans hbase).trans (.reroute _ n e)).trans hdone

theorem routeSetDone_last :
    CompletesLast s (s.routeSetDone r discard n e) ⟨cmdOf r 0x10, .ok,
      resultCounts (if discard then s.pendingCount n else 0) (if discard then voidableIn n s.copies else 0)⟩ := by
  have hbase : Appends (s.taken r) (s.setBase r discard n) := .discardIf _ _ _
  exact (hbase.trans (.reroute _ n e)).last _ _ _

theorem routeSetDone_copies :
    (s.routeSetDone r discard n e).copies = if discard then voidIn n s.copies else s.copies := by
  have hcopies : (s.routeSetDone r discard n e).copies = (s.setBase r discard n).copies := by
    simp [copies, routeSetDone, complete_ok]
  exact hcopies.trans (discardIf_copies (s.taken r) discard n)

/-- The accounts of the state in which the statement writes the entry. -/
theorem setBase_counts : SameCounts (s.discardIf discard n) (s.setBase r discard n) :=
  SameCounts.discardIf (.of_fields (by simp)) (by simp [copies]) discard n

/-- The write of an entry as it was changes nothing (R25). -/
theorem routeSetDone_id : s.routeSetDone r false n (s.route n) = (s.taken r).complete (cmdOf r 0x10) .ok 0 := by
  have hsame : ((s.taken r).reroute n (s.route n)) = s.taken r := by
    have hroute : s.route n = (s.taken r).route n := by simp
    rw [hroute]
    exact reroute_id (s.taken r) n
  have hresult : resultCounts 0 0 = 0 := by decide
  have hbase : s.setBase r false n = s.taken r := rfl
  simp only [routeSetDone, hbase, hsame, Bool.false_eq_true, if_false, hresult]

/-- The two accounts of a field line's ROUTE_SET that ends no qualification (R12). -/
theorem routeSetDone_kept_line {l : LineId} (hl : lineOf n = some l) (h : ¬ FilterEnds (s.line l) (s.route n) e) :
    (LevelChecks (s.line l) (s.route n) e → (s.setBase r discard n).reroute n e =
      ((s.setBase r discard n).rewritten n e).accept n (some (s.line l).qualified.detail)) ∧
    (¬ LevelChecks (s.line l) (s.route n) e → (s.setBase r discard n).reroute n e = (s.setBase r discard n).rewritten n e) := by
  have hkept := reroute_kept (s := s.setBase r discard n) (e := e) hl
  rw [setBase_line, setBase_route] at hkept
  exact hkept h

end RouteSet

end Sys2Proof.Machine

/-! The statement on a valid ROUTE_SET (R10 to R12, R23 to R32). -/
namespace Sys2Proof.Machine

open State

/-- The line and the record of a field line's source after a ROUTE_SET (R10, R12). -/
theorem routeSetDone_line {s : State} {r : SlotRead} {discard : Bool} {n : SourceId} {e : RouteEntry} {l : LineId}
    (hl : lineOf n = some l) : (s.routeSetDone r discard n e).line l = (s.line l).refiltered (s.route n) e := by
  obtain ⟨-, -, hlines, -⟩ := routeSetDone_kept (s := s) (r := r) (discard := discard) (n := n) (e := e)
  have hline : (s.routeSetDone r discard n e).line l = ((s.setBase r discard n).reroute n e).line l := by simp [line, hlines]
  rw [hline, reroute_line e hl, setBase_line, setBase_route]

/-- A level check at enabling that finds the active level is an occurrence in the rewritten state (R12). -/
theorem routeSetDone_checks {s : State} {r : SlotRead} {discard : Bool} {n : SourceId} {e : RouteEntry} {l : LineId}
    (hl : lineOf n = some l) (hends : ¬ FilterEnds (s.line l) (s.route n) e) (hc : LevelChecks (s.line l) (s.route n) e) :
    (s.routeSetDone r discard n e).record n =
      (((s.setBase r discard n).rewritten n e).accept n (some (s.line l).qualified.detail)).record n := by
  obtain ⟨hrecord, -, -⟩ := routeSetDone_books (s := s) (r := r) (discard := discard) (n := n) (e := e) n
  rw [hrecord, (routeSetDone_kept_line hl hends).1 hc]

/-- Settles O22: the state `routeSetDone`, its line, its record and its accounts by the cases of `reroute`. -/
theorem routeSet : Obligations.RouteSet := by
  refine ⟨fun s r source enabled trigger filter bundle rank discard n e h hn hargs => ?all,
    fun s r source enabled trigger filter bundle rank discard n l e h hn hl hargs => ?line,
    fun s r source enabled trigger filter bundle rank discard n e h hn hargs => ?accounts⟩
  case all =>
    intro cmd gone voided
    obtain ⟨haccounts, -, hlines, htime, -, hturn, -⟩ :=
      routeSetDone_kept (s := s) (r := r) (discard := discard) (n := n) (e := e)
    obtain ⟨hcleared, hreported⟩ := routeSetDone_tally_fields (s := s) (r := r) (discard := discard) (n := n) (e := e)
    have hroute := routeSetDone_route (s := s) (r := r) (discard := discard) (n := n) (e := e)
    have hself : (s.routeSetDone r discard n e).route n = e := (hroute n).trans (if_pos rfl)
    have hbase := setBase_kept (s := s) (r := r) (discard := discard) (n := n)
    refine ⟨_, exec_routeSet h hn hargs, hself, fun m hm => (hroute m).trans (if_neg hm), routeSetDone_copies,
      fun b => by rw [mem_pendingList, hself], by rw [mem_unroutedSet, hself], ?time, fun l hl => ?lines, routeSetDone_states, ?turn,
      routeSetDone_last, hcleared, hreported, fun m hm hm' => routeSetDone_others hm hm', fun hd => ?discards, fun hd he => ?id,
      fun hd hf he ht => ?same⟩
    case time => exact htime.trans ((reroute_frame _ n e).2.1.trans hbase.1)
    case turn => exact hturn.trans (Eq.trans (by simp) hbase.2.2.2.2)
    case lines =>
      have hline : (s.routeSetDone r discard n e).line l = ((s.setBase r discard n).reroute n e).line l := by simp [line, hlines]
      rw [hline, reroute_line_ne _ e hl, setBase_line]
    case discards =>
      subst hd
      obtain ⟨hrecord, htally, hothers⟩ := routeSetDone_discards (s := s) (r := r) (n := n) (e := e)
      refine ⟨hrecord, htally, hothers, fun hf he ht => ?_⟩
      obtain ⟨trecord, -, tinterval⟩ := routeSetDone_books (s := s) (r := r) (discard := true) (n := n) (e := e) n
      rw [trecord, tinterval, routeSetDone_same hf he ht]
      exact ⟨by simp [setBase_record], by simp [setBase_interval]⟩
    case id =>
      subst hd he
      exact routeSetDone_id
    case same =>
      subst hd
      rw [haccounts, hlines, routeSetDone_same hf he ht]
      exact ⟨by simp [accounts, setBase, discardIf], by simp [setBase_kept]⟩
  case line =>
    intro x old
    have hline : (s.routeSetDone r discard n e).line l = x.refiltered old e := routeSetDone_line hl
    have hnotEnds (hkeeps : x.qualification = .stable ∨ e.filter = old.filter ∨ e.filter ≠ 0) : ¬ FilterEnds x old e := by
      rintro ⟨hq, hf, hz⟩
      exact hkeeps.elim hq (·.elim hf (absurd hz))
    have hon (he : e.enabled = true) : (((s.setBase r discard n).rewritten n e).route n).enabled = true := by
      rw [rewritten_route, if_pos rfl, he]
    have hrecord := (rewritten_books (s.setBase r discard n) n n e).1
    refine ⟨_, exec_routeSet h hn hargs, fun hsame => hline.trans (refiltered_same hsame),
      fun hq hf hz => hline.trans (refiltered_restarts hq hf hz), fun hq hf hz => hline.trans (refiltered_ends ⟨hq, hf, hz⟩),
      fun hfresh he ha hnew hkeeps => ?fresh, fun rec hd hrec _ hcount he ha hnew hkeeps => ?joins⟩
    case fresh =>
      have hnone : ((s.setBase r discard n).rewritten n e).record n = none := by
        rw [hrecord, setBase_record]
        rcases hfresh with hd | hnone
        · rw [if_pos ⟨hd, rfl⟩]
        · simp [hnone]
      have hinterval : ((s.setBase r discard n).rewritten n e).interval n = s.interval n :=
        (rewritten_books (s.setBase r discard n) n n e).2.2.trans (setBase_interval n)
      have htime : ((s.setBase r discard n).rewritten n e).timebase = s.timebase :=
        (rewritten_kept _ n e).1.trans setBase_kept.1
      rw [routeSetDone_checks hl (hnotEnds hkeeps) ⟨he, ha, hnew⟩, (arrivalCreates _ n _ (hon he) hnone).1, htime, hinterval]
    case joins =>
      have hstands : ((s.setBase r discard n).rewritten n e).record n = some rec := by
        rw [hrecord, setBase_record, if_neg (by simp [hd]), hrec]
      have htime : ((s.setBase r discard n).rewritten n e).timebase = s.timebase :=
        (rewritten_kept _ n e).1.trans setBase_kept.1
      have hbelow : rec.count < Config.countLimit := Nat.lt_succ_of_le hcount
      rw [routeSetDone_checks hl (hnotEnds hkeeps) ⟨he, ha, hnew⟩, accept_grows _ (hon he) hstands hbelow,
        (counted_self _ n _).1, htime]
  case accounts =>
    intro old base written
    obtain ⟨haccounts, -⟩ := routeSetDone_kept (s := s) (r := r) (discard := discard) (n := n) (e := e)
    have hcounts : SameCounts written ((s.setBase r discard n).rewritten n e) :=
      (setBase_counts.setRoute n e).trans (rewritten_counts _ n e)
    have hplain : (s.setBase r discard n).reroute n e = (s.setBase r discard n).rewritten n e →
        (s.routeSetDone r discard n e).accounts = base.accounts := fun hsame => by
      rw [haccounts, hsame]
      exact hcounts.accounts
    have hoccurs {d : Option Half} : (s.setBase r discard n).reroute n e = ((s.setBase r discard n).rewritten n e).accept n d →
        (s.routeSetDone r discard n e).accounts = (written.accept n d).accounts := fun hevent => by
      rw [haccounts, hevent]
      exact (hcounts.accept n d).accounts
    refine ⟨_, exec_routeSet h hn hargs, fun hl => hplain (reroute_noLine e hl), fun l hl => ?_⟩
    intro x ends checks
    have hends : ends → (s.setBase r discard n).reroute n e =
        if e.trigger.counts x.sampled = true then
          ((s.setBase r discard n).rewritten n e).accept n (some x.sampled.detail)
        else (s.setBase r discard n).rewritten n e := fun hf => by
      have hreroute := reroute_ends (s := s.setBase r discard n) (e := e) hl
      rw [setBase_line, setBase_route] at hreroute
      exact hreroute hf
    refine ⟨fun hf _ ht => hoccurs ((hends hf).trans (if_pos ht)), fun hf hnot => hplain ((hends hf).trans ?_),
      fun hf hc => hoccurs ((routeSetDone_kept_line hl hf).1 hc), fun hf hc => hplain ((routeSetDone_kept_line hl hf).2 hc)⟩
    rcases hnot with hoff | ht
    · split
      · exact accept_off _ (by rw [rewritten_route, if_pos rfl, hoff])
      · rfl
    · exact if_neg (by simp [ht])

end Sys2Proof.Machine

/-! The layouts of the records that the part writes (10, R33, R69, R83, R86, R130, R141, R164). -/
namespace Sys2Proof.Machine

open State

/-! ### Fields of a layout -/

/-- A record of fields in address order, each with its size in bytes and its value. -/
def layout (fields : List (Nat × Nat)) : List Byte := fields.flatMap fun f => leBytes f.1 f.2

theorem length_leBytes (k x : Nat) : (leBytes k x).length = k := by
  induction k generalizing x with
  | zero => rfl
  | succ k ih => simp [leBytes, ih]

theorem layout_nil : layout [] = [] := rfl

theorem layout_cons (k x : Nat) (fields : List (Nat × Nat)) : layout ((k, x) :: fields) = leBytes k x ++ layout fields := rfl

theorem length_layout (fields : List (Nat × Nat)) : (layout fields).length = (fields.map Prod.fst).sum := by
  simp [layout, List.length_flatMap, length_leBytes]

theorem zeros_eq_leBytes (k : Nat) : zeros k = leBytes k 0 := by
  induction k with
  | zero => rfl
  | succ k ih => simpa [zeros, leBytes, List.replicate_succ] using ih

theorem drop_leBytes (j k x : Nat) : (leBytes (j + k) x).drop j = leBytes k (x / 256 ^ j) := by
  induction j generalizing x with
  | zero => simp
  | succ j ih => rw [Nat.succ_add, leBytes, List.drop_succ_cons, ih, Nat.div_div_eq_div_mul, Nat.pow_succ, Nat.mul_comm]

theorem take_leBytes (m k x : Nat) : (leBytes (m + k) x).take m = leBytes m x := by
  induction m generalizing x with
  | zero => simp [leBytes]
  | succ m ih => rw [Nat.succ_add, leBytes, List.take_succ_cons, ih, leBytes]

theorem leNat_leBytes (k x : Nat) : leNat (leBytes k x) = x % 256 ^ k := by
  induction k generalizing x with
  | zero => simp [leBytes, leNat, Nat.mod_one]
  | succ k ih => rw [leBytes, leNat, ih, BitVec.toNat_ofNat, Nat.pow_succ' (n := k), Nat.mod_mul]

/-- The bytes from `j` on of a field that holds `x`. -/
theorem field_part {fields : List (Nat × Nat)} {sizes : List Nat} {rest : List Byte} (hs : fields.map Prod.fst = sizes) (i j m k x : Nat)
    {off : Nat} (h : fields[i]? = some (j + (m + k), x)) (ho : off = (sizes.take i).sum + j) :
    field (layout fields ++ rest) off m = x / 256 ^ j % 256 ^ m := by
  obtain ⟨hi, hget⟩ := List.getElem?_eq_some_iff.1 h
  have hsplit : layout fields ++ rest =
      layout (fields.take i) ++ (leBytes (j + (m + k)) x ++ (layout (fields.drop (i + 1)) ++ rest)) := by
    conv_lhs => rw [← List.take_append_drop i fields, List.drop_eq_getElem_cons hi, hget]
    simp [layout]
  have hlength : (layout (fields.take i)).length = (sizes.take i).sum := by rw [length_layout, List.map_take, hs]
  rw [field, hsplit, ho, ← hlength, ← List.drop_drop, List.drop_left, List.drop_append_of_le_length (by simp [length_leBytes]),
    drop_leBytes, List.take_append_of_le_length (by simp [length_leBytes]), take_leBytes, leNat_leBytes]

/-- A field of a layout that holds a value that fits it. -/
theorem field_layout {fields : List (Nat × Nat)} {sizes : List Nat} {rest : List Byte} (hs : fields.map Prod.fst = sizes) (i : Nat)
    {off k x : Nat} (h : fields[i]? = some (k, x)) (ho : off = (sizes.take i).sum) (hx : x < 256 ^ k) :
    field (layout fields ++ rest) off k = x := by
  have hk : fields[i]? = some (0 + (k + 0), x) := by simpa using h
  rw [field_part hs i 0 k 0 x hk ho, Nat.pow_zero, Nat.div_one, Nat.mod_eq_of_lt hx]

theorem leNat_append (a b : List Byte) : leNat (a ++ b) = leNat a + 256 ^ a.length * leNat b := by
  induction a with
  | nil => simp [leNat]
  | cons x a ih => simp only [List.cons_append, leNat, ih, List.length_cons, Nat.pow_succ]; ring

/-- Two fields of zero bytes, one after the other, are one. -/
theorem field_zero_append {bytes : List Byte} {off m n : Nat} (h : field bytes off m = 0) (h' : field bytes (off + m) n = 0) :
    field bytes off (m + n) = 0 := by
  unfold field at *
  rw [List.take_add, leNat_append, h, List.drop_drop, h', Nat.mul_zero]

/-- One byte of a record. -/
theorem field_byte (bytes : List Byte) (off : Nat) : field bytes off 1 = (bytes[off]?.map BitVec.toNat).getD 0 := by
  unfold field
  cases h : bytes.drop off with
  | nil =>
    have hnone : bytes[off]? = none := List.getElem?_eq_none (List.drop_eq_nil_iff.1 h)
    rw [hnone]
    rfl
  | cons x l =>
    have hsome : bytes[off]? = some x := by rw [← List.head?_drop, h]; rfl
    simp [hsome, leNat]

/-! ### Codes -/

theorem bit_eq (b : Bool) (place : Nat) : bit b place = 2 ^ place * boolCode b := by cases b <;> simp [bit, boolCode]

theorem boolCode_le (b : Bool) : boolCode b ≤ 1 := by cases b <;> decide

theorem boolCode_lt (b : Bool) : boolCode b < 256 ^ 1 := Nat.lt_of_le_of_lt (boolCode_le b) (by decide)

theorem bundleCode_lt (b : Option BundleId) : bundleCode b < 256 ^ 1 := by
  cases b with
  | none => decide
  | some b => exact Nat.lt_trans b.isLt (by decide)

theorem targetCode_lt (k : Option TargetId) : targetCode k < 256 ^ 1 := by
  cases k with
  | none => decide
  | some k => exact Nat.lt_trans k.isLt (by decide)

theorem headerCode_le (x : HeaderKind) : x.code ≤ 2 := by cases x <;> decide

theorem status_lt (x : Status) : x.code < 256 ^ 1 := by cases x <;> decide

theorem byte_le {x : Nat} (h : x ≤ 255) : x < 256 ^ 1 := Nat.lt_succ_of_le h

theorem half_le {x : Nat} (h : x ≤ 65535) : x < 256 ^ 2 := Nat.lt_succ_of_le h

theorem time_lt (x : Time) : x.toNat < 256 ^ 8 := Nat.lt_trans x.isLt (by decide)

/-! ### Completion slots -/

/-- The fields of a completion slot (R141). -/
def completionFields (ph : Bool) (c : Completion) : List (Nat × Nat) :=
  [(1, boolCode ph), (1, c.cmd.kind.toNat), (2, c.cmd.tag.toNat), (1, c.status.code), (3, 0), (8, c.result.toNat)]

theorem completionFields_sizes (ph : Bool) (c : Completion) : (completionFields ph c).map Prod.fst = [1, 1, 2, 1, 3, 8] := rfl

theorem completionBytes_layout (ph : Bool) (c : Completion) : completionBytes ph c = layout (completionFields ph c) ++ [] := by
  simp [completionBytes, completionFields, layout, zeros_eq_leBytes, bit_eq, leBytes]

theorem completionBytes_fields (ph : Bool) (c : Completion) : (completionBytes ph c).length = 16 ∧
    field (completionBytes ph c) 0 1 = boolCode ph ∧ field (completionBytes ph c) 1 1 = c.cmd.kind.toNat ∧
    field (completionBytes ph c) 2 2 = c.cmd.tag.toNat ∧ field (completionBytes ph c) 4 1 = c.status.code ∧
    field (completionBytes ph c) 5 3 = 0 ∧ field (completionBytes ph c) 8 8 = c.result.toNat := by
  rw [completionBytes_layout]
  exact ⟨by rw [List.append_nil, length_layout]; rfl, field_layout (completionFields_sizes _ _) 0 rfl (by decide) (boolCode_lt ph), field_layout (completionFields_sizes _ _) 1 rfl (by decide) c.cmd.kind.isLt,
    field_layout (completionFields_sizes _ _) 2 rfl (by decide) c.cmd.tag.isLt,
    field_layout (completionFields_sizes _ _) 3 rfl (by decide) (status_lt _),
    field_layout (completionFields_sizes _ _) 4 rfl (by decide) (by decide),
    field_layout (completionFields_sizes _ _) 5 rfl (by decide) c.result.isLt⟩

/-- A part of a completion's result. -/
theorem completionBytes_result (ph : Bool) (cmd : CmdId) (status : Status) (result : BitVec 64) (j m k : Nat) (h : j + (m + k) = 8) :
    field (completionBytes ph ⟨cmd, status, result⟩) (8 + j) m = result.toNat / 256 ^ j % 256 ^ m := by
  rw [completionBytes_layout]
  exact field_part (completionFields_sizes _ _) 5 j m k _ (by rw [h]; rfl) rfl

theorem completionBytes_results (ph : Bool) (cmd : CmdId) (status : Status) (x y z : Nat) :
    let bytes (result : BitVec 64) := completionBytes ph ⟨cmd, status, result⟩
    (x < 2 ^ 64 → field (bytes (result1 x)) 8 8 = x) ∧
    (x ≤ 65535 → y ≤ 65535 → field (bytes (resultCounts x y)) 8 2 = x ∧ field (bytes (resultCounts x y)) 10 2 = y ∧
      field (bytes (resultCounts x y)) 12 4 = 0) ∧
    (x ≤ 65535 → y ≤ 65535 → z < 2 ^ 32 → field (bytes (resultFlush x y z)) 8 2 = x ∧
      field (bytes (resultFlush x y z)) 10 2 = y ∧ field (bytes (resultFlush x y z)) 12 4 = z) ∧
    (x ≤ 255 → y ≤ 255 → field (bytes (resultAck x y)) 8 1 = x ∧ field (bytes (resultAck x y)) 9 1 = y ∧
      field (bytes (resultAck x y)) 10 6 = 0) := by
  intro bytes
  have hpart (result : BitVec 64) := completionBytes_result ph cmd status result
  refine ⟨fun hx => ?one, fun hx hy => ?counts, fun hx hy hz => ?flush, fun hx hy => ?ack⟩
  case one =>
    refine (hpart _ 0 8 0 rfl).trans ?_
    simp only [result1, BitVec.toNat_ofNat]
    omega
  case counts =>
    have hvalue : (resultCounts x y).toNat = x + y * 65536 := by
      simp only [resultCounts, BitVec.toNat_ofNat]
      omega
    refine ⟨(hpart _ 0 2 6 rfl).trans ?_, (hpart _ 2 2 4 rfl).trans ?_, (hpart _ 4 4 0 rfl).trans ?_⟩
    all_goals rw [hvalue]; omega
  case flush =>
    have hvalue : (resultFlush x y z).toNat = x + y * 65536 + z * 4294967296 := by
      simp only [resultFlush, BitVec.toNat_ofNat]
      omega
    refine ⟨(hpart _ 0 2 6 rfl).trans ?_, (hpart _ 2 2 4 rfl).trans ?_, (hpart _ 4 4 0 rfl).trans ?_⟩
    all_goals rw [hvalue]; omega
  case ack =>
    have hvalue : (resultAck x y).toNat = x + y * 256 := by
      simp only [resultAck, BitVec.toNat_ofNat]
      omega
    refine ⟨(hpart _ 0 1 7 rfl).trans ?_, (hpart _ 1 1 6 rfl).trans ?_, (hpart _ 2 6 0 rfl).trans ?_⟩
    all_goals rw [hvalue]; omega

/-! ### Entry slots -/

/-- The fields of the entry of a VOID copy (R83). -/
def voidFields (ph : Bool) : List (Nat × Nat) := [(1, boolCode ph), (1, 0), (2, 65535), (28, 0)]

/-- The fields of the entry of a copy that is not VOID (R83). -/
def entryFields (ph : Bool) (c : Copy) : List (Nat × Nat) :=
  [(1, boolCode ph + 2 * boolCode c.lossFlag + 4 * boolCode c.detail.isSome), (1, 0), (2, c.source.val), (2, c.count),
    (2, (c.detail.getD 0).toNat), (8, c.firstTime.toNat), (8, c.lastTime.toNat), (4, c.interval.toNat), (4, 0)]

theorem voidFields_sizes (ph : Bool) : (voidFields ph).map Prod.fst = [1, 1, 2, 28] := rfl

theorem entryFields_sizes (ph : Bool) (c : Copy) : (entryFields ph c).map Prod.fst = [1, 1, 2, 2, 2, 8, 8, 4, 4] := rfl

theorem entryBytes_void (ph : Bool) {c : Copy} (h : c.state = .void) : entryBytes ph c = layout (voidFields ph) ++ [] := by
  rw [entryBytes, if_pos h]
  simp only [voidFields, layout, zeros_eq_leBytes, bit_eq, List.flatMap_cons, List.flatMap_nil, Nat.pow_zero, Nat.one_mul,
    List.append_assoc, List.append_nil]

theorem entryBytes_layout (ph : Bool) {c : Copy} (h : c.state ≠ .void) : entryBytes ph c = layout (entryFields ph c) ++ [] := by
  rw [entryBytes, if_neg h]
  simp only [entryFields, layout, zeros_eq_leBytes, bit_eq, List.flatMap_cons, List.flatMap_nil, Nat.pow_zero, Nat.one_mul,
    List.append_assoc, List.append_nil]
  rfl

theorem entryBytes_fields (ph : Bool) (c : Copy) : (entryBytes ph c).length = 32 ∧ field (entryBytes ph c) 0 1 % 2 = boolCode ph ∧
    field (entryBytes ph c) 1 1 = 0 ∧ field (entryBytes ph c) 28 4 = 0 ∧
    (c.state = .void → field (entryBytes ph c) 0 1 = boolCode ph ∧ field (entryBytes ph c) 2 2 = 65535 ∧
      field (entryBytes ph c) 4 28 = 0) ∧
    (c.state ≠ .void → field (entryBytes ph c) 0 1 = boolCode ph + 2 * boolCode c.lossFlag + 4 * boolCode c.detail.isSome ∧
      field (entryBytes ph c) 2 2 = c.source.val ∧ (c.count ≤ 65535 → field (entryBytes ph c) 4 2 = c.count) ∧
      field (entryBytes ph c) 6 2 = (c.detail.getD 0).toNat ∧ field (entryBytes ph c) 8 8 = c.firstTime.toNat ∧
      field (entryBytes ph c) 16 8 = c.lastTime.toNat ∧ field (entryBytes ph c) 24 4 = c.interval.toNat) := by
  have hph := boolCode_le ph
  have hloss := boolCode_le c.lossFlag
  have hdetail := boolCode_le c.detail.isSome
  by_cases h : c.state = .void
  case pos =>
    have hflags : field (layout (voidFields ph) ++ []) 0 1 = boolCode ph := field_layout (voidFields_sizes ph) 0 rfl (by decide) (boolCode_lt ph)
    rw [entryBytes_void ph h, hflags]
    exact ⟨by rw [List.append_nil, length_layout]; rfl, by omega, field_layout (voidFields_sizes ph) 1 rfl (by decide) (by decide),
      field_part (voidFields_sizes ph) 3 24 4 0 0 rfl (by decide),
      fun _ => ⟨rfl, field_layout (voidFields_sizes ph) 2 rfl (by decide) (by decide),
      field_layout (voidFields_sizes ph) 3 rfl (by decide) (by decide)⟩,
      fun hne => absurd h hne⟩
  case neg =>
    have hflags : field (layout (entryFields ph c) ++ []) 0 1 = boolCode ph + 2 * boolCode c.lossFlag + 4 * boolCode c.detail.isSome :=
      field_layout (entryFields_sizes ph c) 0 rfl (by decide) (by omega)
    rw [entryBytes_layout ph h, hflags]
    exact ⟨by rw [List.append_nil, length_layout]; rfl, by omega,
      field_layout (entryFields_sizes ph c) 1 rfl (by decide) (by decide),
      field_layout (entryFields_sizes ph c) 8 rfl (by decide) (by decide),
      fun hv => absurd hv h, fun _ => ⟨rfl, field_layout (entryFields_sizes ph c) 2 rfl (by decide) (Nat.lt_trans c.source.isLt (by decide)),
        fun hc => field_layout (entryFields_sizes ph c) 3 rfl (by decide) (half_le hc),
        field_layout (entryFields_sizes ph c) 4 rfl (by decide) (c.detail.getD 0).isLt,
        field_layout (entryFields_sizes ph c) 5 rfl (by decide) (time_lt _),
        field_layout (entryFields_sizes ph c) 6 rfl (by decide) (time_lt _),
        field_layout (entryFields_sizes ph c) 7 rfl (by decide) c.interval.isLt⟩⟩

/-! ### Header slots -/

/-- The fields of a header slot (R86). -/
def headerFields (ph : Bool) (now : Time) (a : Assembly) : List (Nat × Nat) :=
  [(1, boolCode ph + 2 * a.headerKind.code + 8 * boolCode a.flagUrgent + 16 * boolCode a.flagMore + 32 * boolCode a.flagPartial),
    (1, a.bundle.val), (2, if a.headerKind = .empty then 0 else a.token.toNat), (1, a.copies.length), (1, a.reminderNumber), (2, 0),
    (8, now.toNat), (16, 0)]

theorem headerFields_sizes (ph : Bool) (now : Time) (a : Assembly) : (headerFields ph now a).map Prod.fst = [1, 1, 2, 1, 1, 2, 8, 16] := rfl

theorem headerBytes_layout (ph : Bool) (now : Time) (a : Assembly) : headerBytes ph now a = layout (headerFields ph now a) ++ [] := by
  simp only [headerBytes, headerFields, layout, zeros_eq_leBytes, bit_eq, List.flatMap_cons, List.flatMap_nil, Nat.pow_zero,
    Nat.one_mul, List.append_assoc, List.append_nil, Nat.mul_comm a.headerKind.code]
  rfl

theorem headerBytes_fields (ph : Bool) (now : Time) (a : Assembly) : (headerBytes ph now a).length = 32 ∧
    field (headerBytes ph now a) 0 1 = boolCode ph + 2 * a.headerKind.code + 8 * boolCode a.flagUrgent +
      16 * boolCode a.flagMore + 32 * boolCode a.flagPartial ∧
    field (headerBytes ph now a) 1 1 = a.bundle.val ∧
    field (headerBytes ph now a) 2 2 = (if a.headerKind = .empty then 0 else a.token.toNat) ∧
    (a.copies.length ≤ 255 → field (headerBytes ph now a) 4 1 = a.copies.length) ∧
    (a.reminderNumber ≤ 255 → field (headerBytes ph now a) 5 1 = a.reminderNumber) ∧
    field (headerBytes ph now a) 6 2 = 0 ∧ field (headerBytes ph now a) 8 8 = now.toNat ∧ field (headerBytes ph now a) 16 16 = 0 := by
  have hph := boolCode_le ph
  have hkind := headerCode_le a.headerKind
  have hurgent := boolCode_le a.flagUrgent
  have hmore := boolCode_le a.flagMore
  have hpartial := boolCode_le a.flagPartial
  have htoken : (if a.headerKind = .empty then 0 else a.token.toNat) < 256 ^ 2 := by
    split
    · decide
    · exact a.token.isLt
  rw [headerBytes_layout]
  exact ⟨by rw [List.append_nil, length_layout]; rfl, field_layout (headerFields_sizes ph now a) 0 rfl (by decide) (by omega),
    field_layout (headerFields_sizes ph now a) 1 rfl (by decide) (Nat.lt_trans a.bundle.isLt (by decide)),
    field_layout (headerFields_sizes ph now a) 2 rfl (by decide) htoken,
    fun hc => field_layout (headerFields_sizes ph now a) 3 rfl (by decide) (byte_le hc),
    fun hr => field_layout (headerFields_sizes ph now a) 4 rfl (by decide) (byte_le hr),
    field_layout (headerFields_sizes ph now a) 5 rfl (by decide) (by decide),
    field_layout (headerFields_sizes ph now a) 6 rfl (by decide) (time_lt now),
    field_layout (headerFields_sizes ph now a) 7 rfl (by decide) (by decide)⟩

end Sys2Proof.Machine

/-! The statement on the layouts of records: the replies of the read commands (R33, R69, R130). -/
namespace Sys2Proof.Machine

open State

/-! ### ROUTE_READ -/

/-- The copies of a source, at most one of them (R37). -/
theorem copyOf_none {s : State} {n : SourceId} (h : ∀ c ∈ s.copies, c.source ≠ n) : s.copyOf n = none := by
  simpa [copyOf] using h

theorem inFlightCountIn_absent {n : SourceId} {cs : List Copy} (h : ∀ c ∈ cs, c.source ≠ n) : inFlightCountIn n cs = 0 := by
  induction cs with
  | nil => rfl
  | cons c cs ih => simp [inFlightCountIn, h c (by simp), ih fun x hx => h x (by simp [hx])]

theorem find?_of_distinct {cs : List Copy} (hn : (cs.map fun c => c.source).Nodup) {c : Copy} (hc : c ∈ cs) :
    (cs.find? fun x => x.source == c.source) = some c ∧ inFlightCountIn c.source cs = c.inFlightCount := by
  induction cs with
  | nil => exact absurd hc List.not_mem_nil
  | cons x cs ih =>
    obtain ⟨hx, hn⟩ := List.nodup_cons.1 hn
    rcases List.mem_cons.1 hc with rfl | hc
    case inl =>
      have habsent : ∀ y ∈ cs, y.source ≠ c.source := fun y hy e => hx (List.mem_map.2 ⟨y, hy, e⟩)
      exact ⟨by simp, by simp [inFlightCountIn, inFlightCountIn_absent habsent]⟩
    case inr =>
      have hne : x.source ≠ c.source := fun e => hx (List.mem_map.2 ⟨c, hc, e.symm⟩)
      obtain ⟨hfind, hcount⟩ := ih hn hc
      exact ⟨by simp [hne, hfind], by simp [inFlightCountIn, hne, hcount]⟩

/-- The fields of ROUTE_READ's reply (R33). -/
def routeFields (s : State) (n : SourceId) : List (Nat × Nat) :=
  let e := s.route n
  let r := s.record n
  let c := s.copyOf n
  let y := s.tally n
  let present (f : PendingRecord → Nat) : Nat := (r.map f).getD 0
  [(1, boolCode e.enabled), (1, e.trigger.code), (2, e.filter.toNat), (1, bundleCode e.bundle), (1, e.rank.val),
    (1, present fun x => 1 + 2 * boolCode x.detail.isSome + 4 * boolCode (s.lossFlag n)),
    (1, (c.map fun x => x.state.code).getD 0), (2, present fun x => x.count), (2, present fun x => (x.detail.getD 0).toNat),
    (2, s.inFlightCount n), (1, bundleCode (if c.isSome then s.assembly.map fun a => a.bundle else none)), (1, 0),
    (8, present fun x => x.firstTime.toNat), (8, present fun x => x.lastTime.toNat), (4, present fun x => x.interval.toNat),
    (4, y.accepted.toNat), (4, y.reported.toNat), (4, y.cleared.toNat), (4, y.lost.toNat), (12, 0)]

/-- The sizes of these fields. -/
def routeSizes : List Nat := [1, 1, 2, 1, 1, 1, 1, 2, 2, 2, 1, 1, 8, 8, 4, 4, 4, 4, 4, 12]

theorem routeFields_sizes (s : State) (n : SourceId) : (routeFields s n).map Prod.fst = routeSizes := rfl

theorem routeReply_layout (s : State) (n : SourceId) : routeReply s n = layout (routeFields s n) ++ [] := by
  have htrue : boolCode true = 1 := rfl
  unfold routeReply routeFields
  simp only [layout_cons, layout_nil, List.append_assoc, List.append_nil, zeros_eq_leBytes, bit_eq, htrue, Nat.pow_zero, Nat.one_mul,
    Nat.pow_one, Nat.reducePow]

theorem trigger_lt (x : Trigger) : x.code < 256 ^ 1 := by cases x <;> decide

/-- What does not depend on the record and on the copy. -/
theorem routeReply_fields (s : State) (n : SourceId) :
    let bytes := routeReply s n
    let e := s.route n
    let y := s.tally n
    bytes.length = 64 ∧ field bytes 0 1 = boolCode e.enabled ∧ field bytes 1 1 = e.trigger.code ∧
    field bytes 2 2 = e.filter.toNat ∧ field bytes 4 1 = bundleCode e.bundle ∧ field bytes 5 1 = e.rank.val ∧
    field bytes 15 1 = 0 ∧ field bytes 36 4 = y.accepted.toNat ∧ field bytes 40 4 = y.reported.toNat ∧
    field bytes 44 4 = y.cleared.toNat ∧ field bytes 48 4 = y.lost.toNat ∧ field bytes 52 12 = 0 := by
  dsimp only
  have hs := routeFields_sizes s n
  rw [routeReply_layout]
  exact ⟨by rw [List.append_nil, length_layout, hs]; rfl, field_layout hs 0 rfl (by decide) (boolCode_lt _),
    field_layout hs 1 rfl (by decide) (trigger_lt _),
    field_layout hs 2 rfl (by decide) (s.route n).filter.isLt, field_layout hs 3 rfl (by decide) (bundleCode_lt _),
    field_layout hs 4 rfl (by decide) (Nat.lt_trans (s.route n).rank.isLt (by decide)), field_layout hs 11 rfl (by decide) (by decide),
    field_layout hs 15 rfl (by decide) (s.tally n).accepted.isLt, field_layout hs 16 rfl (by decide) (s.tally n).reported.isLt,
    field_layout hs 17 rfl (by decide) (s.tally n).cleared.isLt, field_layout hs 18 rfl (by decide) (s.tally n).lost.isLt,
    field_layout hs 19 rfl (by decide) (by decide)⟩

theorem routeReply_noRecord {s : State} {n : SourceId} (h : s.record n = none) :
    let bytes := routeReply s n
    field bytes 6 1 = 0 ∧ field bytes 8 4 = 0 ∧ field bytes 16 20 = 0 := by
  dsimp only
  have hs := routeFields_sizes s n
  rw [routeReply_layout]
  have hzero {i off k x : Nat} (hf : (routeFields s n)[i]? = some (k, x))
      (ho : off = (routeSizes.take i).sum) (hx : x = 0) : field (layout (routeFields s n) ++ []) off k = 0 := by
    subst hx
    exact field_layout hs i hf ho (Nat.pow_pos (by decide))
  have hpresent (f : PendingRecord → Nat) : ((s.record n).map f).getD 0 = 0 := by rw [h]; rfl
  have hcount : field (layout (routeFields s n) ++ []) 8 2 = 0 := hzero (i := 7) rfl (by decide) (hpresent _)
  have hdetail : field (layout (routeFields s n) ++ []) (8 + 2) 2 = 0 := hzero (i := 8) rfl (by decide) (hpresent _)
  have hfirst : field (layout (routeFields s n) ++ []) 16 8 = 0 := hzero (i := 12) rfl (by decide) (hpresent _)
  have hlast : field (layout (routeFields s n) ++ []) (16 + 8) 8 = 0 := hzero (i := 13) rfl (by decide) (hpresent _)
  have hinterval : field (layout (routeFields s n) ++ []) (16 + (8 + 8)) 4 = 0 := hzero (i := 14) rfl (by decide) (hpresent _)
  have hflags : field (layout (routeFields s n) ++ []) 6 1 = 0 := hzero (i := 5) rfl (by decide) (hpresent _)
  generalize layout (routeFields s n) ++ [] = bytes at hflags hcount hdetail hfirst hlast hinterval
  exact ⟨hflags, field_zero_append hcount hdetail, field_zero_append (field_zero_append hfirst hlast) hinterval⟩

theorem routeReply_record {s : State} {n : SourceId} {x : PendingRecord} (h : s.record n = some x) :
    let bytes := routeReply s n
    field bytes 6 1 = 1 + 2 * boolCode x.detail.isSome + 4 * boolCode ((s.tally n).lost != (s.tally n).lossMark) ∧
      (x.count ≤ 65535 → field bytes 8 2 = x.count) ∧ field bytes 10 2 = (x.detail.getD 0).toNat ∧
      field bytes 16 8 = x.firstTime.toNat ∧ field bytes 24 8 = x.lastTime.toNat ∧ field bytes 32 4 = x.interval.toNat := by
  dsimp only
  have hs := routeFields_sizes s n
  rw [routeReply_layout]
  have hpresent (f : PendingRecord → Nat) : ((s.record n).map f).getD 0 = f x := by rw [h]; rfl
  have hfield {i off k : Nat} (f : PendingRecord → Nat) (hf : (routeFields s n)[i]? = some (k, ((s.record n).map f).getD 0))
      (ho : off = (routeSizes.take i).sum) (hx : f x < 256 ^ k) :
      field (layout (routeFields s n) ++ []) off k = f x := by
    rw [hpresent] at hf
    exact field_layout hs i hf ho hx
  have hdetail := boolCode_le x.detail.isSome
  have hloss := boolCode_le (s.lossFlag n)
  exact ⟨hfield (i := 5) (fun x => 1 + 2 * boolCode x.detail.isSome + 4 * boolCode (s.lossFlag n)) rfl (by decide) (by omega),
    fun hc => hfield (i := 7) (fun x => x.count) rfl (by decide) (half_le hc),
    hfield (i := 8) (fun x => (x.detail.getD 0).toNat) rfl (by decide) (x.detail.getD 0).isLt,
    hfield (i := 12) (fun x => x.firstTime.toNat) rfl (by decide) (time_lt _),
    hfield (i := 13) (fun x => x.lastTime.toNat) rfl (by decide) (time_lt _),
    hfield (i := 14) (fun x => x.interval.toNat) rfl (by decide) x.interval.isLt⟩

theorem routeReply_noCopy {s : State} {n : SourceId} (h : ∀ c ∈ s.copies, c.source ≠ n) :
    let bytes := routeReply s n
    field bytes 7 1 = 0 ∧ field bytes 12 2 = 0 ∧ field bytes 14 1 = 0xFF := by
  dsimp only
  have hs := routeFields_sizes s n
  rw [routeReply_layout]
  have hcopy := copyOf_none h
  have hcount : s.inFlightCount n = 0 := inFlightCountIn_absent h
  refine ⟨field_layout hs 6 ?_ (by decide) (by decide), field_layout hs 9 ?_ (by decide) (by decide),
    field_layout hs 10 ?_ (by decide) (by decide)⟩
  all_goals simp [routeFields, hcopy, hcount, bundleCode]

theorem copyState_lt (x : CopyState) : x.code < 256 ^ 1 := by cases x <;> decide

theorem routeReply_copy {s : State} {n : SourceId} {a : Assembly} (ha : s.assembly = some a) (hd : CopiesDistinct s) {c : Copy}
    (hc : c ∈ a.copies) (hn : c.source = n) (hcount : c.count ≤ 65535) :
    let bytes := routeReply s n
    field bytes 7 1 = c.state.code ∧ field bytes 12 2 = (if c.state = .void then 0 else c.count) ∧ field bytes 14 1 = a.bundle.val := by
  dsimp only
  subst hn
  have hs := routeFields_sizes s c.source
  rw [routeReply_layout]
  have hcopies : s.copies = a.copies := by simp [copies, ha]
  obtain ⟨hfind, hinFlight⟩ := find?_of_distinct hd (hcopies ▸ hc)
  have hcopy : s.copyOf c.source = some c := hfind
  have hinFlight : s.inFlightCount c.source = if c.state = .void then 0 else c.count := hinFlight
  have hlt : (if c.state = .void then 0 else c.count) < 256 ^ 2 := by
    split
    · decide
    · exact half_le hcount
  refine ⟨field_layout hs 6 ?_ (by decide) (copyState_lt _), field_layout hs 9 ?_ (by decide) hlt,
    field_layout hs 10 ?_ (by decide) (Nat.lt_trans a.bundle.isLt (by decide))⟩
  all_goals simp [routeFields, hcopy, hinFlight, ha, bundleCode]

/-! ### TARGET_READ -/

/-- The fields of TARGET_READ's reply (R130). -/
def targetFields (s : State) (k : TargetId) : List (Nat × Nat) :=
  let x := s.target k
  [(1, x.state.code), (1, x.faultReason.code),
    (1, boolCode x.spaceWanted + 2 * boolCode (s.consumerReadInFlight k) + 4 * boolCode x.armed + 8 * boolCode x.signalOwed +
      16 * boolCode x.rearmCheckPending + 32 * boolCode x.detachPending + 64 * boolCode (s.assemblyFor k)),
    (1, s.bundlesIn k .ready), (1, s.bundlesIn k .held), (1, 0), (2, x.ringSize), (8, x.ringAddress.toNat),
    (8, x.consumerAddress.toNat), (8, x.signalAddress.toNat), (4, x.signalData.toNat), (4, x.produced.toNat), (4, x.consumed.toNat),
    (2, x.pollInterval.toNat), (2, x.holdoff.toNat), (4, x.pollTimer.remaining), (4, x.holdoffTimer.remaining),
    (4, s.signalWritesOutstanding k), (4, 0)]

theorem targetFields_sizes (s : State) (k : TargetId) : (targetFields s k).map Prod.fst =
    [1, 1, 1, 1, 1, 1, 2, 8, 8, 8, 4, 4, 4, 2, 2, 4, 4, 4, 4] := rfl

theorem targetReply_layout (s : State) (k : TargetId) : targetReply s k = layout (targetFields s k) ++ [] := by
  unfold targetReply targetFields
  simp only [layout_cons, layout_nil, List.append_assoc, List.append_nil, zeros_eq_leBytes, bit_eq, Nat.pow_zero, Nat.one_mul,
    Nat.pow_one, Nat.reducePow]

theorem targetState_lt (x : TargetState) : x.code < 256 ^ 1 := by cases x <;> decide

theorem faultReason_lt (x : FaultReason) : x.code < 256 ^ 1 := by cases x <;> decide

theorem bundlesIn_lt (s : State) (k : TargetId) (st : BundleState) : s.bundlesIn k st < 256 ^ 1 := by
  have hle : s.bundlesIn k st ≤ 48 := List.countP_le_length.trans (by simp [allBundles])
  exact Nat.lt_of_le_of_lt hle (by decide)

/-- A timer's field in a reply. -/
theorem timer_field {fields : List (Nat × Nat)} {sizes : List Nat} (hs : fields.map Prod.fst = sizes) {i off : Nat} {timer : Timer}
    (h : fields[i]? = some (4, timer.remaining)) (ho : off = (sizes.take i).sum) :
    (timer = .stopped → field (layout fields ++ []) off 4 = 0) ∧
      ∀ us, timer = .running us → us < 2 ^ 32 → field (layout fields ++ []) off 4 = us := by
  refine ⟨?_, ?_⟩
  · rintro rfl
    exact field_layout hs i h ho (by decide)
  · rintro us rfl hus
    exact field_layout hs i h ho hus

theorem targetReply_fields (s : State) (k : TargetId) :
    let bytes := targetReply s k
    let x := s.target k
    let left (timer : Timer) (v : Nat) : Prop := (timer = .stopped → v = 0) ∧ ∀ us, timer = .running us → us < 2 ^ 32 → v = us
    let inState (st : BundleState) : Nat :=
      (List.finRange 48).countP fun b : BundleId => (s.config b).target == some k && (s.run b).state == st
    bytes.length = 64 ∧ field bytes 0 1 = x.state.code ∧ field bytes 1 1 = x.faultReason.code ∧
    field bytes 2 1 = boolCode x.spaceWanted + 2 * boolCode (s.consumerReadInFlight k) + 4 * boolCode x.armed +
      8 * boolCode x.signalOwed + 16 * boolCode x.rearmCheckPending + 32 * boolCode x.detachPending +
      64 * boolCode (s.assemblyFor k) ∧
    field bytes 3 1 = inState .ready ∧ field bytes 4 1 = inState .held ∧ field bytes 5 1 = 0 ∧
    (x.ringSize ≤ 65535 → field bytes 6 2 = x.ringSize) ∧ field bytes 8 8 = x.ringAddress.toNat ∧
    field bytes 16 8 = x.consumerAddress.toNat ∧ field bytes 24 8 = x.signalAddress.toNat ∧
    field bytes 32 4 = x.signalData.toNat ∧ field bytes 36 4 = x.produced.toNat ∧ field bytes 40 4 = x.consumed.toNat ∧
    field bytes 44 2 = x.pollInterval.toNat ∧ field bytes 46 2 = x.holdoff.toNat ∧ left x.pollTimer (field bytes 48 4) ∧
    left x.holdoffTimer (field bytes 52 4) ∧
    (s.signalWritesOutstanding k < 2 ^ 32 → field bytes 56 4 = s.signalWritesOutstanding k) ∧ field bytes 60 4 = 0 := by
  dsimp only
  have hwanted := boolCode_le (s.target k).spaceWanted
  have hreading := boolCode_le (s.consumerReadInFlight k)
  have harmed := boolCode_le (s.target k).armed
  have howed := boolCode_le (s.target k).signalOwed
  have hcheck := boolCode_le (s.target k).rearmCheckPending
  have hpending := boolCode_le (s.target k).detachPending
  have hassembly := boolCode_le (s.assemblyFor k)
  have hs := targetFields_sizes s k
  rw [targetReply_layout]
  exact ⟨by rw [List.append_nil, length_layout, hs]; rfl, field_layout hs 0 rfl (by decide) (targetState_lt _),
    field_layout hs 1 rfl (by decide) (faultReason_lt _), field_layout hs 2 rfl (by decide) (by omega),
    field_layout hs 3 rfl (by decide) (bundlesIn_lt s k .ready),
    field_layout hs 4 rfl (by decide) (bundlesIn_lt s k .held), field_layout hs 5 rfl (by decide) (by decide),
    fun hr => field_layout hs 6 rfl (by decide) (half_le hr),
    field_layout hs 7 rfl (by decide) (s.target k).ringAddress.isLt, field_layout hs 8 rfl (by decide) (s.target k).consumerAddress.isLt,
    field_layout hs 9 rfl (by decide) (s.target k).signalAddress.isLt, field_layout hs 10 rfl (by decide) (s.target k).signalData.isLt,
    field_layout hs 11 rfl (by decide) (s.target k).produced.isLt, field_layout hs 12 rfl (by decide) (s.target k).consumed.isLt,
    field_layout hs 13 rfl (by decide) (s.target k).pollInterval.isLt, field_layout hs 14 rfl (by decide) (s.target k).holdoff.isLt,
    timer_field hs (i := 15) rfl (by decide), timer_field hs (i := 16) rfl (by decide), fun hw => field_layout hs 17 rfl (by decide) hw,
    field_layout hs 18 rfl (by decide) (by decide)⟩

end Sys2Proof.Machine

/-! The statement on the layouts of records: BUNDLE_READ's reply (R69), and the whole (10). -/
namespace Sys2Proof.Machine

open State

/-! ### Source numbers -/

/-- The byte of a list of source numbers at a place, 0xFF behind its end (R164). -/
def sourceByte (l : List SourceId) (k : Nat) : Nat := (l[k]?.map fun n => n.val).getD 0xFF

theorem length_sourceBytes (size : Nat) (l : List SourceId) : (sourceBytes size l).length = size := by
  simp only [sourceBytes, List.length_append, List.length_map, List.length_take, List.length_replicate]
  omega

theorem getElem?_sourceBytes {size k : Nat} (l : List SourceId) (h : k < size) :
    (sourceBytes size l)[k]?.map BitVec.toNat = some (sourceByte l k) := by
  unfold sourceBytes sourceByte
  by_cases hk : k < l.length
  case pos =>
    have hbyte : (BitVec.ofNat 8 l[k].val).toNat = l[k].val := by
      have := l[k].isLt
      simp only [BitVec.toNat_ofNat]
      omega
    rw [List.getElem?_append_left (by simp [h, hk])]
    simp [List.getElem?_take_of_lt h, List.getElem?_eq_getElem hk, hbyte]
  case neg =>
    have hnone : l[k]? = none := List.getElem?_eq_none (Nat.not_lt.1 hk)
    rw [List.getElem?_append_right (by simp; omega), hnone, List.getElem?_replicate, if_pos (by simp; omega)]
    rfl

/-! ### BUNDLE_READ -/

/-- The fields of BUNDLE_READ's reply before its two lists (R69). -/
def bundleFields (s : State) (b : BundleId) (capacity : Nat) : List (Nat × Nat) :=
  let c := s.config b
  let x := s.run b
  let a := s.assemblyOf b
  [(1, boolCode c.enabled), (1, targetCode c.target), (1, c.mode.code), (1, c.sweepLimit), (1, boolCode c.urgent), (1, c.hold.code),
    (2, c.holdTimeout.toNat), (1, c.reminderLimit), (1, x.state.code), (2, x.token.toNat), (1, x.heldSet.length),
    (1, x.remindersPosted), (1, boolCode x.reminderDue + 2 * boolCode (decide (capacity < (s.pendingList b).length))),
    (1, x.holdTimer.code), (2, msRoundedUp x.holdTimer.remaining), (1, (s.waitingReason b).code),
    (1, (a.map fun y => y.kind.code).getD 0), (1, (a.map fun y => y.copies.length).getD 0), (1, 0), (2, (s.pendingList b).length)]

/-- The sizes of these fields. -/
def bundleSizes : List Nat := [1, 1, 1, 1, 1, 1, 2, 1, 1, 2, 1, 1, 1, 1, 2, 1, 1, 1, 1, 2]

theorem bundleFields_sizes (s : State) (b : BundleId) (capacity : Nat) : (bundleFields s b capacity).map Prod.fst = bundleSizes := rfl

/-- The held set's first eight sources, and the list up to the capacity, with its padding (R69). -/
def bundleLists (s : State) (b : BundleId) (capacity : Nat) : List Byte :=
  sourceBytes 8 (s.run b).heldSet ++ (sourceBytes capacity (s.pendingList b) ++ zeros (roundUp8 capacity - capacity))

theorem bundleReply_layout (s : State) (b : BundleId) (capacity : Nat) :
    bundleReply s b capacity = layout (bundleFields s b capacity) ++ bundleLists s b capacity := by
  unfold bundleReply bundleFields bundleLists
  simp only [layout_cons, layout_nil, List.append_assoc, List.nil_append, zeros_eq_leBytes, bit_eq, Nat.pow_zero, Nat.one_mul,
    Nat.pow_one]

theorem mode_lt (x : Mode) : x.code < 256 ^ 1 := by cases x <;> decide

theorem holdMode_lt (x : HoldMode) : x.code < 256 ^ 1 := by cases x <;> decide

theorem bundleState_lt (x : BundleState) : x.code < 256 ^ 1 := by cases x <;> decide

theorem holdTimer_lt (x : HoldTimer) : x.code < 256 ^ 1 := by cases x <;> simp [HoldTimer.code]

theorem waitingReason_lt (x : WaitingReason) : x.code < 256 ^ 1 := by cases x <;> decide

theorem assemblyKind_lt (x : AssemblyKind) : x.code < 256 ^ 1 := by cases x <;> decide

/-- A list holds no source twice, so that its length fits two bytes (R38). -/
theorem pendingList_length_lt (s : State) (b : BundleId) : (s.pendingList b).length < 256 ^ 2 := by
  have hle := (pendingList_nodup s b).length_le_card
  rw [Fintype.card_fin] at hle
  exact Nat.lt_of_le_of_lt hle (by decide)

theorem assemblyOf_none {s : State} {b : BundleId} (h : ∀ a, s.assembly = some a → a.bundle ≠ b) : s.assemblyOf b = none := by
  cases ha : s.assembly with
  | none => simp [assemblyOf, ha]
  | some a => simp [assemblyOf, ha, h a ha]

theorem assemblyOf_some {s : State} {b : BundleId} {a : Assembly} (ha : s.assembly = some a) (hb : a.bundle = b) :
    s.assemblyOf b = some a := by
  simp [assemblyOf, ha, hb]

/-- A byte of the reply's lists. -/
theorem bundleReply_byte (s : State) (b : BundleId) (capacity k : Nat) :
    field (bundleReply s b capacity) (24 + k) 1 = ((bundleLists s b capacity)[k]?.map BitVec.toNat).getD 0 := by
  have hlength : (layout (bundleFields s b capacity)).length = 24 := by
    rw [length_layout, bundleFields_sizes]
    decide
  rw [field_byte, bundleReply_layout, List.getElem?_append_right (by rw [hlength]; omega), hlength, Nat.add_sub_cancel_left]

theorem bundleReply_held (s : State) (b : BundleId) (capacity : Nat) {k : Nat} (h : k < 8) :
    field (bundleReply s b capacity) (24 + k) 1 = sourceByte (s.run b).heldSet k := by
  rw [bundleReply_byte, bundleLists, List.getElem?_append_left (by rw [length_sourceBytes]; exact h), getElem?_sourceBytes _ h]
  rfl

theorem bundleReply_list (s : State) (b : BundleId) {capacity k : Nat} (h : k < capacity) :
    field (bundleReply s b capacity) (32 + k) 1 = sourceByte (s.pendingList b) k := by
  have hoff : 32 + k = 24 + (8 + k) := by omega
  rw [hoff, bundleReply_byte, bundleLists, List.getElem?_append_right (by rw [length_sourceBytes]; omega), length_sourceBytes,
    Nat.add_sub_cancel_left, List.getElem?_append_left (by rw [length_sourceBytes]; exact h), getElem?_sourceBytes _ h]
  rfl

theorem bundleReply_padding (s : State) (b : BundleId) {capacity k : Nat} (h : capacity ≤ k) (h' : k < (capacity + 7) / 8 * 8) :
    field (bundleReply s b capacity) (32 + k) 1 = 0 := by
  have hoff : 32 + k = 24 + (8 + k) := by omega
  have hlt : k - capacity < roundUp8 capacity - capacity := by unfold roundUp8; omega
  rw [hoff, bundleReply_byte, bundleLists, List.getElem?_append_right (by rw [length_sourceBytes]; omega), length_sourceBytes,
    Nat.add_sub_cancel_left, List.getElem?_append_right (by rw [length_sourceBytes]; exact h), length_sourceBytes, zeros,
    List.getElem?_replicate, if_pos hlt]
  rfl

theorem bundleReply_length (s : State) (b : BundleId) (capacity : Nat) :
    (bundleReply s b capacity).length = 32 + (capacity + 7) / 8 * 8 := by
  have hsizes : bundleSizes.sum = 24 := by decide
  have hzeros (k : Nat) : (zeros k).length = k := List.length_replicate
  rw [bundleReply_layout, List.length_append, length_layout, bundleFields_sizes, hsizes, bundleLists, List.length_append,
    List.length_append, length_sourceBytes, length_sourceBytes, hzeros, roundUp8]
  omega

/-- The bundle's configuration and state in the reply (R69). -/
theorem bundleReply_fields (s : State) (b : BundleId) (capacity : Nat) :
    let bytes := bundleReply s b capacity
    let c := s.config b
    let x := s.run b
    let list := s.pendingList b
    field bytes 0 1 = boolCode c.enabled ∧ field bytes 1 1 = targetCode c.target ∧
    field bytes 2 1 = c.mode.code ∧ (c.sweepLimit ≤ 255 → field bytes 3 1 = c.sweepLimit) ∧ field bytes 4 1 = boolCode c.urgent ∧
    field bytes 5 1 = c.hold.code ∧ field bytes 6 2 = c.holdTimeout.toNat ∧
    (c.reminderLimit ≤ 255 → field bytes 8 1 = c.reminderLimit) ∧ field bytes 9 1 = x.state.code ∧
    field bytes 10 2 = x.token.toNat ∧ (x.heldSet.length ≤ 255 → field bytes 12 1 = x.heldSet.length) ∧
    (x.remindersPosted ≤ 255 → field bytes 13 1 = x.remindersPosted) ∧
    field bytes 14 1 = boolCode x.reminderDue + 2 * (if capacity < list.length then 1 else 0) ∧
    field bytes 15 1 = x.holdTimer.code ∧ (x.holdTimer = .stopped → field bytes 16 2 = 0) ∧
    (∀ us, x.holdTimer = .running us ∨ x.holdTimer = .paused us → us ≤ 65535000 → field bytes 16 2 = (us + 999) / 1000) ∧
    field bytes 18 1 = (s.waitingReason b).code ∧ field bytes 21 1 = 0 ∧ field bytes 22 2 = list.length := by
  intro bytes c x list
  have hs := bundleFields_sizes s b capacity
  have hbytes : bytes = _ := bundleReply_layout s b capacity
  have hdue := boolCode_le x.reminderDue
  have hcut : boolCode (decide (capacity < list.length)) = if capacity < list.length then 1 else 0 := by
    simp [boolCode]
  have hcutLe := boolCode_le (decide (capacity < list.length))
  have htimer {v : Nat} (hv : msRoundedUp x.holdTimer.remaining = v) (hlt : v < 256 ^ 2) : field bytes 16 2 = v := by
    subst hv
    rw [hbytes]
    exact field_layout hs 14 rfl (by decide) hlt
  have hremaining us (h : x.holdTimer = .running us ∨ x.holdTimer = .paused us) : x.holdTimer.remaining = us := by
    rcases h with h | h <;> rw [h] <;> rfl
  have hmore : field bytes 14 1 = boolCode x.reminderDue + 2 * (if capacity < list.length then 1 else 0) := by
    rw [← hcut, hbytes]
    exact field_layout hs 12 rfl (by decide) (by omega)
  refine ⟨?_, ?_, ?_, fun hl => ?_, ?_, ?_, ?_, fun hl => ?_, ?_, ?_, fun hl => ?_, fun hl => ?_, hmore, ?_, fun h => ?stopped,
    fun us h hus => ?running, ?_, ?_, ?_⟩
  case stopped => exact htimer (by rw [h]; rfl) (by decide)
  case running => exact htimer (by rw [hremaining us h]; rfl) (by omega)
  all_goals rw [hbytes]
  · exact field_layout hs 0 rfl (by decide) (boolCode_lt _)
  · exact field_layout hs 1 rfl (by decide) (targetCode_lt _)
  · exact field_layout hs 2 rfl (by decide) (mode_lt _)
  · exact field_layout hs 3 rfl (by decide) (byte_le hl)
  · exact field_layout hs 4 rfl (by decide) (boolCode_lt _)
  · exact field_layout hs 5 rfl (by decide) (holdMode_lt _)
  · exact field_layout hs 6 rfl (by decide) c.holdTimeout.isLt
  · exact field_layout hs 7 rfl (by decide) (byte_le hl)
  · exact field_layout hs 8 rfl (by decide) (bundleState_lt _)
  · exact field_layout hs 9 rfl (by decide) x.token.isLt
  · exact field_layout hs 10 rfl (by decide) (byte_le hl)
  · exact field_layout hs 11 rfl (by decide) (byte_le hl)
  · exact field_layout hs 13 rfl (by decide) (holdTimer_lt _)
  · exact field_layout hs 15 rfl (by decide) (waitingReason_lt _)
  · exact field_layout hs 18 rfl (by decide) (by decide)
  · exact field_layout hs 19 rfl (by decide) (pendingList_length_lt s b)

/-- The assembly in flight for the bundle in the reply (R69). -/
theorem bundleReply_assembly (s : State) (b : BundleId) (capacity : Nat) :
    let bytes := bundleReply s b capacity
    ((∀ a, s.assembly = some a → a.bundle ≠ b) → field bytes 19 1 = 0 ∧ field bytes 20 1 = 0) ∧
    ∀ a, s.assembly = some a → a.bundle = b →
      field bytes 19 1 = a.kind.code ∧ (a.copies.length ≤ 255 → field bytes 20 1 = a.copies.length) := by
  dsimp only
  have hs := bundleFields_sizes s b capacity
  rw [bundleReply_layout]
  refine ⟨fun hnone => ?none, fun a ha hb => ?some⟩
  case none =>
    have hassembly := assemblyOf_none hnone
    refine ⟨field_layout hs 16 ?_ (by decide) (by decide), field_layout hs 17 ?_ (by decide) (by decide)⟩
    all_goals simp [bundleFields, hassembly]
  case some =>
    have hassembly := assemblyOf_some ha hb
    refine ⟨field_layout hs 16 ?_ (by decide) (assemblyKind_lt _), fun hl => field_layout hs 17 ?_ (by decide) (byte_le hl)⟩
    all_goals simp [bundleFields, hassembly]

/-- Settles O24: the codes, and the fields of each record by its layout. -/
theorem recordLayouts : Obligations.RecordLayouts := by
  refine ⟨?codes, ⟨fun s n => ?route, fun s b capacity => ?bundle, targetReply_fields⟩, fun size i => ?phase, completionBytes_fields,
    completionBytes_results, entryBytes_fields, headerBytes_fields⟩
  case codes => exact ⟨rfl, rfl, fun _ => rfl, rfl, fun _ => rfl, rfl, rfl, rfl, rfl, rfl, fun _ => rfl, rfl, rfl, rfl, rfl, rfl, rfl⟩
  case phase => simp [phase]
  case route =>
    obtain ⟨hlength, henabled, htrigger, hfilter, hbundle, hrank, hzero, haccepted, hreported, hcleared, hlost, htail⟩ :=
      routeReply_fields s n
    exact ⟨hlength, henabled, htrigger, hfilter, hbundle, hrank, hzero, haccepted, hreported, hcleared, hlost, htail,
      routeReply_noRecord, fun x => routeReply_record, routeReply_noCopy, fun a ha hd c => routeReply_copy ha hd⟩
  case bundle =>
    obtain ⟨henabled, htarget, hmode, hsweep, hurgent, hhold, htimeout, hlimit, hstate, htoken, hheld, hposted, hflags, htimer,
      hstopped, hleft, hwaiting, hzero, hcount⟩ := bundleReply_fields s b capacity
    obtain ⟨hnone, hsome⟩ := bundleReply_assembly s b capacity
    exact ⟨bundleReply_length s b capacity, henabled, htarget, hmode, hsweep, hurgent, hhold, htimeout, hlimit, hstate, htoken,
      hheld, hposted, hflags, htimer, hstopped, hleft, hwaiting, hnone, hsome, hzero, hcount, fun k => bundleReply_held s b capacity,
      fun k => bundleReply_list s b, fun k => bundleReply_padding s b⟩

end Sys2Proof.Machine
